-- ==== Sys2Proof/Word.lean ====
section
/-! DEFINITION. The word types of the engine: bytes, the 32- and 64-bit words of registers and records (R13, R14). -/

namespace Sys2Proof

/-- One byte of memory, of a frame or of the Legend (R13). -/
abbrev Byte := BitVec 8

/-- A 32-bit word: tags, counts, FP32 bit patterns. -/
abbrev W32 := BitVec 32

/-- A 64-bit word: registers (R14), the seed, the round and pass counters. -/
abbrev W64 := BitVec 64

/-- A host-memory byte address has 52 bits (R26). -/
abbrev Addr := BitVec 52

end Sys2Proof
end

