-- ==== Sys2Proof/Syntax.lean ====
section
/-! DEFINITION. The commands of the block: one constructor for each of the 144 rows of spec/opcode_table.json, with the
row's operands. A row that is a CFG write carries the 64-bit value written; a row that is an event of the environment
carries what the environment decides (a response, a measured value, the bytes of a frame). INVALIDATION carries the bytes the other agent
wrote at the range's first byte, as R2 and R399 bind such a write to its invalidation, and whether the range is handed over on INV:
a write whose invalidation does not follow is R235's (log 11). TILE_BEAT carries the tile clock cycles in which the tile waited
first, and what an upset put into one output's register; FLIT_TRANSFER the bits flipped on the link (log 124). -/

namespace Sys2Proof

/-- The name of an accepted command: its queue and its acceptance count in that queue (R304, R305). -/
structure CmdId where
  q : Nat
  n : Nat
  deriving DecidableEq, Repr, Inhabited

/-- An AXI response (R393); a poisoned read beat is SLVERR. -/
inductive Resp
  | okay | exokay | slverr | decerr
  deriving DecidableEq, Repr, Inhabited

/-- The two-bit AXI code of a response (R339). -/
def Resp.code : Resp → Nat
  | .okay => 0 | .exokay => 1 | .slverr => 2 | .decerr => 3

/-- A response of OKAY means success; any other is bad (R393). -/
def Resp.bad (r : Resp) : Bool := r != .okay

/-- What a Footpath transfer carries (R236), as its response names it. -/
inductive FpUse
  /-- A read of the command slot at a queue's HEAD (class 2, R305). -/
  | slot (q : Nat)
  /-- A read of a descriptor or a table a command depends on (class 2, R179, R238). -/
  | table (c : CmdId) (addr : Nat)
  /-- An event record write (class 1, R331). -/
  | record (evq seq : Nat)
  /-- A notification write (class 1, R332). -/
  | notify (evq : Nat)
  /-- A WAIT_FLAG read (class 3, R324). -/
  | flagRead (c : CmdId)
  /-- A SIGNAL_FLAG write (class 3, R325). -/
  | flagWrite (c : CmdId)
  /-- The destination write of a COPY carried by the Footpath (class 4). -/
  | copyWrite (c : CmdId)
  /-- A read of a piece of a look-ahead list, of a context at an address (class 2, R229). -/
  | look (ctx addr : Nat)
  /-- A 4 KiB piece of a Legend fetch (class 5, R380). -/
  | legend
  /-- A checkpoint write (class 5, R369). -/
  | checkpoint
  /-- A read of a piece of the source of a COPY carried by the Footpath (class 4). -/
  | copyRead (c : CmdId) (addr : Nat)
  /-- The engine's own write of a region record or an update record of a context (R58, R282, R319; class 1, log 195). -/
  | state (ctx addr : Nat)
  /-- A transfer whose unit does not wait for it any more: its response is accepted and discarded. -/
  | dropped
  deriving DecidableEq, Repr, Inhabited

/-- What the test access port has selected: BYPASS, IDCODE or an IEEE 1687 access (R406). -/
inductive TapInst | bypass | idcode | access
  deriving DecidableEq, Repr, Inhabited

/-- What the IEEE 1687 network behind the test access port reaches (R406). -/
inductive Instrument | bistStart | bistResults | clockControl | clockWatch | scan
  deriving DecidableEq, Repr, Inhabited

/-- What TCK, TMS, TDI and TRST_N do to the test access port (R387, R406): TRST_N resets it, an instruction is loaded, or the
selected register is shifted out through TDO; for an access the instrument is named. The network can start the BIST. -/
inductive TapEvent
  | trst
  | load (i : TapInst)
  | shift (i : Instrument)
  | bistStart
  deriving DecidableEq, Repr, Inhabited

/-- The test pins (R387, R406): TEST_MODE, and what passes on the test access port. -/
structure TestPins where
  testMode : Bool
  port : List TapEvent
  deriving DecidableEq, Repr, Inhabited

/-- What a self-test found failing: a tile with its checker class 0 to 4, or a shared checker of class 5 to 7 (R340). -/
structure TestFail where
  tile : Nat
  cls : Nat
  deriving DecidableEq, Repr, Inhabited

/-- The results of a BIST run (R383, R425). -/
structure BistResult where
  /-- Bit n: a failure in store n, in the store codes of R339. -/
  stores : Nat
  array : Bool
  links : Bool
  /-- Channels with a failing tile or private SRAM. -/
  chFail : Nat
  /-- A failing Atlas bank or shared store. -/
  shared : Bool
  timeUs : Nat
  deriving DecidableEq, Repr, Inhabited

/-- What another agent wrote (R2, R235, R399): its bytes from the range's base, and whether the range is handed over on INV. -/
structure AgentWrite where
  bytes : List Byte
  handed : Bool
  deriving DecidableEq, Repr, Inhabited

/-- Where the scrubber, or an access, found an error (R240): the store of R339, the word address, and what the word holds. -/
inductive ScrubHit
  /-- Corrected in place and counted. -/
  | corrected (store : Nat)
  /-- An uncorrectable error in a cache line. -/
  | cacheLine (store word line : Nat)
  /-- An uncorrectable error in a line, met where a command consumes it from a cache: the store, the word, the line. -/
  | consumed (store word line : Nat) (c : CmdId)
  /-- An uncorrectable error in scratch, a sheet, an operand buffer or staging that belongs to a command. -/
  | owned (store word : Nat) (c : CmdId)
  /-- An uncorrectable error in the staging of a Traverse port's frame (R161). -/
  | staging (port word : Nat)
  /-- An uncorrectable error in control state private to a channel (R348). -/
  | channelControl (ch store word : Nat)
  /-- An uncorrectable error in control state (R335). -/
  | control (store word : Nat)
  deriving DecidableEq, Repr, Inhabited

/-- The units whose duplicated sequencers are compared, as R339 numbers them. -/
inductive SeqUnit
  | channel (ch : Nat)
  | command | context | traverse | mosaic | safety
  deriving DecidableEq, Repr, Inhabited

/-- Which step of the reset ladder hung (R350). -/
inductive Hang
  /-- A context reset: the channels and the shared unit (4 to 8, as R339; 0 for none) that did not acknowledge. -/
  | context (ctx chans unit : Nat)
  /-- A compute reset: the channels that did not finish. -/
  | compute (chans : Nat)
  /-- An isolation whose clamps are not confirmed. -/
  | isolation (chans : Nat)
  deriving DecidableEq, Repr, Inhabited

/-- The links of a tile (R339): row, column, partial. -/
inductive Link
  | row | col | part
  deriving DecidableEq, Repr, Inhabited

/-- An erroneous addition that a beat makes into an output (R336, R337): the output's place in its block, whether it is the addition of a
group value to the Draft running sum, and the units the register is off by. -/
structure Upset where
  out : Nat
  sum : Bool
  d : Int
  deriving DecidableEq, Repr, Inhabited

/-- The commands of the block. -/
inductive Instr
  -- Operations a begun command runs.
  | gpPair (c : CmdId)
  | gpData (c : CmdId)
  | gpWeight (c : CmdId)
  | mm (c : CmdId)
  | gpGrouped (c : CmdId)
  | convData (c : CmdId)
  | convWeight (c : CmdId)
  | matvec (c : CmdId)
  | survey (c : CmdId)
  | deriv (c : CmdId)
  | pushMark (c : CmdId)
  | discardToMark (c : CmdId)
  | discardAll (c : CmdId)
  | reduceScatter (c : CmdId)
  | vector (c : CmdId)
  | mosaicGather (c : CmdId)
  | replay (c : CmdId)
  | apply (c : CmdId)
  | norm (c : CmdId)
  | copy (c : CmdId)
  | fill (c : CmdId)
  | fence (c : CmdId)
  | waitFlag (c : CmdId)
  | signalFlag (c : CmdId)
  | atBearing (c : CmdId)
  | selftest (c : CmdId)
  | fullSelftest (c : CmdId)
  | preemptSelftest (c : CmdId)
  -- The life of a command.
  | doorbell (q : Nat) (v : W64)
  | commandAccept (q : Nat)
  | commandIssue (q : Nat)
  | commandBegin (q : Nat)
  | frameResolve (c : CmdId)
  | commandComplete (c : CmdId)
  | deadline (c : CmdId)
  | abortDone (c : CmdId)
  | abortTimeout (c : CmdId)
  -- The array.
  | tileBeat (t stalls : Nat) (upset : Option Upset)
  | anchorReady (t : Nat)
  | drainAccept (t : Nat)
  | drainDone (t : Nat)
  | flitTransfer (t : Nat) (link : Link) (upset : List Nat)
  | partialEast (t : Nat)
  -- Feeding.
  | lineRequest (ch : Nat)
  | atlasLineArrive (ch thread : Nat) (uncorrectable : Bool)
  | runAhead (ch thread : Nat)
  | nextOpPrefetch (arr : Nat)
  | memReadResponse (port line : Nat) (resp : Resp)
  | memWriteResponse (port line : Nat) (resp : Resp)
  | footpathResponse (use : FpUse) (resp : Resp)
  | notifyGap (evq : Nat)
  | flagInterval (c : CmdId)
  | invalidation (addr : Addr) (size : BitVec 4) (written : AgentWrite)
  | invFilterFree (slot : Nat)
  | bankConvoy (ch : Nat)
  | scrub (hit : ScrubHit)
  -- The Traverse.
  | traversePush (port : Nat) (bytes : List Byte)
  | traverseCommit (port : Nat)
  | traverseEntryFree (ctx : Nat)
  -- The Mosaic.
  | reduce (lane : Nat) (bytes : List Byte)
  | gather (lane : Nat) (bytes : List Byte)
  | vectorFrame (lane : Nat) (bytes : List Byte)
  | rankReady (ctx : Nat)
  | close (lane : Nat) (bytes : List Byte)
  | decide (lane : Nat) (bytes : List Byte)
  | mosaicDeadline (ctx : Nat)
  | mosGrace (ctx : Nat)
  | mosDecideWait (ctx : Nat)
  | mosResume (ctx : Nat)
  | mosSeal (ctx : Nat)
  | mosVoid (ctx : Nat)
  -- The Datum and the Bearing.
  | datumPulse (valid : Bool) (pass : W64)
  | datumLost
  | accumulatorLimit
  | freePeriod
  | lookahead (entry : Nat)
  | selftestWindow (entry : Nat)
  | checkpoint (entry : Nat)
  | sendOpen (entry : Nat)
  | sendClose (entry : Nat)
  | atBearingReached (c : CmdId)
  | modeReq (v : W64)
  -- The context window and the queues.
  | create
  | update
  | destroy
  | read
  | sync
  | reset
  | contextResetDone (ctx : Nat)
  | enable (q : Nat) (v : W64)
  | queueDisable (q : Nat) (v : W64)
  | restart (q : Nat) (v : W64)
  | evqEnable (q : Nat) (v : W64)
  | evqDisable (q : Nat) (v : W64)
  | evqHead (q : Nat) (v : W64)
  -- Safety, resets and self-test.
  | sequencerMismatch (u : SeqUnit)
  | isolationDone (ch : Nat)
  | clockMonitor (tile mhz : Nat)
  | supply (rail mv : Nat)
  | safeState
  | safeStateTimeout
  | droop (tile mhz : Nat)
  | droopClear (tile : Nat)
  | computeReset (v : W64)
  | computeResetDone
  | isolate (v : W64)
  | resetHang (h : Hang)
  | forcingPoint (batch : Nat)
  | batchTest (batch : Nat)
  | batchDone (batch : Nat) (fail : Option TestFail)
  | rotationEnd
  | fullTestDone (fail : Option TestFail)
  -- The Almanac and the counters.
  | almanacSecond
  | wearSample (samples : List (Nat × Int))
  | toBackup
  | toMain
  | backupLow
  | almanacPor
  | checkpointForced
  | checkpointRetry
  | restore
  | noRestore
  | almTai (v : W64)
  | almSnap
  | stlSnap
  | stlClear
  | clear (offset : Nat) (v : W64)
  -- The Legend and start-up.
  | lgdBegin
  | lgdData (v : W64)
  | fetch
  | legendVerified
  | lgdSeal
  | discard
  | bistRun
  | bistDone (r : BistResult)
  | poresetAssert
  | poresetRelease (pins : TestPins)
  | sysresetAssert
  | sysresetRelease
  | registerWrite (offset : Nat) (v : W64) (strobe : Byte)
  | datumEdgesResumed
  | vddAonBReturn
  | contextOperationDone
  | timebaseTick
  deriving DecidableEq, Repr, Inhabited

end Sys2Proof
end

