-- ==== Sys2Proof/Decode.lean ====
section
/-! DEFINITION. The words of commands. The block has no instruction words: spec/opcode_table.json gives no row any bits, so
no word spells a command (log 1). -/

namespace Sys2Proof

/-- The command that a word spells by the table's bits: none, as the table gives no row bits. -/
def decodeTableWord (_nbits _w : Nat) : Option Instr := none

end Sys2Proof
end

