-- ==== Sys2Proof/Config.lean ====
section
/-! DEFINITION. The free values: what the manual leaves undefined and the model does not choose. Each is a constant
without a body, applied to a stamp from State's counter of draws, so nothing can be proved about its value. -/

namespace Sys2Proof

/-- The content of a memory byte the manual calls undefined (R63, R217, R238, R239, R283): the stamp of the event that
made it undefined, and its address. -/
opaque Config.freeByte : Nat → Nat → Byte

/-- A value the manual does not state, drawn by a command (a conversion to E8M0 or UE4M3 whose
result R99 and R100 leave out; a Traverse bookkeeping byte, R153): the stamp and an index within the draw. -/
opaque Config.freeNat : Nat → Nat → Nat

/-- The FP32 code of a Draft group value that no rule states (logs 15, 139): a function of what R128 lets a result depend on,
the products, their scales and the output, as numbers. -/
opaque Config.groupValue : List Nat → Nat

/-- The order in which contributions reach an element of the merge slab of a Draft GP_GROUPED without ORDERED (R193): a rank for
each, from a stamp and the element with the contribution's group and row; the smaller comes first. -/
opaque Config.arrival : Nat → List Nat → Nat

end Sys2Proof
end

