-- ==== Sys2Proof/Machine/Num.lean ====
section
/-! DEFINITION. The sixteen number formats to the bit, exact values, and conversion with its three rounding modes
(04_number_formats.md, R90 to R101). A finite value is an exact sign-magnitude fraction; every rounding is one exact
comparison, so no intermediate format ever rounds (R97). -/

namespace Sys2Proof

/-- The format codes of R90. -/
inductive Fmt
  | fp32 | fp19 | bf16 | fp16 | e5m2 | e4m3 | e3m2 | e2m3 | e2m1
  | int32 | int8 | uint8z | int4 | uint4z | e8m0 | ue4m3
  deriving DecidableEq, Repr, Inhabited

/-- The format a 4-bit code names (R90). -/
def Fmt.ofCode (c : Nat) : Fmt :=
  match c % 16 with
  | 0 => .fp32 | 1 => .fp19 | 2 => .bf16 | 3 => .fp16 | 4 => .e5m2 | 5 => .e4m3 | 6 => .e3m2 | 7 => .e2m3
  | 8 => .e2m1 | 9 => .int32 | 10 => .int8 | 11 => .uint8z | 12 => .int4 | 13 => .uint4z | 14 => .e8m0 | _ => .ue4m3

/-- The code of a format (R90). -/
def Fmt.code : Fmt → Nat
  | .fp32 => 0 | .fp19 => 1 | .bf16 => 2 | .fp16 => 3 | .e5m2 => 4 | .e4m3 => 5 | .e3m2 => 6 | .e2m3 => 7
  | .e2m1 => 8 | .int32 => 9 | .int8 => 10 | .uint8z => 11 | .int4 => 12 | .uint4z => 13 | .e8m0 => 14 | .ue4m3 => 15

/-- A float format, codes 0x0 to 0x8. -/
def Fmt.isFloat (f : Fmt) : Bool := f.code ≤ 8

/-- A float format the array takes, codes 0x1 to 0x8 (R70, R92). -/
def Fmt.isArrayFloat (f : Fmt) : Bool := 1 ≤ f.code && f.code ≤ 8

/-- An integer format MM takes (R70, R92). -/
def Fmt.isInt (f : Fmt) : Bool := 10 ≤ f.code && f.code ≤ 13

/-- A zero-point format (R144). -/
def Fmt.isZp : Fmt → Bool
  | .uint8z | .uint4z => true
  | _ => false

/-- Exponent bits E of a float or scale format (R90). -/
def Fmt.ebits : Fmt → Nat
  | .fp32 | .fp19 | .bf16 | .e8m0 => 8
  | .fp16 | .e5m2 => 5
  | .e4m3 | .ue4m3 => 4
  | .e3m2 => 3
  | .e2m3 | .e2m1 => 2
  | _ => 0

/-- Mantissa bits M of a float or scale format (R90). -/
def Fmt.mbits : Fmt → Nat
  | .fp32 => 23 | .fp19 | .fp16 => 10 | .bf16 => 7 | .e5m2 | .e3m2 => 2 | .e4m3 | .e2m3 | .ue4m3 => 3 | .e2m1 => 1
  | _ => 0

/-- Exponent bias B (R90). -/
def Fmt.bias : Fmt → Int
  | .fp32 | .fp19 | .bf16 | .e8m0 => 127
  | .fp16 | .e5m2 => 15
  | .e4m3 | .ue4m3 => 7
  | .e3m2 => 3
  | .e2m3 | .e2m1 => 1
  | _ => 0

/-- The format has infinities: all-ones exponent, mantissa 0 (R90). -/
def Fmt.hasInf : Fmt → Bool
  | .fp32 | .fp19 | .bf16 | .fp16 | .e5m2 => true
  | _ => false

/-- Bits an element's code takes (R91): an FP19 code is bits [31:13] of its container. -/
def Fmt.width : Fmt → Nat
  | .fp32 | .int32 => 32 | .fp19 => 19 | .bf16 | .fp16 => 16
  | .e3m2 | .e2m3 => 6 | .e2m1 | .int4 | .uint4z => 4 | _ => 8

/-- Bits an element takes in storage (R91). -/
def Fmt.storeBits : Fmt → Nat
  | .fp19 => 32
  | f => f.width

/-- An exact value: NaN, an infinity, or a signed exact fraction (zero keeps a sign, R96). -/
inductive XVal
  | nan
  | inf (neg : Bool)
  | fin (neg : Bool) (num den : Nat)
  deriving DecidableEq, Repr, Inhabited

/-- Plus zero. -/
def XVal.zero : XVal := .fin false 0 1

/-- One. -/
def XVal.one : XVal := .fin false 1 1

/-- The value of an integer. -/
def XVal.ofInt (i : Int) : XVal := .fin (decide (i < 0)) i.natAbs 1

/-- The value m · 2^e with a sign. -/
def XVal.scaled (neg : Bool) (m : Nat) (e : Int) : XVal :=
  if 0 ≤ e then .fin neg (m * 2 ^ e.toNat) 1 else .fin neg m (2 ^ (-e).toNat)

/-- 2^e. -/
def XVal.pow2 (e : Int) : XVal := XVal.scaled false 1 e

/-- The value is a zero. -/
def XVal.isZero : XVal → Bool
  | .fin _ n _ => n == 0
  | _ => false

/-- The value is finite. -/
def XVal.isFin : XVal → Bool
  | .fin _ _ _ => true
  | _ => false

/-- The value's sign bit. -/
def XVal.sign : XVal → Bool
  | .nan => false
  | .inf s => s
  | .fin s _ _ => s

/-- The value with its sign turned. -/
def XVal.neg : XVal → XVal
  | .nan => .nan
  | .inf s => .inf (!s)
  | .fin s n d => .fin (!s) n d

/-- The magnitude. -/
def XVal.abs : XVal → XVal
  | .nan => .nan
  | .inf _ => .inf false
  | .fin _ n d => .fin false n d

/-- The numerator with its sign. -/
def XVal.snum : XVal → Int
  | .fin s n _ => if s then -(n : Int) else n
  | _ => 0

/-- The denominator. -/
def XVal.sden : XVal → Nat
  | .fin _ _ d => d
  | _ => 1

/-- A finite value from a signed fraction; a zero is +0 (R96). -/
def XVal.ofFrac (n : Int) (d : Nat) : XVal := .fin (decide (n < 0)) n.natAbs d

/-- The exact product under IEEE 754 (R94). -/
def XVal.mul : XVal → XVal → XVal
  | .nan, _ => .nan
  | _, .nan => .nan
  | .inf s, .inf t => .inf (s != t)
  | .inf s, .fin t n _ => if n = 0 then .nan else .inf (s != t)
  | .fin t n _, .inf s => if n = 0 then .nan else .inf (s != t)
  | .fin s n d, .fin t m e => .fin (s != t) (n * m) (d * e)

/-- The exact sum under IEEE 754; a zero sum is +0 (R94, R96). -/
def XVal.add : XVal → XVal → XVal
  | .nan, _ => .nan
  | _, .nan => .nan
  | .inf s, .inf t => if s = t then .inf s else .nan
  | .inf s, .fin _ _ _ => .inf s
  | .fin _ _ _, .inf s => .inf s
  | .fin s n d, .fin t m e =>
    if d = e then XVal.ofFrac (XVal.snum (.fin s n d) + XVal.snum (.fin t m e)) d
    else XVal.ofFrac (XVal.snum (.fin s n d) * e + XVal.snum (.fin t m e) * d) (d * e)

/-- The exact difference. -/
def XVal.sub (a b : XVal) : XVal := a.add b.neg

/-- The exact quotient under IEEE 754 (R135): x/0 is an infinity, 0/0 is NaN. -/
def XVal.div : XVal → XVal → XVal
  | .nan, _ => .nan
  | _, .nan => .nan
  | .inf _, .inf _ => .nan
  | .inf s, .fin t _ _ => .inf (s != t)
  | .fin s _ _, .inf t => .fin (s != t) 0 1
  | .fin s n d, .fin t m e =>
    if m = 0 then (if n = 0 then .nan else .inf (s != t)) else .fin (s != t) (n * e) (d * m)

/-- Less-than on finite values and infinities; false with a NaN (R172). -/
def XVal.lt : XVal → XVal → Bool
  | .nan, _ => false
  | _, .nan => false
  | .inf s, .inf t => s && !t
  | .inf s, .fin _ _ _ => s
  | .fin _ _ _, .inf t => !t
  | .fin s n d, .fin t m e =>
    decide (XVal.snum (.fin s n d) * e < XVal.snum (.fin t m e) * d)

/-- At most; false with a NaN. -/
def XVal.le (a b : XVal) : Bool :=
  match a, b with
  | .nan, _ => false
  | _, .nan => false
  | a, b => !(b.lt a)

/-- The larger of two values; the first where they are equal or a NaN stands. -/
def XVal.max (a b : XVal) : XVal := if a.lt b then b else a

/-- An exact value as numbers. -/
def XVal.nums : XVal → List Nat
  | .nan => [0]
  | .inf s => [1, if s then 1 else 0]
  | .fin s n d => [2, if s then 1 else 0, n, d]

/-- ⌊log₂(n/d)⌋ of a positive fraction. -/
def ilog2 (n d : Nat) : Int :=
  let k : Int := (n.log2 : Int) - (d.log2 : Int)
  let ge : Bool := if 0 ≤ k then decide (d * 2 ^ k.toNat ≤ n) else decide (d ≤ n * 2 ^ (-k).toNat)
  if ge then k else k - 1

/-- ⌊log₂|x|⌋ of a finite non-zero value; 0 otherwise. -/
def XVal.expo : XVal → Int
  | .fin _ n d => if n = 0 then 0 else ilog2 n d
  | _ => 0

/-- The quotient, remainder and divisor of (n/d) in units of 2^u. -/
def inUnits (n d : Nat) (u : Int) : Nat × Nat × Nat :=
  if 0 ≤ u then (n / (d * 2 ^ u.toNat), n % (d * 2 ^ u.toNat), d * 2 ^ u.toNat)
  else (n * 2 ^ (-u).toNat / d, n * 2 ^ (-u).toNat % d, d)

/-- The value truncated toward zero to a multiple of 2^u, as an integer count of units (R109, R117). -/
def XVal.truncUnits (x : XVal) (u : Int) : Int :=
  match x with
  | .fin s n d => let q : Int := (inUnits n d u).1; if s then -q else q
  | _ => 0

/-- Truncation to a multiple of 2^u changes the value (R119). -/
def XVal.truncLoses (x : XVal) (u : Int) : Bool :=
  match x with
  | .fin _ n d => (inUnits n d u).2.1 != 0
  | _ => false

/-- The rounding modes of R98. -/
inductive Rnd
  | rne | rtz | sr16
  deriving DecidableEq, Repr, Inhabited

/-- The mode a ROUND field names; 3 never passes issue (R98). -/
def Rnd.ofCode (c : Nat) : Rnd := match c with | 0 => .rne | 1 => .rtz | _ => .sr16

/-- The rounding step of R99 at a quotient q with remainder r of divisor d: does the magnitude go up? -/
def roundUp (m : Rnd) (u q r d : Nat) : Bool :=
  match m with
  | .rtz => false
  | .rne => decide (d < 2 * r) || (decide (d = 2 * r) && q % 2 == 1)
  | .sr16 => decide (u < r * 65536 / d)

/-- Unbounded rounding of a positive fraction to M mantissa bits with lowest normal exponent emin (R99): the result is
the first component times 2 to the second. -/
def roundMag (m : Rnd) (u : Nat) (n d mb : Nat) (emin : Int) : Nat × Int :=
  let e : Int := if ilog2 n d < emin then emin else ilog2 n d
  let un : Int := e - mb
  let (q, r, dv) := inUnits n d un
  (if roundUp m u q r dv then q + 1 else q, un)

/-- The largest finite value of a float or scale format as units times 2^exponent (R90). -/
def Fmt.maxFin (f : Fmt) : Nat × Int :=
  match f with
  | .e4m3 | .ue4m3 => (14, 5)
  | .e8m0 => (1, 127)
  | f =>
    let top : Int := (2 ^ f.ebits : Nat) - 1 - f.bias - (if f.hasInf then 1 else 0)
    (2 ^ (f.mbits + 1) - 1, top - f.mbits)

/-- The largest finite value as an exact value (R90). -/
def Fmt.fmax (f : Fmt) : XVal :=
  match f with
  | .int8 => .fin false 127 1
  | .int4 => .fin false 7 1
  | f => XVal.scaled false f.maxFin.1 f.maxFin.2

/-- The exponent of the top binade (R133, Table: Survey constants of each destination format). -/
def Fmt.emax (f : Fmt) : Int :=
  match f with
  | .int8 => 6
  | .int4 => 2
  | f => f.fmax.expo

/-- The ends of an integer format's stored range (R90). -/
def Fmt.irange : Fmt → Int × Int
  | .int32 => (-2147483648, 2147483647)
  | .int8 => (-128, 127)
  | .int4 => (-8, 7)
  | .uint8z => (0, 255)
  | .uint4z => (0, 15)
  | _ => (0, 0)

/-- The code of the canonical NaN a format writes; 0 where it has none (R90, R100). -/
def Fmt.nanCode : Fmt → Nat
  | .fp32 => 0x7FC00000
  | .fp19 => 0x3FE00
  | .bf16 => 0x7FC0
  | .fp16 => 0x7E00
  | .e5m2 | .e4m3 | .ue4m3 => 0x7F
  | .e8m0 => 0xFF
  | _ => 0

/-- The format has a NaN (R90). -/
def Fmt.hasNan (f : Fmt) : Bool := f.nanCode != 0

/-- The sign bit's place in a code. -/
def Fmt.signBit (f : Fmt) : Nat := f.ebits + f.mbits

/-- The exact value a code stands for (R90). A zero-point format gives the stored integer q; the zero point is
subtracted where the value is used (R97). -/
def Fmt.decode (f : Fmt) (c : Nat) : XVal :=
  match f with
  | .int32 => .ofInt (signed 32 c)
  | .int8 => .ofInt (signed 8 c)
  | .int4 => .ofInt (signed 4 c)
  | .uint8z => .ofInt ((c % 256 : Nat) : Int)
  | .uint4z => .ofInt ((c % 16 : Nat) : Int)
  | .e8m0 => if c % 256 = 255 then .nan else XVal.pow2 ((c % 256 : Nat) - 127)
  | f =>
    let e := bits c f.mbits f.ebits
    let m := bits c 0 f.mbits
    let s := f != .ue4m3 && bits c f.signBit 1 == 1
    if f.hasInf && e == 2 ^ f.ebits - 1 then (if m = 0 then .inf s else .nan)
    else if (f == .e4m3 || f == .ue4m3) && e == 15 && m == 7 then .nan
    else if e = 0 then XVal.scaled s m (1 - f.bias - f.mbits)
    else XVal.scaled s (2 ^ f.mbits + m) ((e : Int) - f.bias - f.mbits)

/-- The code of the magnitude q · 2^u of a float format, q below 2^(M+1) or equal to it (a carry into the next binade). -/
def Fmt.encodeMag (f : Fmt) (q : Nat) (u : Int) : Nat :=
  if q < 2 ^ f.mbits then q
  else if q < 2 ^ (f.mbits + 1) then ((u + f.mbits + f.bias).toNat) * 2 ^ f.mbits + (q - 2 ^ f.mbits)
  else ((u + f.mbits + 1 + f.bias).toNat) * 2 ^ f.mbits

/-- The outcome of one conversion: the code, and the two counts of R101. -/
structure Conv where
  code : Nat
  ovf : Bool
  nanLost : Bool
  deriving DecidableEq, Repr, Inhabited

/-- A magnitude q · 2^u lies above the format's largest finite value (R100). -/
def Fmt.tooBig (f : Fmt) (q : Nat) (u : Int) : Bool :=
  XVal.lt f.fmax (XVal.scaled false q u)

/-- The code of the largest finite magnitude. -/
def Fmt.maxCode (f : Fmt) : Nat := f.encodeMag f.maxFin.1 f.maxFin.2

/-- The code of infinity. -/
def Fmt.infCode (f : Fmt) : Nat := (2 ^ f.ebits - 1) * 2 ^ f.mbits

/-- Put a sign on a float code. -/
def Fmt.withSign (f : Fmt) (s : Bool) (c : Nat) : Nat := if s then c + 2 ^ f.signBit else c

/-- The result of an overflow, or of an infinite source, under OVF (R100). -/
def Fmt.overflowCode (f : Fmt) (rtz inf s : Bool) : Nat :=
  if f.hasInf then (if inf && !rtz then f.withSign s f.infCode else f.withSign s f.maxCode)
  else if (f == .e4m3 || f == .ue4m3) && inf && !rtz then f.nanCode
  else f.withSign s f.maxCode

/-- Conversion to an integer format (R99, R100): z is the stored value of a NaN in a zero-point format. -/
def Fmt.convInt (f : Fmt) (m : Rnd) (u : Nat) (z : Int) (x : XVal) : Conv :=
  let (lo, hi) := f.irange
  match x with
  | .nan => ⟨unsigned f.width (if f.isZp then z else 0), false, true⟩
  | .inf s => ⟨unsigned f.width (if s then lo else hi), true, false⟩
  | .fin s n d =>
    let q := n / d
    let r := n % d
    let a := if r = 0 then q else if roundUp m u q r d then q + 1 else q
    let v : Int := (if s then -(a : Int) else a) + (if f.isZp then z else 0)
    if v < lo then ⟨unsigned f.width lo, true, false⟩
    else if hi < v then ⟨unsigned f.width hi, true, false⟩
    else ⟨unsigned f.width v, false, false⟩

/-- One conversion into a float format under ROUND and OVF (R97 to R100). -/
def Fmt.convFloat (f : Fmt) (m : Rnd) (inf : Bool) (u : Nat) (x : XVal) : Conv :=
  match x with
  | .nan => ⟨f.nanCode, false, !f.hasNan⟩
  | .inf s =>
    if f.hasInf then ⟨f.withSign s f.infCode, false, false⟩
    else ⟨f.overflowCode false inf s, true, false⟩
  | .fin s n d =>
    if n = 0 then ⟨f.withSign s 0, false, false⟩
    else
      let (q, un) := roundMag m u n d f.mbits (1 - f.bias)
      if f.tooBig q un then ⟨f.overflowCode (m == .rtz) inf s, true, false⟩
      else ⟨f.withSign s (f.encodeMag q un), false, false⟩

/-- Conversion to E8M0, whose values are the powers of two from 2^-127 to 2^127 (R90, R99 to R101): a value between 2^e and
2^(e+1) goes to one of the two by its rounding mode. What R99 and R100 do not state is the free value given (log 8): an exact
tie of RNE, which no mantissa bit decides; zero, a negative value, an infinity; an overflow other than RTZ's; a result below
2^-127. An overflow and an infinity are counted all the same (R101). -/
def Fmt.convE8m0 (m : Rnd) (u free : Nat) (x : XVal) : Conv :=
  match x with
  | .nan => ⟨0xFF, false, false⟩
  | .inf _ => ⟨free % 256, true, false⟩
  | .fin s n d =>
    if n = 0 then ⟨free % 256, false, false⟩
    else
      let e := ilog2 n d
      let (q, r, dv) := inUnits n d e
      let up := if m == .rne && dv == 2 * r then free % 2 == 1 else roundUp m u q r dv
      let e' := if up then e + 1 else e
      if 127 < e' then ⟨if m == .rtz && !s then 254 else free % 256, true, false⟩
      else if s || e' < -127 then ⟨free % 256, false, false⟩
      else ⟨(e' + 127).toNat, false, false⟩

/-- Conversion to UE4M3 (R90, R99 to R101): as E4M3 for a value that is not negative. What R100 does not state is the free
value given (log 8): a negative value, an infinity, and an overflow other than RTZ's; the last two are counted (R101). -/
def Fmt.convUe4m3 (m : Rnd) (u free : Nat) (x : XVal) : Conv :=
  match x with
  | .nan => ⟨Fmt.ue4m3.nanCode, false, false⟩
  | .inf _ => ⟨free % 128, true, false⟩
  | .fin s n d =>
    let (q, un) := roundMag m u n d Fmt.ue4m3.mbits (1 - Fmt.ue4m3.bias)
    if Fmt.ue4m3.tooBig q un then ⟨if m == .rtz && !s then Fmt.ue4m3.maxCode else free % 128, true, false⟩
    else if s then ⟨free % 128, false, false⟩
    else ⟨Fmt.ue4m3.encodeMag q un, false, false⟩

/-- One conversion into any format (R97 to R101); free is what stands for a result the rules do not state (log 8). -/
def Fmt.conv (f : Fmt) (m : Rnd) (inf : Bool) (u : Nat) (z : Int) (free : Nat) (x : XVal) : Conv :=
  if f.isFloat then f.convFloat m inf u x
  else if f == .e8m0 then Fmt.convE8m0 m u free x
  else if f == .ue4m3 then Fmt.convUe4m3 m u free x
  else f.convInt m u z x

/-- The value rounded once to FP32 with RNE, overflow to infinity (R88, R111). -/
def r32 (x : XVal) : XVal := Fmt.fp32.decode (Fmt.fp32.convFloat .rne true 0 x).code

/-- The value rounded once to FP32 with SR16 under the draw u; a sum that overflows becomes an infinity (R111). -/
def sr32 (u : Nat) (x : XVal) : XVal := Fmt.fp32.decode (Fmt.fp32.convFloat .sr16 true u x).code

/-- The FP32 bit pattern of a value that is FP32. -/
def fp32Code (x : XVal) : Nat := (Fmt.fp32.convFloat .rne true 0 x).code

/-- FP32 operations rounded once with RNE (R172, R280). -/
def fadd (a b : XVal) : XVal := r32 (a.add b)
/-- FP32 subtraction, RNE. -/
def fsub (a b : XVal) : XVal := r32 (a.sub b)
/-- FP32 multiplication, RNE. -/
def fmul (a b : XVal) : XVal := r32 (a.mul b)
/-- FP32 division, RNE. -/
def fdiv (a b : XVal) : XVal := r32 (a.div b)
/-- FP32 fused multiply-add, rounded once with RNE. -/
def ffma (a b c : XVal) : XVal := r32 ((a.mul b).add c)

/-- Integer square root by Newton steps from above; the fuel is more than the steps needed. -/
def isqrtGo : Nat → Nat → Nat → Nat
  | 0, _, x => x
  | k + 1, n, x => let y := (x + n / x) / 2; if y < x then isqrtGo k n y else x

/-- ⌊√n⌋. -/
def isqrt (n : Nat) : Nat := if n = 0 then 0 else isqrtGo (n.log2 + 2) n (2 ^ (n.log2 / 2 + 1))

/-- The correctly rounded FP32 square root (R278, R280): the root is taken to 80 bits beyond the point with a sticky
half unit, so the one rounding of r32 is that of the exact root. A negative value gives NaN, as IEEE 754. -/
def fsqrt (x : XVal) : XVal :=
  match x with
  | .nan => .nan
  | .inf s => if s then .nan else .inf false
  | .fin s n d =>
    if n = 0 then .fin s 0 1
    else if s then .nan
    else
      let k : Nat := ((80 - ilog2 n d).toNat) / 2 + 40
      let v := n * 2 ^ (2 * k) / d
      let r := isqrt v
      if r * r * d = n * 2 ^ (2 * k) then r32 (.fin false r (2 ^ k)) else r32 (.fin false (2 * r + 1) (2 ^ (k + 1)))

end Sys2Proof
end

