-- ==== Sys2Proof/Machine/State.lean ====
section
/-! DEFINITION. The state of the engine as plain data: every register, queue, table, buffer, counter, mode and pin the
manual gives it, the memory behind its ports, and the queue of commands that wait; what can stop a step; and the state
right after reset. Each group is a structure of its own, named after the registers' prefixes (R14). -/

namespace Sys2Proof.Machine

open Sys2Proof

/-! ## Small data -/

/-- The five configurations (R4, R5, R388). -/
inductive Size
  | s1 | s4 | m16 | l64 | x256
  deriving DecidableEq, Repr, Inhabited

/-- The constants of the delivered block (R7, R375, R406): no step changes them. -/
structure Build where
  size : Size
  drop : Byte
  key0 : BitVec 384
  key1 : BitVec 384
  mfr : BitVec 11
  deriving DecidableEq, Repr, Inhabited

/-- An error counter (R365). -/
structure ErrCtr where
  value : Nat
  sat : Bool
  thr : Bool
  threshold : Nat
  /-- VALUE has come to THRESHOLD since the last CLEAR: no further record follows (R365). -/
  told : Bool
  /-- The control time at which THR was last set: a write of that cycle does not clear it (R17). -/
  thrAt : Option Nat
  /-- The control time of the last increment, and the increments of that cycle: a CLEAR of the cycle leaves them (R365). -/
  recent : Nat × Nat
  deriving DecidableEq, Repr, Inhabited

/-- A performance counter (R365). -/
structure PerfCtr where
  value : Nat
  wrap : Bool
  /-- The control time of the last wrap: a write of that cycle does not clear WRAP (R17). -/
  wrapAt : Option Nat
  /-- The control time of the last increment, and the increments of that cycle: a clear of the cycle leaves them (R365). -/
  recent : Nat × Nat
  deriving DecidableEq, Repr, Inhabited

/-- An error counter at reset: THRESHOLD 1,024 (R409). -/
def ErrCtr.init : ErrCtr := ⟨0, false, false, 1024, false, none, (0, 0)⟩

/-- A performance counter at reset. -/
def PerfCtr.init : PerfCtr := ⟨0, false, none, (0, 0)⟩

/-- A fault code with its detail and its place (R329, R339): slot 0xF is the command itself. -/
structure Cause where
  code : Nat
  detail : Nat
  slot : Nat
  byte : Nat
  deriving DecidableEq, Repr, Inhabited

/-! ## Events (14_commands_contexts_and_events.md) -/

/-- One event record as it was formed (R327). -/
structure Rec where
  evq : Nat
  seq : Nat
  type : Nat
  sev : Nat
  ctx : Nat
  queue : Nat
  bearing : Nat
  tracker : Nat
  tag : Nat
  pass : Nat
  payload : Nat
  deriving DecidableEq, Repr, Inhabited

/-- One event queue (R326, R416, R417, R332). -/
structure EvQueue where
  base : Nat
  log2 : Nat
  notify : Nat
  enable : Bool
  disabling : Bool
  cfgErr : Bool
  head : Nat
  tail : Nat
  reserved : Nat
  addr : Nat
  gap : Nat
  lost : ErrCtr
  /-- The pending lost count of R326. -/
  pend : Nat
  /-- COALESCE: the gap of the last notification is running. -/
  gapRunning : Bool
  /-- When that gap began. -/
  gapAt : Nat
  /-- COALESCE: a record awaits the end of the gap for its notification. -/
  owes : Bool
  /-- SEQ of the last record whose write response has returned (R332). -/
  acked : Nat
  deriving DecidableEq, Repr, Inhabited

/-- An event queue at reset. -/
def EvQueue.init : EvQueue := ⟨0, 0, 0, false, false, false, 0, 0, 0, 0, 10, ErrCtr.init, 0, false, 0, false, 0⟩

/-- A Footpath transfer that waits for its response (R236, R393), with what the response decides. -/
structure FpReq where
  use : FpUse
  /-- A record write: notify at once whatever the gap (NOTIFY, R332). -/
  now : Bool
  addr : Nat
  /-- The bytes a write carries; they reach memory with its OKAY response. -/
  data : List Byte
  /-- The bytes it touches, of a read those it asks for. -/
  len : Nat
  deriving DecidableEq, Repr, Inhabited

/-! ## Command queues and commands -/

/-- Queue states (R306). -/
inductive QState
  | disabled | active | paused | stopped | draining
  deriving DecidableEq, Repr, Inhabited

/-- One command queue (R303 to R307, R415). -/
structure CmQueue where
  base : Nat
  log2 : Nat
  ctx : Nat
  state : QState
  cfgErr : Bool
  pub : Nat
  head : Nat
  /-- Context sequence numbers of the published slots that are not accepted, in slot order (R307). -/
  nums : List Nat
  /-- The descriptor in the slot at HEAD as the Footpath has read it (R305). -/
  slot : Option Nat
  deriving DecidableEq, Repr, Inhabited

/-- A command queue at reset. -/
def CmQueue.init : CmQueue := ⟨0, 0, 0, .disabled, false, 0, 0, [], none⟩

/-- Where a command is in its life (R305, R308, R239). -/
inductive Phase
  /-- Accepted, its descriptors not yet checked. -/
  | accepted
  /-- Passed the issue checks. -/
  | issued
  /-- Begun on its unit. -/
  | begun
  /-- Its work is done; its record waits for the write responses it owes. -/
  | done
  /-- Aborting (R239) for its terminal cause. -/
  | aborting
  deriving DecidableEq, Repr, Inhabited

/-- A frame a command has resolved and pins (R164, R165). -/
structure FrameRef where
  slot : Nat
  entry : Nat
  pop : Bool
  /-- The packed problem the slot belongs to; 0 where not packed. -/
  prob : Nat
  deriving DecidableEq, Repr, Inhabited

/-- What a command counts for its record (R101, R115, R119, R279, R316, R328). -/
structure Counts where
  ovf : Nat
  nanLost : Nat
  trunc : Nat
  longsum : Bool
  /-- Saturated outputs and saturated region elements (LONGSUM detail). -/
  satOut : Nat
  satRegion : Nat
  watch : Bool
  skipped : Bool
  nonfinite : Nat
  deriving DecidableEq, Repr, Inhabited

/-- No counts. -/
def Counts.zero : Counts := ⟨0, 0, 0, false, 0, 0, false, false, 0⟩

/-- A key of the stochastic-rounding generator with the inputs it was drawn from (R103), sampled when the command begins. -/
structure KeySample where
  seed : W64
  round : W64
  pass : Nat
  deriving DecidableEq, Repr, Inhabited

/-- The choices made at the start of execution (R77, R178, R184, R301). -/
structure RunInfo where
  epoch : Nat
  /-- The mode set of the epoch (bits of MODE_STAGE). -/
  mode : Nat
  bucket : Nat
  /-- Extents the command runs at: M, K, N of the bucket, or the allocated ones. -/
  em : Nat
  ek : Nat
  en : Nat
  /-- Actual extents. -/
  am : Nat
  ak : Nat
  an : Nat
  /-- 0 OS, 1 WS, 2 IS, 3 Spur (R328). -/
  dataflow : Nat
  /-- The array it runs on; none for a unit that is no array. -/
  arr : Option Nat
  spur : Bool
  key : KeySample
  /-- The stamp of the free values the command draws. -/
  free : Nat
  deriving DecidableEq, Repr, Inhabited

/-- No choices yet. -/
def RunInfo.none : RunInfo := ⟨0, 0, 0, 0, 0, 0, 0, 0, 0, 0, Option.none, false, ⟨0, 0, 0⟩, 0⟩

/-- One accepted command without its record. -/
structure Cmd where
  id : CmdId
  ctx : Nat
  /-- The context's sequence number (R307). -/
  seq : Nat
  /-- Engine-wide order of acceptance (R323). -/
  acc : Nat
  /-- The event queue that holds its reserved slot (R326). -/
  evq : Nat
  /-- The 1,024-bit descriptor (R310). -/
  raw : Nat
  /-- The 512-bit tensor descriptors of slots 0 to 6; 0 where absent (R311). -/
  slots : List Nat
  /-- The problems of a packed operation: the 512-bit table entry and its seven tensor descriptors (R313). -/
  probs : List (Nat × List Nat)
  phase : Phase
  /-- The deadline armed: the time it expires and the µs it was armed with (R309). -/
  armed : Option (Nat × Nat)
  /-- When its abort was started, or its flag was last read (R324, R351). -/
  since : Nat
  cause : Option Cause
  run : RunInfo
  frames : List FrameRef
  counts : Counts
  /-- Lines whose write responses the command awaits (R219). -/
  owed : List Nat
  /-- Lines that drains of tiles have written for it, each with the channel of the tile (R348). -/
  wrote : List (Nat × Nat)
  /-- Lines whose demand read responses the command awaits (R239). -/
  reads : List Nat
  /-- Footpath transfers of its own that await a response. -/
  fpOwed : Nat
  /-- Indices of the context's region records the command has drained into (R63). -/
  touched : List Nat
  /-- Of those, the ones it found FRESH and drained into first (R59). -/
  firsts : List Nat
  /-- Of those with SHADOW, the ones whose elements outside its actual extents it has copied (R185). -/
  carried : List Nat
  /-- Blocks of its output already drained by the array's own events. -/
  drained : List Nat
  /-- AT_BEARING: the pass target counted in pulses still to come; none for a numbered pass (R296). -/
  waitPulses : Option Nat
  /-- SELFTEST: the batches it still waits for (R356), and of those tested for it the number, whether one was forced and
  the first failing tile (R357). -/
  batches : List Nat
  tested : Nat
  testForced : Bool
  testFail : Option Nat
  /-- Its work is placed: on the Mosaic stream, on the stack (a discard), with the self-test scheduler, on the Footpath
  (SIGNAL_FLAG); AT_BEARING: its Bearing has not passed in this pass. -/
  placed : Bool
  /-- The time the command began execution. -/
  began : Nat
  /-- Entries of the stack a discard removes, whose freeing it waits for (R168). -/
  removes : List Nat
  /-- Bytes of its metadata streams and tables as they were consumed: strip headers, list pairs, row indices, and what the Footpath
  has read for it, descriptors, tables and the source of a small COPY (R190, R200, R215, R236). -/
  streams : List Host.Cell
  /-- Addresses of the pieces that the Footpath has read for it. -/
  tabs : List Nat
  /-- Bytes of the regions it drains into as their lines were delivered toward the drains, until they are added to (R215). -/
  regIn : List Host.Cell
  deriving DecidableEq, Repr, Inhabited

/-! ## Contexts, the Traverse and Mosaic streams -/

/-- Context states (R318). -/
inductive CtxState
  | free | active | quarantined | resetting
  deriving DecidableEq, Repr, Inhabited

/-- Round states (R255). -/
inductive RoundState
  | idle | exchange | closing | sealed | voidHold | undecided
  deriving DecidableEq, Repr, Inhabited

/-- A context-table entry (R318); TOP1, TOP2 and DEPTH follow from the stack. -/
structure CtxEntry where
  seed : W64
  defDeadline : Nat
  evq : Nat
  state : CtxState
  resets : Nat
  trvBase1 : Nat
  trvSize1 : Nat
  trvBase2 : Nat
  trvSize2 : Nat
  /-- TSTATE: the Traverse is BROKEN. -/
  broken : Bool
  regionTable : Nat
  regionCount : Nat
  resetT0 : Nat
  msid : Nat
  sendEvery : Nat
  gsLeft : Nat
  mosDeadline : Nat
  roundState : RoundState
  passInRound : Nat
  voidRun : Nat
  round : W64
  seq : Nat
  roundSteps : Nat
  deriving DecidableEq, Repr, Inhabited

/-- A FREE entry. -/
def CtxEntry.init : CtxEntry :=
  ⟨0, 0, 0, .free, 0, 0, 0, 0, 0, false, 0, 0, 0, 0, 0, 0, 0, .idle, 0, 0, 0, 0, 0⟩

/-- One entry of a Traverse stack: a frame or a mark (R153, R167). -/
structure TrvEntry where
  id : Nat
  mark : Bool
  tag : Nat
  rows : Nat
  cols : Nat
  fmt : Nat
  scaleMode : Nat
  scaleFmt : Nat
  addr : Nat
  size : Nat
  tier2 : Bool
  /-- Left the stack for resolution, its freeing deferred until its pins are released (R165, R168). -/
  removed : Bool
  /-- The control time at which it committed on TRV1; none for an entry of TRV0 or of a mark command (R160). -/
  trv1 : Option Nat
  deriving DecidableEq, Repr, Inhabited

/-- One Mosaic frame sent, as the bytes that leave the lane (R252). -/
structure MosFrame where
  lane : Nat
  bytes : List Byte
  deriving DecidableEq, Repr, Inhabited

/-- One step of a round's exchange on this rank (R245, R256). -/
structure StepRec where
  idx : Nat
  cmd : CmdId
  /-- The step runs the generalised send (R267). -/
  gen : Bool
  /-- The region's base, rows, columns, whether long-valued, and its anchor (R247, R277). -/
  base : Nat
  rows : Nat
  cols : Nat
  long : Bool
  anchor : Int
  /-- Its command has completed (R307). -/
  complete : Bool
  /-- Received segments: shard (or phase and shard), row, first column, count (R253). -/
  got : List (Nat × Nat × Nat × Nat)
  /-- Frames of rows that are not complete yet (R245). -/
  parts : List MosFrame
  /-- Generalised: 0 while the sum of p is formed, 1 while that of q2, 2 at the end; p; this rank's own contribution to
  the sum in progress; the rows of that sum known so far (R269). -/
  gsPhase : Nat
  gsP : List Nat
  gsOwn : List Nat
  gsRows : List (Nat × List Nat)
  /-- The rank of the factors. -/
  rho : Nat
  /-- The region records of the residual and of the factor store, where the step names them (R247). -/
  res : Option Nat
  fac : Option Nat
  /-- A full step that adds its committed residual, which the seal then sets to zero (R270). -/
  addRes : Bool
  /-- The round the step belongs to, and its command's sequence number (R276, R307). -/
  round : W64
  seq : Nat
  /-- The SHARD_UPDATE in APPLY mode that has begun on it, by its sequence number (R276). -/
  used : Option Nat := none
  deriving DecidableEq, Repr, Inhabited

/-- One layer's update on this rank in the current round (R276, R281, R282). -/
structure UpdRec where
  idx : Nat
  /-- The layer's update record in host memory. -/
  state : Nat
  /-- The round whose gradient the update reads. -/
  round : W64
  complete : Bool
  skipped : Bool
  /-- p1 and p2 as FP32 bit patterns (R280). -/
  p1 : Nat
  p2 : Nat
  committed : Bool
  /-- The element kind and anchor its step recorded for GRAD (R277). -/
  long : Bool
  anchor : Int
  /-- The two-copy descriptors it writes, each with the committed copy's selector: what a void leaves undefined (R283). -/
  pend : List (Nat × Nat)
  /-- The command that performs it. -/
  cmd : CmdId
  deriving DecidableEq, Repr, Inhabited

/-- One running gather (R263 to R265). -/
structure GatherRec where
  cmd : CmdId
  idx : Nat
  state : Nat
  replay : Bool
  round : W64
  /-- The copy it sends from and writes into (R264, R265). -/
  sel : Nat
  /-- Received pieces: shard, part, byte offset, length. -/
  got : List (Nat × Nat × Nat × Nat)
  /-- Every shard is received: TRANSFERRED (R264). -/
  full : Bool
  deriving DecidableEq, Repr, Inhabited

/-- The vector all-reduce a context runs (R266). -/
structure VecRec where
  cmd : CmdId
  sent : Bool
  deriving DecidableEq, Repr, Inhabited

/-- What the Mosaic keeps for a context's stream beside the entry (R242, R255 to R269). -/
structure Stream where
  /-- The round's mode is generalised (R267). -/
  gen : Bool
  steps : List StepRec
  /-- The round has been declared ready. -/
  ready : Bool
  /-- A CLOSE has been received: its OK. -/
  closeIn : Option Bool
  /-- A CLOSE has been sent or forwarded: its OK. -/
  closeOut : Option Bool
  /-- The round's deadline has fired. -/
  deadline : Bool
  /-- When it fired (R257, R260). -/
  deadlineAt : Nat
  /-- GRACE_US and DECIDE_US of the Legend under which the round entered EXCHANGE (R386). -/
  grace : Nat
  decideWait : Nat
  /-- The updates of the layers of this round (R276, R281). -/
  updates : List UpdRec
  gathers : List GatherRec
  vec : Option VecRec
  /-- Layers whose first generalised factor has been drawn, with the rank it was drawn for (R270). -/
  factors : List (Nat × Nat)
  /-- Layers whose residual awaits its return in a full round (R270). -/
  residual : List Nat
  /-- The round whose DECIDE has been forwarded (R420). -/
  decideOut : Option W64
  /-- The steps of the last sealed round, whose updates may still begin (R276, R281). -/
  past : List StepRec
  /-- The context's SEQ when that round was sealed: commands with a lower number had been published by then (R276, R307). -/
  sealSeq : Nat
  /-- Pass index 0 has come round again while the round was still open to decision (R255). -/
  prev : Bool
  /-- The mode fixed at the last pulse with pass index 0: that of the next round while an earlier one is open (R267). -/
  genNext : Bool
  /-- The round sealed before its last pass ended, which cancels its deadline (R258). -/
  early : Bool
  deriving DecidableEq, Repr, Inhabited

/-- A stream with nothing placed. -/
def Stream.init : Stream := ⟨false, [], false, none, none, false, 0, 0, 0, [], [], none, [], [], none, [], 0, false, false, false⟩

/-- A context reset in progress (R345, R346). -/
structure ResetRun where
  /-- Started by the engine (R351). -/
  engine : Bool
  /-- Published commands discarded without acceptance (R306). -/
  discarded : Nat
  /-- Commands that have received fault records. -/
  records : Nat
  escalated : Bool
  channels : Nat
  /-- CLOSE with OK = 1 had been forwarded for the open round. -/
  closed : Bool
  torn : Nat
  /-- Lines whose write responses are owed for frames of the context that its reset has dropped (R169, R345 step 4). -/
  owed : List Nat
  /-- A compute reset has ended since: the channels have acknowledged (R350). -/
  acked : Bool
  since : Nat
  /-- The context was QUARANTINED, which a further reset does not lift (R352). -/
  quarantined : Bool
  deriving DecidableEq, Repr, Inhabited

/-- The run-time state of a context beside its entry. -/
structure CtxRt where
  /-- The Traverse stack, bottom first (R152 to R168). -/
  stack : List TrvEntry
  /-- The send window is open (R295). -/
  window : Bool
  /-- No command begins before the next pulse, which sets pass-in-round to 0 (R262, R272). -/
  waitPulse : Bool
  resetting : Option ResetRun
  stream : Stream
  /-- The region records the engine holds copies of, by index: the 32 B as they were read (R319). -/
  copies : List (Nat × Nat)
  /-- The MOS_DEADLINE in force until the next pulse, where an UPDATE changed it with the round's fields (R321). -/
  oldDeadline : Option Nat
  /-- Its deadline fell due in this pass after its Bearing had passed, and does not fire in it (R292). -/
  late : Bool
  deriving DecidableEq, Repr, Inhabited

/-- The run-time state of a context at CREATE. -/
def CtxRt.init : CtxRt := ⟨[], true, false, none, Stream.init, [], none, false⟩

/-- A frame arriving on a Traverse port (R156 to R162). -/
structure TrvRx where
  id : Nat
  ctx : Nat
  tag : Nat
  mark : Bool
  rows : Nat
  cols : Nat
  fmt : Nat
  scaleMode : Nat
  scaleFmt : Nat
  addr : Nat
  size : Nat
  tier2 : Bool
  /-- Bytes of the frame's beats, held in its port's staging (R162). -/
  staged : Nat
  /-- Write responses still owed before the commit. -/
  owed : List Nat
  deriving DecidableEq, Repr, Inhabited

/-! ## The Legend -/

/-- One range of the address map (R377). -/
structure Range where
  base : Nat
  size : Nat
  tier : Nat
  ports : Nat
  granule : Nat
  prefetch : Nat
  deriving DecidableEq, Repr, Inhabited

/-- The parsed values of a Legend (R376). -/
structure Legend where
  serial : W64
  gang : Nat
  channels : Nat
  queues : List Nat
  ranges : List Range
  scratchWays : Nat
  pair : Nat
  steal : Nat
  map : Nat
  laBudget : Nat
  ctxLog2 : Nat
  engineEvq : Nat
  flagNs : Nat
  datumKhz : Nat
  nominalUs : Nat
  fixedMhz : Nat
  switches : Nat
  spill : Bool
  wear : Bool
  selftestFixed : Bool
  ctxLimit : Nat
  engLimit : Nat
  ctxWindow : Nat
  engWindow : Nat
  rotation : Nat
  forceAt : Nat
  errThreshold : Nat
  jbase : Nat
  ckptI : Nat
  ckptW : Nat
  wearLife : Nat
  ranks : Nat
  rank : Nat
  lanes : Nat
  mseed : W64
  graceUs : Nat
  decideUs : Nat
  gsRounds : Nat
  gsRank : Nat
  deriving DecidableEq, Repr, Inhabited

/-- LGD_STATUS.LOAD (R381). -/
inductive LoadState
  | idle | loading | verifying | verified | failed
  deriving DecidableEq, Repr, Inhabited

/-- The LGD_ group (R380 to R386, R412, R413). -/
structure Lgd where
  load : LoadState
  viaCfg : Bool
  bytes : List Byte
  /-- A fetched piece got a bad response (R381). -/
  fetchBad : Bool
  staged : Option Legend
  inForce : Option Legend
  standalone : Bool
  keyslot : Bool
  reason : Nat
  badCmd : Bool
  bistDone : Bool
  fetchAddr : Nat
  /-- LGD_STRUCT, LGD_ATLAS and LGD_CLOCKS as 64-bit registers (RWL). -/
  rStruct : Nat
  rAtlas : Nat
  rClocks : Nat
  deriving DecidableEq, Repr, Inhabited

/-! ## The groups -/

/-- GPE_RESET and FLT_ (R344, R347, R348, R353, R410). -/
structure Flt where
  busy : Bool
  isoBusy : Nat
  /-- When the compute reset in progress began (R350). -/
  busyAt : Nat
  /-- When each isolation in progress began: channel and time (R350). -/
  isoAt : List (Nat × Nat)
  /-- FLT_STATUS.SERVICE is DEGRADED. -/
  degraded : Bool
  /-- FLT_STATUS.SERVICE is OUT_OF_SERVICE. -/
  out : Bool
  /-- When the engine left service (R343). -/
  outAt : Nat
  isolated : Nat
  alert : Bool
  safe : Bool
  cause : Nat
  detail : Nat
  portsOpen : Nat
  escCount : Nat
  escT0 : Nat
  escLimit : Nat
  lockedWrite : ErrCtr
  suppressed : ErrCtr
  specError : ErrCtr
  /-- Channels whose compute reset has not finished. -/
  resetting : Nat
  deriving DecidableEq, Repr, Inhabited

/-- MODE_ and the mode sets in use (R299 to R302, R411). -/
structure Mode where
  stage : Nat
  requested : Nat
  applied : Nat
  pending : Bool
  rejected : Bool
  force : Bool
  reqAt : Nat
  /-- The staged set of the pending request. -/
  pendingSet : Nat
  /-- The mode set in force. -/
  set : Nat
  /-- The epoch each channel has applied: MODE_UNIT0 to MODE_UNIT3 (R300, R411). -/
  chApplied : List Nat
  deriving DecidableEq, Repr, Inhabited

/-- The tracker of R289. -/
inductive Tracker
  | wait | track | free
  deriving DecidableEq, Repr, Inhabited

/-- DAT_ (R286 to R298). -/
structure Dat where
  tracker : Tracker
  /-- Datum clock cycles since the last accepted pulse. -/
  cyc : Nat
  /-- Phase of the datum clock against the control clock, in kHz of the million kHz of a cycle. -/
  phase : Nat
  /-- The datum clock is stopped. -/
  stopped : Bool
  acc : Nat
  inc : Nat
  history : List Nat
  /-- The tracked period, kept through FREE (R298). -/
  period : Nat
  pass : W64
  /-- The next accepted pulse is the first after WAIT or FREE. -/
  first : Bool
  freeSince : Nat
  reject : ErrCtr
  rejSince : Nat
  rejAt : Option Nat
  /-- Entries of the active bank that fired in this pass. -/
  fired : List Nat
  /-- Contexts whose deadline fired in this pass. -/
  firedMos : List Nat
  /-- The Bearing schedule (R293): DAT_SCHED_LO and DAT_SCHED_HI of entry e of bank b, at 256·b + e. -/
  sched : Tab (Nat × Nat)
  /-- The self-test window: the control time it ends. -/
  window : Option Nat
  /-- Pulses and free-period starts so far, for the holds of R231. -/
  pulses : Nat
  /-- Datum clock cycles since the present free period began (R298). -/
  freeCyc : Nat
  deriving DecidableEq, Repr, Inhabited

/-- TRV_ (R161, R162, R170). -/
structure Trv where
  /-- Frames received on TRV0 and on TRV1 that have not committed, oldest first (R160, R162). -/
  rx0 : List TrvRx
  rx1 : List TrvRx
  pushes : PerfCtr
  pops : PerfCtr
  discards : PerfCtr
  drops : PerfCtr
  nextId : Nat
  deriving DecidableEq, Repr, Inhabited

/-- MOS_ (R243, R252 to R254, R419, R420). -/
structure Mos where
  drops : List ErrCtr
  /-- Per lane: the time of the last MOSAIC_FRAME record and the drops since. -/
  recAt : List (Option Nat)
  recSince : List Nat
  /-- Frames sent, oldest first. -/
  out : List MosFrame
  /-- Frames received for a step that has not begun (R254). -/
  hold : List MosFrame
  /-- Frames formed while their context's send window is closed (R295), with the context. -/
  held : List (Nat × MosFrame)
  result : Nat
  deriving DecidableEq, Repr, Inhabited

/-- UPD_ (R421). -/
structure Upd where
  commits : PerfCtr
  skips : PerfCtr
  deriving DecidableEq, Repr, Inhabited

/-! ## Feeding (10_feeding_caches_and_prefetch.md) -/

/-- One line of the Atlas cache part (R216, R219, R231). -/
structure ALine where
  data : List Byte
  way : Nat
  /-- Held by look-ahead until the pulse count reaches the number given. -/
  held : Option Nat
  /-- Brought in by a speculative fill and not demanded since. -/
  spec : Bool
  deriving DecidableEq, Repr, Inhabited

/-- Who asked for a fill (R225). -/
inductive FillKind
  | demand | ahead
  /-- Of a look-ahead list, with the pulse count at which its hold ends (R231). -/
  | look (until_ : Nat)
  deriving DecidableEq, Repr, Inhabited

/-- A fill in flight (R233, R392). -/
structure Fill where
  line : Nat
  port : Nat
  kind : FillKind
  /-- The context it was first asked for (R345). -/
  ctx : Nat
  /-- Feeder threads that wait for it: channel and thread. -/
  waiters : List (Nat × Nat)
  /-- Channels that have asked for it, whose isolation hands it to its port (R348). -/
  asked : List Nat
  /-- A range of the filter overtook it (R233). -/
  stale : Bool
  deriving DecidableEq, Repr, Inhabited

/-- Whom a write on a MEM port answers to: a command, a frame being received, or the ports alone, which await and discard its
response (R219, R160, R348). -/
inductive WrOwner
  | cmd (id : CmdId)
  | frame (id : Nat)
  | port
  deriving DecidableEq, Repr, Inhabited

/-- A write of bytes of one line on its MEM port, from the moment it is owed to its response (R392, R394). -/
structure MemWr where
  owner : WrOwner
  line : Nat
  /-- The first byte it touches, and the byte after the last. -/
  lo : Nat
  hi : Nat
  /-- Its port has sent it. -/
  sent : Bool
  deriving DecidableEq, Repr, Inhabited

/-- Feeder thread states (R221). -/
inductive TState
  | free | ready | active | waitAtlas | waitMemory | waitSpace
  deriving DecidableEq, Repr, Inhabited

/-- One entry of the invalidation filter (R232). -/
structure InvRange where
  base : Nat
  size : Nat
  deriving DecidableEq, Repr, Inhabited

/-- A look-ahead list being issued (R229 to R231). -/
structure LookList where
  ctx : Nat
  /-- The command that names the list; none for one of the Bearing schedule. -/
  cmd : Option CmdId
  /-- Pieces of the list the Footpath has still to read: address and entries. -/
  reads : List (Nat × Nat)
  /-- Entries read and not issued, as 128-bit words. -/
  entries : List Nat
  /-- Lines of the entry issued last still to be requested. -/
  lines : List Nat
  /-- The pulse count at which its holds end. -/
  until_ : Nat
  deriving DecidableEq, Repr, Inhabited

/-! ## The array (02, 03, 05) -/

/-- One accumulator of a sheet: the products of the open group, which its group register adds (R109), the FP32 running
sum, and the long or integer sum (R108 to R121). -/
structure Acc where
  /-- Products of the open group, each with ⌊log₂|a|⌋ + ⌊log₂|b|⌋ of its two elements. -/
  opn : List (XVal × Int)
  /-- The open group's ordinal. -/
  gord : Nat
  /-- The group scale of each of them; padding has none. -/
  gsc : List XVal
  /-- Group values formed and not yet added to a running sum: a tile's contribution to a row partial (R45, R111). -/
  vals : List (Nat × XVal)
  run : XVal
  long : Int
  /-- The integer or long sum has saturated. -/
  sat : Bool
  /-- Reduction steps delivered, saturating at 2^25 - 1 (R115). -/
  cnt : Nat
  /-- Products truncation changed (R119). -/
  trunc : Nat
  /-- What the sum-check lane will find at its next comparison: the residue modulo 8,191 of what the output received less that of the
  exact contributions (R337). -/
  dev : Int
  deriving DecidableEq, Repr, Inhabited

/-- An accumulator at +0. -/
def Acc.zero : Acc := ⟨[], 0, [], [], XVal.zero, 0, false, 0, 0, 0⟩

/-- Sheet states (R50). -/
inductive SheetState
  | free | anchoring | filling | full | draining
  deriving DecidableEq, Repr, Inhabited

/-- One of a tile's two sheets (R50). -/
structure Sheet where
  st : SheetState
  cmd : Option CmdId
  /-- The output block it holds: its number in the command's order. -/
  blk : Nat
  /-- Tile-beats of the block added so far. -/
  step : Nat
  anchor : Int
  accs : List Acc
  /-- The product counter (R115): the most reduction steps delivered to one of its outputs (log 144). -/
  cnt : Nat
  /-- DRAINING: its place in the order in which sheets reached DRAINING (R61). -/
  order : Nat
  /-- Row scales of its outputs as they were consumed with the operand (R49, R215). -/
  scales : List Host.Cell
  deriving DecidableEq, Repr, Inhabited

/-- A free sheet. -/
def Sheet.init : Sheet := ⟨.free, none, 0, 0, 0, [], 0, 0, []⟩

/-- A partial block of a command at one reduction slab (R45, R74): the block's number and the slab. -/
structure PartRef where
  cmd : CmdId
  blk : Nat
  slab : Nat
  deriving DecidableEq, Repr, Inhabited

/-- A row partial, or a tile's contribution to one: its values, its anchor, its product counter and the row scales consumed
for it (R45, R111, R115, R118). -/
structure Partial where
  ref : PartRef
  anchor : Int
  accs : List Acc
  cnt : Nat
  scales : List Host.Cell
  deriving DecidableEq, Repr, Inhabited

/-- A flit on a partial link (R82): a piece of a row partial, up to 128 B of its values in the order of the block's outputs, with one
even-parity bit over them, the partial's anchor and count, and with the last piece its row scales. -/
structure PFlit where
  ref : PartRef
  /-- Its place among the partial's flits. -/
  idx : Nat
  anchor : Int
  accs : List Acc
  cnt : Nat
  scales : List Host.Cell
  parity : Bool
  deriving DecidableEq, Repr, Inhabited

/-- The name of an operand block of 32×32 elements on its way to a tile: the product, its second operand or its first, the panel
along the output and the block along the reduction; for a sparse operand the stored block, and the panel of the other operand
it is gathered for (R206); the visit of the loops it is delivered in (R43, R53, R76); and for a sparse operand which of the beats that
name the same stored blocks it is for, and in which part of a split sheet (R212, R214). -/
structure OpKey where
  prod : Nat
  second : Bool
  panel : Nat
  kb : Nat
  slot : Option Nat
  mate : Option Nat
  visit : Nat
  nth : Nat
  deriving DecidableEq, Repr, Inhabited

/-- An operand block in a buffer, or the part of it that has come: flits taken of those it needs, its size in bytes, its element
bytes as they were consumed, and its scales and zero points, which go to the scale buffer (R71, R215). -/
structure OpBlk where
  cmd : CmdId
  key : OpKey
  got : Nat
  need : Nat
  size : Nat
  cells : List Host.Cell
  deriving DecidableEq, Repr, Inhabited

/-- A flit on a row or column link (R82): a piece of an operand block's bytes, with one even-parity bit over them; the scales
of the block travel with its last flit (R145). -/
structure Flit where
  cmd : CmdId
  key : OpKey
  /-- Flits of the block, and the block's size in bytes. -/
  need : Nat
  size : Nat
  cells : List Host.Cell
  scales : List Host.Cell
  parity : Bool
  deriving DecidableEq, Repr, Inhabited

/-- One tile (R4, R50, R71, R82 to R85). -/
structure Tile where
  sheets : List Sheet
  /-- Output blocks its array operation has still to place in a sheet of it, in visiting order. -/
  jobs : List (CmdId × Nat)
  /-- Partial blocks it has still to add its products to, in visiting order. -/
  pjobs : List PartRef
  /-- Beats of the partial block in turn already run, its contribution so far, its anchor, and the row scales consumed (R45). -/
  dbeats : Nat
  pdx : List Acc
  panchor : Int
  pscales : List Host.Cell
  /-- GP_PAIR: the next beat is a w-beat (R42). -/
  wturn : Bool
  /-- Contributions in the sheet store that await the partial link (R45, R74), and flits of the first one that have passed. -/
  ready : List Partial
  sent : Nat
  /-- The links into the tile, oldest entry first, at most 8 each (R72, R82): row, column and partial. -/
  rowIn : List Flit
  colIn : List Flit
  partIn : List PFlit
  /-- The two halves of the operand buffer, 32 KiB each, and the scale buffer beside it (R71). -/
  aHalf : List OpBlk
  bHalf : List OpBlk
  scaleBuf : List OpBlk
  /-- The stationary block in the cells (R71). -/
  cells : Option OpKey
  /-- The dY latch (R42). -/
  latch : Option OpBlk
  /-- The clock in MHz the droop in progress leaves it (R85). -/
  freq : Nat
  drooping : Bool
  temp : Int
  /-- Queued for self-test (R336, R357). -/
  queued : Bool
  deriving DecidableEq, Repr, Inhabited

/-- A tile at reset. -/
def Tile.init : Tile :=
  ⟨[Sheet.init, Sheet.init], [], [], 0, [], 0, [], false, [], 0, [], [], [], [], [], [], none, none, 0, false, 0, false⟩

/-- One contribution to the merge slab of a GP_GROUPED (R193, R194): token, column, group, row of the group, and its FP32 code or
long value. -/
structure Contrib where
  tok : Nat
  col : Nat
  grp : Nat
  row : Nat
  val : XVal
  long : Int
  deriving DecidableEq, Repr, Inhabited

/-- The finished sum of an output block, or of one part of it, or its running sum in a partial slab after a number of reduction
slabs (R46, R139, R212). -/
structure BlkSum where
  blk : Nat
  slabs : Nat
  anchor : Int
  accs : List Acc
  cnt : Nat
  scales : List Host.Cell
  deriving DecidableEq, Repr, Inhabited

/-- The reservations of scratch (R218). -/
inductive ShareKind
  | pair | steal | map
  deriving DecidableEq, Repr, Inhabited

/-- A share of scratch that an operation has taken: its reservation, first line and number of lines (R217, R218). -/
structure Share where
  kind : ShareKind
  first : Nat
  lines : Nat
  deriving DecidableEq, Repr, Inhabited

/-- One array of the ganging (R22, R23). -/
structure Arr where
  /-- The command whose operation runs on it. -/
  op : Option CmdId
  /-- A self-test holds it (R354, R356). -/
  paused : Bool
  /-- The convoy skew of the operation has been applied (R228). -/
  skewed : Bool
  /-- The operation's metadata has been read: its blocks are placed and their sequences are set up (R200, R221). -/
  fed : Bool
  /-- Scratch the operation has taken and still uses (R217, R218). -/
  shares : List Share
  /-- The partial slab (R46, R74). -/
  slab : List BlkSum
  /-- Finished blocks that wait for the others of their scale groups (R139), and part sheets in the steal buffer (R212). -/
  held : List BlkSum
  /-- Contributions to the merge slab, in order of arrival (R193, R194). -/
  contrib : List Contrib
  /-- Anchors of the operation's output blocks, each by the first block of its unit: one anchor a block (R45, R118, R125, R143). -/
  anchors : List (Nat × Int)
  /-- Flits of row partials that have left the east edge, until their partial is whole (R45). -/
  edge : List PFlit
  /-- Split sheets whose last part has arrived and that have not been joined: the block of that part, and the place of the joined drain in
  the order of the drains (R61, R212). -/
  joins : List (Nat × Nat)
  deriving DecidableEq, Repr, Inhabited

/-- An idle array. -/
def Arr.init : Arr := ⟨none, false, false, false, [], [], [], [], [], [], []⟩

/-- What a fetch sequence serves (R221): a row or column stream of a rectangle of the operation on the array, named by the first
product placed on it; the stationary region of a tile for the load bus; the reads of an accumulation region; an operand of a
Spur command; or a metadata stream. -/
inductive StreamId
  | row (prod i : Nat)
  | col (prod i : Nat)
  | load (tile : Nat)
  | region (slot : Nat)
  | spur (slot : Nat)
  | list (slot : Nat)
  deriving DecidableEq, Repr, Inhabited

/-- One line of a fetch sequence: the line, and its run-ahead distance in bytes (R223). -/
structure SeqLine where
  line : Nat
  dist : Nat
  deriving DecidableEq, Repr, Inhabited

/-- One feeder thread (R221 to R223). -/
structure Thread where
  st : TState
  cmd : Option CmdId
  stream : StreamId
  /-- The slab of the permutable loop the sequence belongs to (R228). -/
  slab : Nat × Nat
  /-- Operand blocks of its sequence still to reach their consumer, each with its lines, and flits of the first one sent. -/
  blks : List (OpKey × List Nat)
  sent : Nat
  /-- Lines of its sequence not yet requested. -/
  todo : List SeqLine
  /-- Lines requested and not delivered, in sequence order, each with whether it has come to the channel cache. -/
  outst : List (Nat × Bool)
  /-- Lines delivered, with their bytes at consumption, that wait for the consumer (R215, R222). -/
  buf : List (Nat × List Byte)
  /-- Lines of the sequence the run-ahead pointer has passed, counted from the demand position. -/
  ahead : Nat
  /-- Cycles it has been ACTIVE (R221). -/
  active : Nat
  /-- The operand slot its sequence reads; 15 for a list the command itself names. -/
  slot : Nat
  deriving DecidableEq, Repr, Inhabited

/-- A free thread. -/
def Thread.init : Thread := ⟨.free, none, .list 15, (0, 0), [], 0, [], [], [], 0, 0, 15⟩

/-- Feeding. -/
structure Feed where
  atlas : Tab (Option ALine)
  /-- Tree pseudo-LRU bits by bank and set (R219). -/
  plru : Tab Nat
  /-- Lines of each channel cache, most recent first (R220). -/
  cch : List (List Nat)
  threads : List (List Thread)
  /-- Fetch sequences of each channel that wait for a FREE thread, in order (R221). -/
  queue : List (List Thread)
  /-- The Projection buffer of each channel, in order of request: the tile a transposed block is for, and the block (R54). -/
  proj : List (List (Nat × OpBlk))
  /-- The Spur buffers of each channel: operand lines of a Spur command, with their bytes at consumption (R89, R215). -/
  spur : List (List (CmdId × Nat × List Byte))
  /-- The ACTIVE thread's place in each channel's round robin. -/
  turn : List Nat
  fills : List Fill
  inv : List (Option InvRange)
  look : List LookList
  /-- Lines an invalidation dropped after a speculative fill (R233). -/
  lost : List Nat
  /-- Lines demanded again after an invalidation took them, until they come (R226, R233). -/
  refetch : List Nat
  /-- Convoy declared on each channel: its bank, and the time of its last record (R227). -/
  convoy : List (Option Nat)
  convoyAt : List (Option Nat)
  /-- Lines of writes that nothing in the engine waits for any more, whose responses the ports await and discard: those an isolation
  hands over, and those that a reset leaves behind (R348, R350). A read handed over is its fill alone. -/
  handed : List Nat
  /-- Requests of threads that have missed the channel cache, in the order they were made: channel, thread and line (R221, R226). One that
  its thread awaits no more says nothing. -/
  asked : List (Nat × Nat × Nat)
  deriving DecidableEq, Repr, Inhabited

/-! ## Stall counters, the Almanac, power and self-test -/

/-- STL_ (R226, R227, R230, R231, R233, R365 to R367, R422): the sets 0 to 4 and 8 to 12, 18 counters each. -/
structure Stl where
  live : List (List PerfCtr)
  snap : List (List PerfCtr)
  /-- When the snapshots were last taken: what else that cycle brings is in them (R366). -/
  snapAt : Option Nat
  count : Nat
  convoy : List PerfCtr
  prefetchLost : PerfCtr
  laDrop : PerfCtr
  laSkip : ErrCtr
  deriving DecidableEq, Repr, Inhabited

/-- ALM_STATUS.RESTORE (R371). -/
inductive RestoreState
  | open | restored | none | ignored
  deriving DecidableEq, Repr, Inhabited

/-- ALM_ (R358 to R371, R423). -/
structure Alm where
  life : List Nat
  sat : Nat
  wear : List Nat
  wearSat : List Bool
  step : List Nat
  calSec : Nat
  calFrac : Nat
  calValid : Bool
  taiPend : Option Nat
  snapPend : Bool
  ticks : Nat
  /-- On VDD_AON_B. -/
  backup : Bool
  backupOk : Bool
  retained : Bool
  restore : RestoreState
  ckptOn : Bool
  ckptFailing : Bool
  restoreErr : Nat
  lifeSnap : List Nat
  satSnap : Nat
  wearSnap : List Nat
  wearSatSnap : List Bool
  snapCount : Nat
  window : List W64
  seq : Nat
  /-- The attempt in progress: its snapshot's time and whether it was FORCED. -/
  ckpt : Option (Nat × Bool)
  /-- When the age began (R369). -/
  ageFrom : Nat
  /-- A failed attempt waits for its retry: since when, and whether it was FORCED. -/
  failedAt : Option (Nat × Bool)
  /-- A checkpoint has completed since the checkpoint machine was reset: ageFrom is that of its snapshot (R369). -/
  completed : Bool
  deriving DecidableEq, Repr, Inhabited

/-- A self-test batch (R354, R355). -/
structure Batch where
  last : Nat
  due : Bool
  running : Bool
  forced : Bool
  deriving DecidableEq, Repr, Inhabited

/-- TST_ and the self-test scheduler (R354 to R357, R425). -/
structure Tst where
  busy : Bool
  pass : Bool
  chFail : Nat
  sharedFail : Bool
  timeUs : Nat
  stores : Nat
  array : Bool
  links : Bool
  last : Nat
  batches : List Batch
  /-- The rotation: its start, batches run, a batch was forced, first failing tile, any failure. -/
  rotFrom : Nat
  rotRun : Nat
  rotForced : Bool
  rotFail : Option Nat
  /-- Full tests: the requests in order, and the one that runs since. -/
  fullQ : List CmdId
  fullRun : Option (CmdId × Nat)
  /-- The run is a diagnostic run of TST_BIST (R425). -/
  diag : Bool
  /-- When the batch test that runs began, and when the last forced one did (R354, R355). -/
  testAt : Nat
  forcedAt : Option Nat
  deriving DecidableEq, Repr, Inhabited

/-- The reset pins and the CFG response (R395, R401, R406). -/
inductive CfgResp
  | okay | slverr | decerr
  deriving DecidableEq, Repr, Inhabited

/-- Clocks and pins. -/
structure Pins where
  /-- Control clock cycles since the model began. -/
  now : Nat
  poreset : Bool
  sysreset : Bool
  /-- TEST_MODE sampled at the release of PORESET_N (R406). -/
  testMode : Bool
  /-- When SYSRESET_N was asserted (R401). -/
  sysAt : Nat
  /-- When SAFE_STATE rose (R401). -/
  safeAt : Option Nat
  cfg : CfgResp
  /-- VDD_CORE is out of its range, from the supply monitor's detection to the next release of PORESET_N (R336, R360). -/
  coreOut : Bool
  /-- The test access port's instruction (R387, R406; log 190). -/
  tap : TapInst
  /-- What TDO has last shifted out, as a number (R387, R406; log 190). -/
  tdo : Nat
  deriving DecidableEq, Repr, Inhabited

/-- The context window (R414). -/
structure CtxWin where
  sel : Nat
  data : List W64
  /-- 0 IDLE, 1 BUSY, 2 DONE, 3 REFUSED. -/
  st : Nat
  reason : Nat
  dropped : Bool
  ctx : Nat
  /-- The reason the operation in progress ends with; 0 for DONE. -/
  outcome : Nat
  deriving DecidableEq, Repr, Inhabited

/-- The machine. -/
structure State where
  build : Build
  /-- Host memory behind the ports: sorted, no byte equal to 0 listed (R2, R404). -/
  mem : List Host.Cell
  /-- Bytes of memory whose contents are undefined, with the stamp of the event that made them so. -/
  undef : Tab (Option Nat)
  /-- The model's own counter of free values drawn. -/
  free : Nat
  /-- Commands that wait, first in first out. -/
  pending : List Instr
  pins : Pins
  flt : Flt
  mode : Mode
  lgd : Lgd
  win : CtxWin
  ctxs : Tab CtxEntry
  rts : Tab CtxRt
  cmqs : Tab CmQueue
  badDoorbell : ErrCtr
  cmds : List Cmd
  accepted : Nat
  evqs : Tab EvQueue
  headOverrun : ErrCtr
  log : List Rec
  fp : List FpReq
  /-- The transfers of it that FP0 has sent, oldest first, and those sent since one of class 5 while one waited (R236, R392). -/
  fpOut : List FpUse
  fpRun : Nat
  /-- Writes on the MEM ports whose responses are still to come, those not yet sent among them, in order of request (R219, R392). -/
  memq : List MemWr
  dat : Dat
  trv : Trv
  mos : Mos
  upd : Upd
  arrs : List Arr
  tiles : List Tile
  feed : Feed
  stl : Stl
  alm : Alm
  pwrDroops : PerfCtr
  tst : Tst
  deriving DecidableEq, Repr, Inhabited

/-! ## What can stop a step -/

/-- The engine has no behaviour that stops it without a report: every fault the manual knows is a record, a counter or a
register, so every meaning answers a next state and this type is empty but for a name no meaning raises. -/
inductive Fault
  /-- Raised by no meaning. Safe: a stop proves nothing about the hardware. -/
  | unraised
  deriving DecidableEq, Repr

/-- Why a command is refused. -/
inductive Refusal
  /-- The command has no meaning yet; raised by its arm of exec only. Safe: a stop proves nothing about the hardware. -/
  | notModelled (mnemonic : String)
  deriving DecidableEq, Repr

/-! ## Reset -/

/-- The engine at the first power-up, right after the release of PORESET_N: standalone mode with the power-on BIST
running (R382, R383, R408), nothing in memory, the Almanac cleared by its own power-on reset (R358). Values the manual
does not give are named in the log: 2 (build), 3 (time), 4 (memory), 5 (free values), 6 (pins), 7 (registers). -/
def State.reset : State where
  build := ⟨.x256, 0, 0, 0, 0⟩
  mem := []
  undef := []
  free := 0
  pending := []
  pins := ⟨0, false, false, false, 0, none, .okay, false, .idcode, 0⟩
  flt := ⟨false, 0, 0, [], false, false, 0, 0, false, false, 0, 0, 0, 0, 0, 6, ErrCtr.init, ErrCtr.init, ErrCtr.init, 0⟩
  mode := ⟨0, 1, 1, false, false, false, 0, 0, 0, List.replicate 4 1⟩
  lgd := ⟨.idle, false, [], false, none, none, true, false, 0, false, false, 0, 0xF0, 0, 3300⟩
  win := ⟨0, List.replicate 16 0, 0, 0, false, 0, 0⟩
  ctxs := []
  rts := []
  cmqs := []
  badDoorbell := ErrCtr.init
  cmds := []
  accepted := 0
  evqs := []
  headOverrun := ErrCtr.init
  log := []
  fp := []
  fpOut := []
  fpRun := 0
  memq := []
  dat := ⟨.wait, 0, 0, false, 0, 0, [], 0, 0, true, 0, ErrCtr.init, 0, none, [], [], [], none, 0, 0⟩
  trv := ⟨[], [], PerfCtr.init, PerfCtr.init, PerfCtr.init, PerfCtr.init, 0⟩
  mos := ⟨List.replicate 10 ErrCtr.init, List.replicate 4 none, List.replicate 4 0, [], [], [], 0⟩
  upd := ⟨PerfCtr.init, PerfCtr.init⟩
  arrs := List.replicate 4 Arr.init
  tiles := List.replicate 256 Tile.init
  feed := ⟨[], [], List.replicate 4 [], List.replicate 4 (List.replicate 32 Thread.init), List.replicate 4 [],
    List.replicate 4 [], List.replicate 4 [], List.replicate 4 0, [], List.replicate 16 none, [], [], [],
    List.replicate 4 none, List.replicate 4 none, [], []⟩
  stl := ⟨List.replicate 13 (List.replicate 18 PerfCtr.init), List.replicate 13 (List.replicate 18 PerfCtr.init), none, 0,
    List.replicate 4 PerfCtr.init, PerfCtr.init, PerfCtr.init, ErrCtr.init⟩
  alm := ⟨List.replicate 64 0, 0, List.replicate 256 0, List.replicate 256 false, List.replicate 256 0, 0, 0, false,
    none, false, 0, false, true, false, .open, false, false, 0, List.replicate 64 0, 0, List.replicate 256 0,
    List.replicate 256 false, 0, List.replicate 512 0, 1, none, 0, none, false⟩
  pwrDroops := PerfCtr.init
  tst := ⟨true, false, 0, false, 0, 0, false, false, 0, List.replicate 16 ⟨0, false, false, false⟩, 0, 0, false, none,
    [], none, false, 0, none⟩

end Sys2Proof.Machine
end

