-- ==== Sys2Proof/Machine/Geometry.lean ====
section
/-! DEFINITION. The figures of each configuration: tiles, channels, ports, lanes, Atlas geometry, and where tiles and
lines lie (R4 to R6, R22, R23, R216, R388, R405). -/

namespace Sys2Proof.Machine

open Sys2Proof

/-- Tiles on a side of the grid (R5). -/
def Size.side : Size → Nat
  | .s1 => 1 | .s4 => 2 | .m16 => 4 | .l64 => 8 | .x256 => 16

/-- Tiles built. -/
def Size.tiles (z : Size) : Nat := z.side * z.side

/-- Channels built. -/
def Size.channels : Size → Nat
  | .l64 | .x256 => 4
  | _ => 1

/-- Tiles on a side of one channel. -/
def Size.chSide (z : Size) : Nat := if z.channels = 4 then z.side / 2 else z.side

/-- The configuration code of GPE_ID (R7). -/
def Size.code : Size → Nat
  | .s1 => 1 | .s4 => 2 | .m16 => 3 | .l64 => 4 | .x256 => 5

/-- The Projection buffers are built (R55). -/
def Size.projection (z : Size) : Bool := z.channels == 4

/-- MEM ports built (R388). -/
def Size.ports : Size → Nat
  | .s1 => 1 | .s4 => 2 | .m16 => 4 | .l64 => 8 | .x256 => 16

/-- TRV ports built (R388). -/
def Size.trvPorts (z : Size) : Nat := if z.channels = 4 then 2 else 1

/-- MOS lanes built (R388). -/
def Size.lanes : Size → Nat
  | .s1 | .s4 => 1
  | .m16 => 2
  | _ => 4

/-- Spur lanes of one spine (R388). -/
def Size.spurLanes : Size → Nat
  | .s1 => 32 | .s4 => 128 | .m16 => 512 | .l64 => 256 | .x256 => 512

/-- Atlas banks (R216). -/
def Size.banks : Size → Nat
  | .s1 => 1 | .s4 => 4 | .m16 => 8 | .l64 => 24 | .x256 => 64

/-- MiB of one sixteenth of the Atlas times sixteen: the whole store (R216). -/
def Size.atlasMiB : Size → Nat
  | .s1 => 2 | .s4 => 8 | .m16 => 16 | .l64 => 48 | .x256 => 128

/-- The xor-fold of the line index into chunks of w bits (R405). -/
def xorFold (w : Nat) : Nat → Nat → Nat
  | 0, _ => 0
  | f + 1, l => (l % 2 ^ w) ^^^ xorFold w f (l / 2 ^ w)

/-- The bank of a line (R216, R405). -/
def Size.bank (z : Size) (l : Nat) : Nat :=
  match z with
  | .s1 => 0
  | .s4 => xorFold 2 22 (l % 2 ^ 44)
  | .m16 => xorFold 3 15 (l % 2 ^ 44)
  | .l64 => 8 * (l % 3) + xorFold 3 15 (l % 2 ^ 44)
  | .x256 => xorFold 6 8 (l % 2 ^ 44)

/-- The set of a line within its bank (R216, R405). -/
def Size.set (z : Size) (l : Nat) : Nat :=
  match z with
  | .s1 => bits l 0 9
  | .s4 => bits l 2 9
  | .m16 | .l64 => bits l 3 9
  | .x256 => bits l 6 9

/-- Atlas bank groups (R216, R388). -/
def Size.bankGroups : Size → Nat
  | .s1 | .s4 => 1
  | .m16 => 2
  | .l64 | .x256 => 4

/-- The bank group of a bank (R405). -/
def Size.bankGroup (z : Size) (k : Nat) : Nat :=
  match z with
  | .s1 | .s4 => 0
  | .m16 => k / 4
  | .l64 => k / 6
  | .x256 => k / 16

/-- The channel of a tile (R5). -/
def Size.chanOf (z : Size) (t : Nat) : Nat :=
  if z.channels = 1 then 0
  else (if t / z.side < z.chSide then 0 else 2) + (if t % z.side < z.chSide then 0 else 1)

/-- The line index of a byte address. -/
def lineOf (a : Nat) : Nat := a / 256

/-- The lines a byte range touches. -/
def linesOf (a n : Nat) : List Nat := if n = 0 then [] else span (a / 256) ((a + n - 1) / 256 + 1)

/-- The ganging in force; GANG4 before the first seal (R22). -/
def State.gang (s : State) : Nat := match s.lgd.inForce with | some l => l.gang | none => 0

/-- Channels the Legend in force puts in service; all built ones before the first seal (R377). -/
def State.legendChannels (s : State) : Nat :=
  match s.lgd.inForce with
  | some l => l.channels
  | none => 2 ^ s.build.size.channels - 1

/-- Channels out of service or on their way out, as the detail of CHANNEL_ISOLATED (R339, R348). -/
def State.chansOut (s : State) : Nat := s.flt.isolated ||| s.flt.isoBusy

/-- A channel is in service: built, named by the Legend, neither isolated nor being isolated (R348, R349, R386). -/
def State.chOn (s : State) (ch : Nat) : Bool :=
  decide (ch < s.build.size.channels) && bits s.legendChannels ch 1 == 1 && bits s.flt.isolated ch 1 == 0
    && bits s.flt.isoBusy ch 1 == 0

/-- The channels of an array (R22): GANG2 pairs CH0 with CH1 and CH2 with CH3; SPLIT numbers arrays by channel. -/
def State.arrChans (s : State) (a : Nat) : List Nat :=
  match s.gang with
  | 0 => if a = 0 then List.range s.build.size.channels else []
  | 1 => if a = 0 then [0, 1] else if a = 1 then [2, 3] else []
  | _ => if a < 4 then [a] else []

/-- The array a channel belongs to. -/
def State.arrOfCh (s : State) (ch : Nat) : Nat :=
  match s.gang with
  | 0 => 0
  | 1 => ch / 2
  | _ => ch

/-- The arrays of the ganging that the Legend serves. -/
def State.arrays (s : State) : List Nat :=
  (List.range 4).filter fun a => !(s.arrChans a).isEmpty && (s.arrChans a).all fun ch => bits s.legendChannels ch 1 == 1

/-- An array is available: all its channels are in service (R349). -/
def State.arrOn (s : State) (a : Nat) : Bool := !(s.arrChans a).isEmpty && (s.arrChans a).all s.chOn

/-- The array a queue is assigned to (R23). -/
def State.arrOfQueue (s : State) (q : Nat) : Nat :=
  match s.lgd.inForce with
  | some l => if l.gang = 0 then 0 else l.queues.getD q 0
  | none => 0

/-- Rows and columns of tiles of an array (R22). -/
def State.arrDims (s : State) (_a : Nat) : Nat × Nat :=
  match s.gang with
  | 0 => (s.build.size.side, s.build.size.side)
  | 1 => (s.build.size.chSide, s.build.size.side)
  | _ => (s.build.size.chSide, s.build.size.chSide)

/-- The tile number at a row and column of an array (R5, R22). -/
def State.tileAt (s : State) (a r c : Nat) : Nat :=
  let z := s.build.size
  match s.gang with
  | 0 => r * z.side + c
  | 1 => (r + a * z.chSide) * z.side + c
  | _ => (r + (a / 2) * z.chSide) * z.side + c + (a % 2) * z.chSide

/-- The array of a tile. -/
def State.arrOfTile (s : State) (t : Nat) : Nat := s.arrOfCh (s.build.size.chanOf t)

/-- The operation on a tile's array that has begun. -/
def State.opOfTile (s : State) (t : Nat) : Option CmdId := (s.arrs.getD (s.arrOfTile t) Arr.init).op

/-- The tiles of an array, row-major. -/
def State.tilesOf (s : State) (a : Nat) : List Nat :=
  let (r, c) := s.arrDims a
  (List.range (r * c)).map fun i => s.tileAt a (i / c) (i % c)

/-- Set bits of a mask among the first n. -/
def maskBits (m n : Nat) : List Nat := (List.range n).filter fun i => bits m i 1 == 1

/-- The range of the address map that holds every byte of a region; none where it is not wholly in one (R377). -/
def State.rangeOf (s : State) (a n : Nat) : Option Range :=
  match s.lgd.inForce with
  | none => none
  | some l => l.ranges.find? fun r => decide (r.base ≤ a) && decide (a + n ≤ r.base + r.size)

/-- A region of bytes lies wholly in one range of the address map (R180, R377). -/
def State.inMap (s : State) (a n : Nat) : Bool := (s.rangeOf a n).isSome

/-- The MEM port that serves a line (R377); 0 outside the map. -/
def State.portOf (s : State) (line : Nat) : Nat :=
  match s.rangeOf (line * 256) 1 with
  | none => 0
  | some r =>
    let ps := maskBits r.ports 16
    ps.getD ((line * 256 - r.base) / (4096 * 2 ^ r.granule) % ps.length) 0

/-- The run-ahead distance of a line in bytes (R223, R316). -/
def State.prefetch (s : State) (line hint : Nat) : Nat :=
  match hint % 4 with
  | 1 => 262144
  | 2 => 2097152
  | 3 => 0
  | _ =>
    match s.rangeOf (line * 256) 1 with
    | none => 0
    | some r =>
      if r.prefetch = 0xFFFFFFFF then (if r.tier = 2 then 2097152 else 262144) else r.prefetch * 1024

end Sys2Proof.Machine
end

