-- ==== Sys2Proof/Machine/Ops.lean ====
section
/-! DEFINITION. The named operations over memory, the Atlas, the counters, the event queues and the commands, which every
meaning shares. Raising a fault, which on this block is the forming of a record and the abort of a command, is one shared
operation here (State.abort, State.closeCmd), and so is leaving service (State.leaveService). -/

namespace Sys2Proof.Machine

open Sys2Proof

/-! ## Guards -/

/-- The Legend is sealed, the engine is in service and no reset pin is asserted: commands, ports and records work
(R343, R382, R401). -/
def State.alive (s : State) : Bool :=
  !s.lgd.standalone && !s.flt.out && !s.pins.poreset && !s.pins.sysreset && !s.flt.safe

/-- CFG writes take effect: CFG is not held in reset, not in a SYSRESET_N, and SAFE_STATE is 0 (R343, R395). -/
def State.cfgOpen (s : State) : Bool := !s.pins.poreset && !s.pins.sysreset && !s.flt.safe

/-- CFG answers OKAY (R395). -/
def State.okay (s : State) : State := { s with pins := { s.pins with cfg := .okay } }

/-- A CFG write (R395): what it does, where CFG writes take effect, and its response OKAY; CFG answers nothing while PORESET_N
holds it in reset. -/
def State.cfgWrite (s : State) (f : State → State) : State :=
  if s.pins.poreset then s else (if s.cfgOpen then f s else s).okay

/-- A field of the Legend in force, or its value before the first seal. -/
def State.legendOr (s : State) (p : Legend → Nat) (d : Nat) : Nat := match s.lgd.inForce with | some l => p l | none => d

/-- MOS_GRACE and MOS_DECIDE_WAIT in µs (R257, R260, R376). -/
def State.waits (s : State) : Nat × Nat := (s.legendOr (·.graceUs) 500, s.legendOr (·.decideUs) 5000)

/-- The engine queue (R326). -/
def State.engineEvq (s : State) : Nat := match s.lgd.inForce with | some l => l.engineEvq | none => 0

/-- POWER_ON_SECONDS (R352, R361). -/
def State.powerSeconds (s : State) : Nat := s.alm.life.getD 1 0

/-- The Bearing (R291). -/
def State.bearing (s : State) : Nat := min 8191 (s.dat.acc / 2 ^ 44)

/-- The tracker's code (R289). -/
def Tracker.code : Tracker → Nat
  | .wait => 0 | .track => 1 | .free => 2

/-! ## Memory and the Atlas -/

/-- The canonical form of memory: sorted, no byte 0 listed. -/
abbrev Memory.wf (m : List Host.Cell) : Bool := Tab.wf (0 : BitVec 8) m

/-- One byte of host memory as the ports deliver it: a free value where its contents are undefined (R239), 0 where nothing
has written it (log 4). -/
def State.memByte (s : State) (a : Nat) : Byte :=
  match Tab.get none s.undef a with
  | some stamp => Config.freeByte stamp a
  | none => Tab.get (0 : BitVec 8) s.mem a

/-- n bytes of host memory, as a Footpath read takes them (R236). -/
def State.memBytes (s : State) (a n : Nat) : List Byte := (List.range n).map fun i => s.memByte (a + i)

/-- An n-byte little-endian number of host memory. -/
def State.memLE (s : State) (a n : Nat) : Nat := leNat (s.memBytes a n)

/-- The line is resident in the Atlas cache part. -/
def State.aline (s : State) (l : Nat) : Option ALine := Tab.get none s.feed.atlas l

/-- A range of the invalidation filter overlaps the line (R232). -/
def State.filtered (s : State) (l : Nat) : Bool :=
  s.feed.inv.any fun e =>
    match e with
    | some r => decide (r.base < (l + 1) * 256) && decide (l * 256 < r.base + r.size)
    | none => false

/-- One byte as a bulk read consumes it (R215): the Atlas copy when the line is resident and not filtered, else what memory
returns to the fill. -/
def State.bulkByte (s : State) (a : Nat) : Byte :=
  match Tab.get none s.undef a with
  | some stamp => Config.freeByte stamp a
  | none =>
    match s.aline (lineOf a) with
    | some ln => if s.filtered (lineOf a) then Tab.get (0 : BitVec 8) s.mem a else ln.data.getD (a % 256) 0
    | none => Tab.get (0 : BitVec 8) s.mem a

/-- A source of operand bytes: what the caches hold now, or what a unit has consumed (R215). -/
abbrev Bytes := Nat → Byte

/-- The bytes the caches deliver now. -/
def State.bulk (s : State) : Bytes := s.bulkByte

/-- An n-byte little-endian number of a source. -/
def Bytes.le (m : Bytes) (a n : Nat) : Nat := leNat ((List.range n).map fun i => m (a + i))

/-- A source with bytes consumed earlier in place of those it has now: consumption fixes their values (R215). -/
def Bytes.over (m : Bytes) (cs : List Host.Cell) : Bytes := fun a =>
  match cs.find? fun c => c.1 == a with | some c => c.2 | none => m a

/-- An n-byte little-endian number as a bulk read consumes it. -/
def State.bulkLE (s : State) (a n : Nat) : Nat := s.bulk.le a n

/-- Drop a line from the Atlas and from every channel cache (R220, R232). -/
def Feed.dropLine (f : Feed) (l : Nat) : Feed :=
  { f with atlas := Tab.set none f.atlas l none, cch := f.cch.map fun c => c.filter (· != l) }

/-- Cache ways of the Atlas (R217). -/
def State.cacheWays (s : State) : Nat :=
  match s.lgd.inForce with | some l => 16 - l.scratchWays | none => 16

/-- The lines of a set, with their ways. -/
def State.setLines (s : State) (b st : Nat) : List (Nat × ALine) :=
  s.feed.atlas.filterMap fun e =>
    match e.2 with
    | some ln => if s.build.size.bank e.1 = b && s.build.size.set e.1 = st then some (e.1, ln) else none
    | none => none

/-- Tree pseudo-LRU: mark a way as just used. The tree has one bit for each inner node, node 1 the root, node n over 2n and
2n + 1; a bit of 1 points to the right half as the older one (R219). -/
def plruTouch (tree way : Nat) : Nat :=
  [3, 2, 1, 0].foldl (fun t d =>
    let node := (16 + way) / 2 ^ (d + 1)
    putBits t node 1 (1 - (16 + way) / 2 ^ d % 2)) tree

/-- A subtree holds a way that may be chosen. -/
def plruHas (ok : Nat → Bool) (node d : Nat) : Bool := (List.range (2 ^ d)).any fun i => ok (node * 2 ^ d + i - 16)

/-- Tree pseudo-LRU: the way the bits point to among those that may be chosen. -/
def plruVictim (tree : Nat) (ok : Nat → Bool) : Nat → Nat → Nat
  | 0, node => node - 16
  | d + 1, node =>
    let right := bits tree node 1 == 1
    let pref := if right then 2 * node + 1 else 2 * node
    let other := if right then 2 * node else 2 * node + 1
    if plruHas ok pref d then plruVictim tree ok d pref else plruVictim tree ok d other

/-- Use a resident line: its way becomes the most recent. -/
def State.touchLine (s : State) (l : Nat) : State :=
  match s.aline l with
  | none => s
  | some ln =>
    let k := s.build.size.bank l * 512 + s.build.size.set l
    { s with feed := { s.feed with plru := s.feed.plru.upd 0 k fun t => plruTouch t ln.way } }

/-- Install a line in the Atlas cache part, evicting by tree pseudo-LRU among the ways that are not held (R219, R231). A set
whose every way is held takes no further line. -/
def State.install (s : State) (l : Nat) (data : List Byte) (held : Option Nat) (spec : Bool) : State :=
  match s.aline l with
  | some ln => State.touchLine { s with feed := { s.feed with atlas := Tab.set none s.feed.atlas l (some { ln with data := data }) } } l
  | none =>
    let b := s.build.size.bank l
    let st := s.build.size.set l
    let lines := s.setLines b st
    let used := fun w => lines.any fun e => e.2.way == w
    let heldW := fun w => lines.any fun e => e.2.way == w && e.2.held.isSome
    let ways := s.cacheWays
    let way := match (List.range ways).find? fun w => !used w with
      | some w => some w
      | none =>
        if (List.range ways).any fun w => !heldW w then
          some (plruVictim (Tab.get 0 s.feed.plru (b * 512 + st)) (fun w => decide (w < ways) && !heldW w) 4 1)
        else none
    match way with
    | none => s
    | some w =>
      let f := (lines.filter fun e => e.2.way == w).foldl (fun f e => f.dropLine e.1) s.feed
      State.touchLine { s with feed := { f with atlas := Tab.set none f.atlas l (some ⟨data, w, held, spec⟩) } } l

/-- Write one byte of memory; its contents are then defined. -/
def State.pokeMem (s : State) (a : Nat) (b : Byte) : State :=
  { s with mem := Tab.set (0 : BitVec 8) s.mem a b, undef := Tab.set none s.undef a none }

/-- Update the resident copy of one byte. -/
def Feed.pokeLine (f : Feed) (a : Nat) (b : Byte) : Feed :=
  match Tab.get none f.atlas (lineOf a) with
  | some ln => { f with atlas := Tab.set none f.atlas (lineOf a) (some { ln with data := setAt ln.data (a % 256) b }) }
  | none => f

/-- Fills in flight for a line that is written or invalidated are overtaken (R233). -/
def Feed.staleFills (f : Feed) (l : Nat) : Feed :=
  { f with fills := f.fills.map fun x => if x.line = l then { x with stale := true } else x }

/-- The lines of a list of byte writes, each once, in order of first use. -/
def linesOfWrites (ws : List (Nat × Byte)) : List Nat :=
  ws.foldl (fun acc w => if acc.contains (lineOf w.1) then acc else acc ++ [lineOf w.1]) []

/-- A Footpath write (R236): memory, the resident copies, and fills in flight. -/
def State.fpWrite (s : State) (a : Nat) (bs : List Byte) : State :=
  let ws := (List.range bs.length).map fun i => (a + i, bs.getD i 0)
  let s1 := ws.foldl (fun s w => s.pokeMem w.1 w.2) s
  let f1 := ws.foldl (fun f w => f.pokeLine w.1 w.2) s1.feed
  let f2 := (linesOfWrites ws).foldl (fun f l => (f.staleFills l)) f1
  { s1 with feed := { f2 with cch := f2.cch.map fun c => c.filter fun l => !(linesOfWrites ws).contains l } }

/-- A bulk write by the engine (R219): every byte goes on to memory, a write that covers a whole line installs or updates
it, a partial one updates the bytes of a resident line, each line's channel-cache copies are dropped, and fills in flight
of it are overtaken (R233). -/
def State.bulkWrite (s : State) (ws : List (Nat × Byte)) : State :=
  let lines := linesOfWrites ws
  let s1 := ws.foldl (fun s w => s.pokeMem w.1 w.2) s
  let f1 := ws.foldl (fun f w => f.pokeLine w.1 w.2) s1.feed
  let f2 := lines.foldl (fun f l => f.staleFills l) f1
  let s2 := { s1 with feed := { f2 with cch := f2.cch.map fun c => c.filter fun l => !lines.contains l } }
  lines.foldl (fun s l =>
    if (List.range 256).all fun i => ws.any fun w => w.1 == l * 256 + i then
      s.install l ((List.range 256).map fun i => Tab.get (0 : BitVec 8) s.mem (l * 256 + i)) none false
    else s) s2

/-- Make n bytes undefined (R239, R283): every later read of one gives a free value, until something writes it. -/
def State.undefine (s : State) (a n : Nat) : State :=
  { s with
    undef := (List.range n).foldl (fun u i => Tab.set none u (a + i) (some s.free)) s.undef
    mem := (List.range n).foldl (fun m i => Tab.set (0 : BitVec 8) m (a + i) 0) s.mem
    free := s.free + 1 }

/-! ## Counters (R364, R365) -/

/-- The error counters, as R409 places them. -/
inductive ErrId
  | lockedWrite | suppressed | specError
  | mosDrop (r : Nat)
  | datReject
  | evqLost (q : Nat)
  | headOverrun | laSkip | badDoorbell
  deriving DecidableEq, Repr, Inhabited

/-- The CFG offset of an error counter (R409). -/
def ErrId.offset : ErrId → Nat
  | .lockedWrite => 0x1018
  | .suppressed => 0x1020
  | .specError => 0x1028
  | .mosDrop r => 0x5040 + 8 * r
  | .datReject => 0x8018
  | .evqLost q => 0x10030 + 64 * q
  | .headOverrun => 0x11000
  | .laSkip => 0x22130
  | .badDoorbell => 0x120000

/-- Read an error counter. -/
def State.err (s : State) : ErrId → ErrCtr
  | .lockedWrite => s.flt.lockedWrite
  | .suppressed => s.flt.suppressed
  | .specError => s.flt.specError
  | .mosDrop r => s.mos.drops.getD r ErrCtr.init
  | .datReject => s.dat.reject
  | .evqLost q => (Tab.get EvQueue.init s.evqs q).lost
  | .headOverrun => s.headOverrun
  | .laSkip => s.stl.laSkip
  | .badDoorbell => s.badDoorbell

/-- Write an error counter. -/
def State.setErr (s : State) (i : ErrId) (c : ErrCtr) : State :=
  match i with
  | .lockedWrite => { s with flt := { s.flt with lockedWrite := c } }
  | .suppressed => { s with flt := { s.flt with suppressed := c } }
  | .specError => { s with flt := { s.flt with specError := c } }
  | .mosDrop r => { s with mos := { s.mos with drops := setAt s.mos.drops r c } }
  | .datReject => { s with dat := { s.dat with reject := c } }
  | .evqLost q => { s with evqs := s.evqs.upd EvQueue.init q fun e => { e with lost := c } }
  | .headOverrun => { s with headOverrun := c }
  | .laSkip => { s with stl := { s.stl with laSkip := c } }
  | .badDoorbell => { s with badDoorbell := c }

/-- The increments of the present cycle (R365). -/
def recentOf (r : Nat × Nat) (now : Nat) : Nat := if r.1 = now then r.2 else 0

/-- Add 1 to an error counter, sticking at 2³² − 1; the second component is that this increment first brings VALUE to
THRESHOLD (R365). -/
def ErrCtr.inc (c : ErrCtr) (now : Nat) : ErrCtr × Bool :=
  if c.value = 4294967295 then ({ c with sat := true, recent := (now, recentOf c.recent now + 1) }, false)
  else
    let v := c.value + 1
    let hit := !c.told && decide (c.threshold ≠ 0) && decide (v = c.threshold)
    (⟨v, c.sat || decide (v = 4294967295), c.thr || hit, c.threshold, c.told || hit, if hit then some now else c.thrAt,
      (now, recentOf c.recent now + 1)⟩, hit)

/-- CLEAR of an error counter (R365): VALUE keeps the increments of the same cycle, which may bring it to THRESHOLD again. -/
def ErrCtr.clear (c : ErrCtr) (now : Nat) : ErrCtr :=
  let v := recentOf c.recent now
  let hit := decide (c.threshold ≠ 0) && decide (c.threshold ≤ v)
  ⟨v, false, hit, c.threshold, hit, if hit then some now else none, c.recent⟩

/-! ## Event records (R326 to R333) -/

/-- The severity of an event type (R330). -/
def sevOf : Nat → Nat
  | 0x02 | 0x22 | 0x32 => 2
  | 0x10 | 0x11 | 0x20 | 0x21 | 0x30 | 0x31 | 0x33 | 0x39 | 0x42 => 1
  | 0x40 => 3
  | _ => 0

/-- The 32 bytes of a record (R327). -/
def Rec.bytes (r : Rec) : List Byte :=
  leBytes 4 r.seq ++ leBytes 1 r.type ++ leBytes 1 r.sev ++ leBytes 2 r.ctx ++ leBytes 2 r.queue
    ++ leBytes 2 (r.bearing + r.tracker * 8192) ++ leBytes 4 r.tag ++ leBytes 4 r.pass ++ leBytes 12 r.payload

/-- An event queue. -/
def State.evq (s : State) (q : Nat) : EvQueue := Tab.get EvQueue.init s.evqs q

/-- U of R326: slots that hold no unread record and are not reserved. -/
def EvQueue.room (e : EvQueue) : Nat := 2 ^ e.log2 - (e.tail + 4294967296 - e.head) % 4294967296 - e.reserved

/-- The queue takes records other than command records (R416). -/
def EvQueue.open_ (e : EvQueue) : Bool := e.enable && !e.disabling

/-- What a record carries beside its place in the ring. -/
structure RecBody where
  type : Nat
  ctx : Nat
  queue : Nat
  tag : Nat
  payload : Nat
  deriving DecidableEq, Repr, Inhabited

/-- The class of a transfer (R236); the engine's own writes of records go with class 1 (log 195). -/
def fpCls : FpUse → Nat
  | .record _ _ | .notify _ | .state _ _ => 1
  | .slot _ | .table _ _ | .look _ _ => 2
  | .flagRead _ | .flagWrite _ => 3
  | .copyWrite _ | .copyRead _ _ => 4
  | .legend | .checkpoint | .dropped => 5

/-- The transfer is a read. -/
def fpIsRead : FpUse → Bool
  | .slot _ | .table _ _ | .look _ _ | .flagRead _ | .legend | .copyRead _ _ | .dropped => true
  | _ => false

/-- The first transfer of a use is taken out. -/
def dropSent (u : FpUse) : List FpUse → List FpUse
  | [] => []
  | x :: t => if x = u then t else x :: dropSent u t

/-- The transfer FP0 sends next: strict priority among those whose direction is below its outstanding limit, and after 15
others one of class 5 (R236, R392). -/
def fpNext (wait out : List FpUse) (run : Nat) : Option FpUse :=
  let room := fun (u : FpUse) => decide ((out.filter fun x => fpIsRead x == fpIsRead u).length < (if fpIsRead u then 64 else 32))
  let can := wait.filter room
  match (if 15 ≤ run then can.find? fun u => fpCls u == 5 else none) with
  | some u => some u
  | none => can.foldl (fun (b : Option FpUse) u =>
      match b with
      | none => some u
      | some x => if fpCls u < fpCls x then some u else some x) none

/-- Send transfers while FP0 has room: each step sends one, so the fuel of those that wait is enough. -/
def fpSend : Nat → List FpUse → List FpUse → Nat → List FpUse × Nat
  | 0, _, out, run => (out, run)
  | f + 1, wait, out, run =>
    match fpNext wait out run with
    | none => (out, run)
    | some u =>
      let run := if fpCls u = 5 then 0 else if wait.any fun x => fpCls x == 5 then run + 1 else 0
      fpSend f (dropSent u wait) (out ++ [u]) run

/-- The transfers sent that are still there. -/
def fpThere : List FpUse → List FpUse → List FpUse
  | [], _ => []
  | u :: t, us => if us.contains u then u :: fpThere t (dropSent u us) else fpThere t us

/-- The transfers that FP0 has sent, and those that wait. -/
def fpSplit : List FpReq → List FpUse → List FpReq × List FpReq
  | [], _ => ([], [])
  | r :: t, out =>
    if out.contains r.use then let x := fpSplit t (dropSent r.use out); (r :: x.1, x.2)
    else let x := fpSplit t out; (x.1, r :: x.2)

/-- A transfer that FP0 has sent touches bytes of a range: any transfer, or writes alone (R394). -/
def State.fpMeets (s : State) (writes : Bool) (a n : Nat) : Bool :=
  (fpSplit s.fp s.fpOut).1.any fun r => !(writes && fpIsRead r.use) && decide (r.addr < a + n) && decide (a < r.addr + r.len)

/-- A fill of a line is in flight. -/
def State.filling (s : State) (l : Nat) : Bool := s.feed.fills.any fun f => f.line == l

/-- Two writes touch a byte in common. -/
def MemWr.meets (a b : MemWr) : Bool := decide (a.lo < b.hi) && decide (b.lo < a.hi)

/-- A write of a line has been sent and awaits its response. -/
def State.writeSent (s : State) (l : Nat) : Bool := s.memq.any fun e => e.line == l && e.sent

/-- A write may be sent, behind those asked for before it and ahead of the others: its port has fewer than 256 outstanding (R392), and
nothing that touches its bytes is outstanding, nor a write of them asked for before (R394). -/
def State.maySend (s : State) (before after : List MemWr) (e : MemWr) : Bool :=
  decide ((((before ++ after).filter fun x => x.sent && s.portOf x.line == s.portOf e.line).length) < 256)
    && !(before.any e.meets) && !(after.any fun x => x.sent && e.meets x) && !s.filling e.line && !s.fpMeets false e.lo (e.hi - e.lo)

/-- The writes after each that may be has been sent, in order. -/
def State.memSend (s : State) : List MemWr → List MemWr → List MemWr
  | before, [] => before
  | before, e :: t => State.memSend s (before ++ [if e.sent then e else { e with sent := s.maySend before t e }]) t

/-- The engine issues nothing new on a manager port once it has left service, under a reset pin and while SAFE_STATE is 1 (R343, R401,
R402). -/
def State.fpClosed (s : State) : Bool := s.flt.out || s.flt.safe || s.pins.poreset || s.pins.sysreset

/-- The MEM ports send what they can (R392, R394). -/
def State.memPump (s : State) : State := if s.fpClosed then s else { s with memq := s.memSend [] s.memq }

/-- The writes a list of byte writes makes, one a line. -/
def wrsOf (o : WrOwner) (ws : List (Nat × Byte)) : List MemWr :=
  (linesOfWrites ws).map fun l =>
    let as := (ws.filter fun w => lineOf w.1 == l).map (·.1)
    ⟨o, l, as.foldl min (l * 256 + 255), as.foldl max 0 + 1, false⟩

/-- Writes are handed to the MEM ports. -/
def State.memAdd (s : State) (es : List MemWr) : State := State.memPump { s with memq := s.memq ++ es }

/-- Remove one entry of a list. -/
def dropOne (l : Nat) : List Nat → List Nat
  | [] => []
  | x :: t => if x = l then t else x :: dropOne l t

/-- Of the writes of an owner those not sent are sent no more; what it still owes is given by the first component, as lines (R239
step 2). -/
def State.memStop (s : State) (o : WrOwner) (owed : List Nat) : List Nat × State :=
  let gone := fun (e : MemWr) => decide (e.owner = o) && !e.sent
  ((s.memq.filter gone).foldl (fun l e => dropOne e.line l) owed, { s with memq := s.memq.filter fun e => !gone e })

/-- The writes of an owner that a test names are left to the ports. -/
def State.memLeave (s : State) (o : WrOwner) (f : MemWr → Bool) : State :=
  { s with memq := s.memq.map fun e => if e.owner = o && f e then { e with owner := .port } else e }

/-- A transfer must wait for one on any port that touches its bytes, where one of the two is a write (R394); and a record waits for the
engine's writes of region and update records that were asked for before it (R58; log 195). -/
def State.fpClash (s : State) (r : FpReq) : Bool :=
  s.fpMeets (fpIsRead r.use) r.addr r.len
    || (s.memq.any fun e => e.sent && decide (e.lo < r.addr + r.len) && decide (r.addr < e.hi))
    || (!fpIsRead r.use && (linesOf r.addr r.len).any s.filling)
    || match r.use with
       | .record _ _ => s.fp.any fun q => match q.use with | .state _ _ => true | _ => false
       | _ => false

/-- The waiting transfers that may be sent: none that must wait, and none after one of its own use that must. -/
def fpFree (clash : FpReq → Bool) : List FpReq → List FpUse → List FpUse
  | [], _ => []
  | r :: t, held =>
    if clash r || held.contains r.use then fpFree clash t (r.use :: held) else r.use :: fpFree clash t held

/-- FP0 sends what it can (R236, R392). -/
def State.fpPump (s : State) : State :=
  if s.fpClosed then s else
  let out := fpThere s.fpOut (s.fp.map (·.use))
  let s := { s with fpOut := out }
  let wait := fpFree s.fpClash (fpSplit s.fp out).2 []
  let r := fpSend wait.length wait out s.fpRun
  { s with fpOut := r.1, fpRun := r.2 }

/-- A response lets the transfers go on that waited for it, on every port (R392, R394). -/
def State.fpResume (s : State) : State :=
  let s := s.memPump
  if (fpSplit s.fp s.fpOut).2.isEmpty then s else s.fpPump

/-- The command a Footpath transfer belongs to. -/
def fpOwner : FpUse → Option CmdId
  | .table c _ | .flagRead c | .flagWrite c | .copyWrite c | .copyRead c _ => some c
  | _ => none

/-- Of the transfers that a test names, those that FP0 has sent; the others all stay. -/
def fpKeepSent (mine : FpUse → Bool) : List FpReq → List FpUse → List FpReq
  | [], _ => []
  | r :: t, out =>
    if !mine r.use then r :: fpKeepSent mine t out
    else if out.contains r.use then r :: fpKeepSent mine t (dropSent r.use out)
    else fpKeepSent mine t out

/-- A command sends no further transfer on FP0: those that wait are dropped, those sent run to their responses (R239 step 2). -/
def State.fpStop (s : State) (id : CmdId) : State :=
  let fp := fpKeepSent (fun u => fpOwner u == some id) s.fp s.fpOut
  { s with
    fp := fp
    cmds := s.cmds.map fun c => if c.id = id then
      { c with fpOwed := (fp.filter fun r => fpOwner r.use == some id && !fpIsRead r.use).length } else c }

/-- Hand transfers to the Footpath. -/
def State.fpAdd (s : State) (rs : List FpReq) : State := State.fpPump { s with fp := s.fp ++ rs }

/-- Write a record at TAIL and hand it to the Footpath (R326, R331); its bytes reach memory with the OKAY response. -/
def State.writeRec (s : State) (q : Nat) (b : RecBody) (now : Bool) : State :=
  let e := s.evq q
  let r : Rec := ⟨q, e.tail, b.type, sevOf b.type, b.ctx, b.queue, s.bearing, s.dat.tracker.code, b.tag,
    s.dat.pass.toNat % 4294967296, b.payload % 2 ^ 96⟩
  let a := e.base + 32 * (e.tail % 2 ^ e.log2)
  State.fpAdd { s with
    log := s.log ++ [r]
    evqs := s.evqs.upd EvQueue.init q fun e => { e with tail := (e.tail + 1) % 4294967296 } }
    [⟨.record q e.tail, now, a, r.bytes, 32⟩]

/-- Write the EVENTS_LOST record while the pending lost count is not zero and U ≥ 1 (R326). -/
def State.flushLost (s : State) (q : Nat) : State :=
  let e := s.evq q
  if e.open_ && decide (e.pend ≠ 0) && decide (1 ≤ e.room) then
    State.writeRec { s with evqs := s.evqs.upd EvQueue.init q fun e => { e with pend := 0 } } q
      ⟨0x30, 0xFFFF, 0xFFFF, 0, e.pend⟩ false
  else s

/-- Form a record that is not a command record: written when U ≥ 2, otherwise dropped, counted in EVQ_LOST and added to the
pending lost count (R326); the counter's threshold raises a record of its own on the engine queue (R365). The fuel bounds
how often one drop can lead to another; two levels are all there are, as a threshold event comes once. -/
def State.emitF : Nat → State → Nat → RecBody → State
  | 0, s, _, _ => s
  | f + 1, s, q, b =>
    let s := s.flushLost q
    let e := s.evq q
    if e.open_ && decide (2 ≤ e.room) then s.writeRec q b false
    else
      let (c, hit) := e.lost.inc s.pins.now
      let s := { s with evqs := s.evqs.upd EvQueue.init q fun e => { e with lost := c, pend := e.pend + 1 } }
      let s := if hit then State.emitF f s s.engineEvq ⟨0x39, 0xFFFF, 0xFFFF, 0, (ErrId.evqLost q).offset + c.value * 4294967296⟩ else s
      s.flushLost q

/-- Form a record on an event queue; nothing where the event path is closed (R335, R382). -/
def State.emit (s : State) (q : Nat) (b : RecBody) : State := if s.alive then s.emitF 3 q b else s

/-- Form a record on the engine queue. -/
def State.emitEngine (s : State) (type payload : Nat) : State := s.emit s.engineEvq ⟨type, 0xFFFF, 0xFFFF, 0, payload⟩

/-- Add 1 to an error counter, with its threshold record (R365). -/
def State.bumpErr (s : State) (i : ErrId) : State :=
  let (c, hit) := (s.err i).inc s.pins.now
  let s := s.setErr i c
  if hit then s.emitEngine 0x39 (i.offset + c.value * 4294967296) else s

/-- The performance counters, as R409 places them. -/
inductive PerfId
  | commits | skips | pushes | pops | discards | drops
  | stall (set i : Nat)
  | convoy (ch : Nat)
  | prefetchLost | laDrop | droops
  deriving DecidableEq, Repr, Inhabited

/-- The CFG offset of a performance counter (R409). -/
def PerfId.offset : PerfId → Nat
  | .commits => 0x6008
  | .skips => 0x6010
  | .pushes => 0x7008
  | .pops => 0x7010
  | .discards => 0x7018
  | .drops => 0x7020
  | .stall s i => 0x20000 + 0x100 * s + 8 * i
  | .convoy c => 0x22100 + 8 * c
  | .prefetchLost => 0x22120
  | .laDrop => 0x22128
  | .droops => 0x40008

/-- Read a performance counter. -/
def State.perf (s : State) : PerfId → PerfCtr
  | .commits => s.upd.commits
  | .skips => s.upd.skips
  | .pushes => s.trv.pushes
  | .pops => s.trv.pops
  | .discards => s.trv.discards
  | .drops => s.trv.drops
  | .stall st i => (s.stl.live.getD st []).getD i PerfCtr.init
  | .convoy c => s.stl.convoy.getD c PerfCtr.init
  | .prefetchLost => s.stl.prefetchLost
  | .laDrop => s.stl.laDrop
  | .droops => s.pwrDroops

/-- Write a performance counter. -/
def State.setPerf (s : State) (i : PerfId) (c : PerfCtr) : State :=
  match i with
  | .commits => { s with upd := { s.upd with commits := c } }
  | .skips => { s with upd := { s.upd with skips := c } }
  | .pushes => { s with trv := { s.trv with pushes := c } }
  | .pops => { s with trv := { s.trv with pops := c } }
  | .discards => { s with trv := { s.trv with discards := c } }
  | .drops => { s with trv := { s.trv with drops := c } }
  | .stall st k => { s with stl := { s.stl with live := updAt s.stl.live st fun l => setAt l k c } }
  | .convoy ch => { s with stl := { s.stl with convoy := setAt s.stl.convoy ch c } }
  | .prefetchLost => { s with stl := { s.stl with prefetchLost := c } }
  | .laDrop => { s with stl := { s.stl with laDrop := c } }
  | .droops => { s with pwrDroops := c }

/-- Write a performance counter that has counted: a snapshot taken in this cycle has it too (R366). -/
def State.countPerf (s : State) (i : PerfId) (c : PerfCtr) : State :=
  let s := s.setPerf i c
  match i with
  | .stall st k =>
    if s.stl.snapAt = some s.pins.now then { s with stl := { s.stl with snap := updAt s.stl.snap st fun l => setAt l k c } } else s
  | _ => s

/-- A moment that lies n control clock cycles of 1 ns, or more, in the past. -/
def State.elapsed (s : State) (from_ n : Nat) : Bool := decide (from_ + n ≤ s.pins.now)

/-- Add n to a performance counter modulo 2⁴⁸; passing the end sets WRAP and writes one COUNTER_WRAP record (R365). -/
def State.addPerf (s : State) (i : PerfId) (n : Nat) : State :=
  let c := s.perf i
  let v := c.value + n
  let r := (s.pins.now, recentOf c.recent s.pins.now + n)
  if v < 2 ^ 48 then s.countPerf i ⟨v, c.wrap, c.wrapAt, r⟩
  else (s.countPerf i ⟨v % 2 ^ 48, true, some s.pins.now, r⟩).emitEngine 0x38 i.offset

/-- Add 1 to a life counter, saturating with its SAT bit and one ALMANAC record (R360, R371). -/
def State.addLife (s : State) (k n : Nat) : State :=
  let v := s.alm.life.getD k 0 + n
  let full := 18446744073709551615
  if v < full then { s with alm := { s.alm with life := setAt s.alm.life k v } }
  else
    let was := bits s.alm.sat k 1 == 1
    let s := { s with alm := { s.alm with life := setAt s.alm.life k full, sat := putBits s.alm.sat k 1 1 } }
    if was then s else s.emitEngine 0x48 (7 + k * 4294967296)

/-! ## Commands and contexts -/

/-- A context's entry. -/
def State.ctx (s : State) (c : Nat) : CtxEntry := Tab.get CtxEntry.init s.ctxs c

/-- Change a context's entry. -/
def State.updCtx (s : State) (c : Nat) (f : CtxEntry → CtxEntry) : State := { s with ctxs := s.ctxs.upd CtxEntry.init c f }

/-- A context's run-time state. -/
def State.rt (s : State) (c : Nat) : CtxRt := Tab.get CtxRt.init s.rts c

/-- Change a context's run-time state. -/
def State.updRt (s : State) (c : Nat) (f : CtxRt → CtxRt) : State := { s with rts := s.rts.upd CtxRt.init c f }

/-- Change a context's Mosaic stream. -/
def State.updStream (s : State) (c : Nat) (f : Stream → Stream) : State :=
  s.updRt c fun r => { r with stream := f r.stream }

/-- A command queue. -/
def State.cmq (s : State) (q : Nat) : CmQueue := Tab.get CmQueue.init s.cmqs q

/-- Change a command queue. -/
def State.updCmq (s : State) (q : Nat) (f : CmQueue → CmQueue) : State := { s with cmqs := s.cmqs.upd CmQueue.init q f }

/-- Entries of the context table (R318); none before the first seal. -/
def State.ctxCount (s : State) : Nat := match s.lgd.inForce with | some l => 2 ^ l.ctxLog2 | none => 0

/-- A context exists: below the size of the table and not FREE. -/
def State.ctxExists (s : State) (c : Nat) : Bool := decide (c < s.ctxCount) && (s.ctx c).state != .free

/-- The accepted command of a name. -/
def State.cmd (s : State) (c : CmdId) : Option Cmd := s.cmds.find? fun x => x.id == c

/-- Change an accepted command. -/
def State.updCmd (s : State) (c : CmdId) (f : Cmd → Cmd) : State :=
  { s with cmds := s.cmds.map fun x => if x.id = c then f x else x }

/-- Accepted commands of a queue, oldest first. -/
def State.cmdsOf (s : State) (q : Nat) : List Cmd := s.cmds.filter fun c => c.id.q == q

/-- The command has not begun execution. -/
def Cmd.waiting (c : Cmd) : Bool := c.phase == .accepted || c.phase == .issued

/-- No accepted command of the context is without its record (R319). -/
def State.ctxIdle (s : State) (c : Nat) : Bool := s.cmds.all fun x => x.ctx != c

/-- The command's TAG (R310). -/
def Cmd.tag (c : Cmd) : Nat := bits c.raw 32 32

/-- The command's NOTIFY bit (R310). -/
def Cmd.notify (c : Cmd) : Bool := bits c.raw 8 1 == 1

/-- The payload of a fault record (R329). -/
def Cause.payload (c : Cause) : Nat := c.code + c.slot % 16 * 65536 + c.byte % 128 * 1048576 + c.detail % 2 ^ 64 * 4294967296

/-- An entry of the stack is pinned by an accepted command (R165). -/
def State.pinned (s : State) (c entry : Nat) : Bool :=
  s.cmds.any fun x => x.ctx == c && x.frames.any fun f => f.entry == entry

/-- Fill the reserved slot of a command's queue with its record (R326, R328, R329). -/
def State.cmdRec (s : State) (c : Cmd) (type payload : Nat) : State :=
  let s1 := { s with evqs := s.evqs.upd EvQueue.init c.evq fun e => { e with reserved := e.reserved - 1 } }
  let s2 := s1.writeRec c.evq ⟨type, c.ctx, c.id.q, c.tag, payload⟩ c.notify
  { s2 with evqs := s2.evqs.upd EvQueue.init c.evq fun e =>
      if e.disabling && e.reserved == 0 then { e with disabling := false } else e }

/-- A DRAINING queue becomes DISABLED once every accepted command has its record (R306). -/
def State.drainQueue (s : State) (q : Nat) : State :=
  if (s.cmq q).state == .draining && (s.cmdsOf q).isEmpty then
    s.updCmq q fun e => { e with state := .disabled }
  else s

/-- The array is free of a command that leaves it. -/
def Arr.leave (id : CmdId) (a : Arr) : Arr :=
  if a.op = some id then { a with op := none, shares := [], skewed := false, fed := false, slab := [], held := [], contrib := [], anchors := [], edge := [], joins := [] } else a

/-- A context reset in progress counts a fault record of step 5 (R346). -/
def CtxRt.countRec (r : CtxRt) : CtxRt :=
  { r with resetting := r.resetting.map fun x => { x with records := x.records + 1 } }

/-- Arm the deadline of the oldest command of a queue that has not begun (R309). -/
def State.arm (s : State) (q : Nat) : State :=
  match (s.cmdsOf q).find? Cmd.waiting with
  | none => s
  | some c =>
    match c.armed with
    | some _ => s
    | none =>
      let us := if bits c.raw 64 32 = 0 then (s.ctx c.ctx).defDeadline else bits c.raw 64 32
      s.updCmd c.id fun x => { x with armed := some (s.pins.now + us * 1000, us) }

/-- Give a command its record and let it leave the engine: its pins go with it, its queue may end DRAINING, and a reset in
progress counts its fault records (R306, R345). -/
def State.closeCmd (s : State) (id : CmdId) (type payload : Nat) : State :=
  match s.cmd id with
  | none => s
  | some c =>
    let s1 := (s.fpStop id).cmdRec c type payload
    let s2 := { s1 with cmds := s1.cmds.filter fun x => x.id != id, arrs := s1.arrs.map (Arr.leave id) }
    let s3 := if type = 0x02 then s2.updRt c.ctx CtxRt.countRec else s2
    (s3.drainQueue id.q).arm id.q

/-- A command's fault record is formed at once: nothing of it runs and nothing is outstanding (R179). -/
def State.reject (s : State) (id : CmdId) (c : Cause) : State := s.closeCmd id 0x02 c.payload

/-- A record address of the region table: record k of context c (R319). -/
def State.regionAddr (s : State) (c k : Nat) : Nat := (s.ctx c).regionTable * 16 + 32 * k

/-- The engine writes bytes of a region record or an update record of a context through the Footpath (R58, R282, R319). DESIGN CHOICE
(log 195): the bytes are in memory at once, as the engine's own copy has them, and the transfer stands until its response. -/
def State.ownWrite (s : State) (c a : Nat) (bs : List Byte) : State :=
  (s.fpWrite a bs).fpAdd [⟨.state c a, false, a, [], bs.length⟩]

/-- Write a region record's RSTATE (R58): the engine writes every change to host memory. -/
def State.setRState (s : State) (c k st : Nat) : State :=
  let a := s.regionAddr c k + 6
  s.ownWrite c a [BitVec.ofNat 8 (putBits (s.memByte a).toNat 6 2 st)]

/-- Write a region record's SEL (R62). -/
def State.setSel (s : State) (c k sel : Nat) : State :=
  let a := s.regionAddr c k + 7
  s.ownWrite c a [BitVec.ofNat 8 (putBits (s.memByte a).toNat 0 1 sel)]

/-- A sheet of a command whose work stops becomes FREE. -/
def Sheet.leave (id : CmdId) (sh : Sheet) : Sheet := if sh.cmd = some id then Sheet.init else sh

/-- A tile without the work of a command: its sheets, queues, links and buffers hold nothing of it (R239). -/
def Tile.leave (id : CmdId) (t : Tile) : Tile :=
  let mine := (t.pjobs.head?.map (·.cmd)) == some id
  { t with
    sheets := t.sheets.map (Sheet.leave id)
    jobs := t.jobs.filter fun j => j.1 != id
    pjobs := t.pjobs.filter fun j => j.cmd != id
    dbeats := if mine then 0 else t.dbeats
    pdx := if mine then [] else t.pdx
    pscales := if mine then [] else t.pscales
    ready := t.ready.filter fun j => j.ref.cmd != id
    sent := if (t.ready.head?.map (·.ref.cmd)) == some id || mine then 0 else t.sent
    rowIn := t.rowIn.filter fun f => f.cmd != id
    colIn := t.colIn.filter fun f => f.cmd != id
    partIn := t.partIn.filter fun j => j.ref.cmd != id
    aHalf := t.aHalf.filter fun b => b.cmd != id
    bHalf := t.bHalf.filter fun b => b.cmd != id
    scaleBuf := t.scaleBuf.filter fun b => b.cmd != id
    latch := t.latch.filter fun b => b.cmd != id
    cells := if (t.aHalf ++ t.bHalf).any fun b => b.cmd == id then none else t.cells }

/-- A feeder thread without the sequence of a command. -/
def Thread.leave (id : CmdId) (th : Thread) : Thread := if th.cmd = some id then Thread.init else th

/-- An array without what a command's sums have left in its scratch (R239, step 3). -/
def Arr.stop (id : CmdId) (a : Arr) : Arr :=
  if a.op = some id then { a with shares := [], slab := [], held := [], contrib := [], anchors := [], edge := [], joins := [] } else a

/-- The lines a thread has outstanding whose requests wait at an Atlas bank: no fill is on its way to the thread for them (R221). -/
def State.atBanks (s : State) (ch i : Nat) : List Nat :=
  ((((s.feed.threads.getD ch []).getD i Thread.init).outst.filter fun o => !o.2 && !s.feed.fills.any fun f =>
    f.line == o.1 && f.waiters.contains (ch, i))).map (·.1)

/-- The bank all threads of a channel have been waiting on, in WAIT_ATLAS with a request there: of several such banks that of the first
request of the first thread (R227). -/
def State.waitBank (s : State) (ch : Nat) : Option Nat :=
  let l := s.feed.threads.getD ch []
  let banks := fun i => (s.atBanks ch i).map s.build.size.bank
  if l.isEmpty || !l.all (fun th => th.st == .waitAtlas) then none
  else (banks 0).find? fun b => (List.range l.length).all fun i => (banks i).contains b

/-- All threads of a channel still wait on a bank (R227). -/
def State.stillAt (s : State) (ch b : Nat) : Bool :=
  let l := s.feed.threads.getD ch []
  l.all (fun th => th.st == .waitAtlas) && (List.range l.length).all fun i => ((s.atBanks ch i).map s.build.size.bank).contains b

/-- Convoys end whose threads do not all wait on their bank any more (R227). -/
def State.endConvoys (s : State) : State :=
  let still := (List.range s.feed.convoy.length).map fun ch =>
    match s.feed.convoy.getD ch none with
    | some b => if s.stillAt ch b then some b else none
    | none => none
  { s with feed := { s.feed with convoy := still } }

/-- Feeding without a command: its sequences, what the buffers of its channels hold of it, and its place among those that wait
for a fill; a fill that nothing waits for any more is discarded on arrival (R239, steps 2 and 3). -/
def Feed.leave (id : CmdId) (f : Feed) : Feed :=
  let mine := fun (w : Nat × Nat) => ((f.threads.getD w.1 []).getD w.2 Thread.init).cmd == some id
  { f with
    fills := f.fills.map fun x => { x with waiters := x.waiters.filter fun w => !mine w }
    threads := f.threads.map fun l => l.map (Thread.leave id)
    queue := f.queue.map fun l => l.filter fun th => th.cmd != some id
    proj := f.proj.map fun l => l.filter fun b => b.2.cmd != id
    asked := f.asked.filter fun x => !mine (x.1, x.2.1)
    refetch := f.refetch.filter fun l => f.threads.any fun ths => ths.any fun th => th.cmd != some id && th.outst.contains (l, false)
    spur := f.spur.map fun l => l.filter fun b => b.1 != id }

/-- Free the sheets, the jobs, the feeder threads, the buffers and the scratch of a command whose work ends. Its look-ahead list goes on, and
so do its transfers on FP0 (R230, R236). -/
def State.freeUnits (s : State) (id : CmdId) : State :=
  State.endConvoys { s with tiles := s.tiles.map (Tile.leave id), arrs := s.arrs.map (Arr.stop id), feed := s.feed.leave id }

/-- A look-ahead list reads a piece. -/
def LookList.readsAt (x : LookList) (u : FpUse) : Bool :=
  match u with | .look ctx a => x.ctx == ctx && x.reads.any fun p => p.1 == a | _ => false

/-- Look-ahead lists that a test names are issued no further: pieces of them that FP0 has not sent, and that no other list reads, are not
read (R239 step 2, R345 step 4). -/
def State.lookStop (s : State) (f : LookList → Bool) : State :=
  let mine := fun (u : FpUse) => (s.feed.look.any fun x => f x && x.readsAt u) && !s.feed.look.any fun x => !f x && x.readsAt u
  { s with fp := fpKeepSent mine s.fp s.fpOut, feed := { s.feed with look := s.feed.look.filter fun x => !f x } }

/-- A command makes no further write on the MEM ports (R239 step 2). -/
def State.wrStop (s : State) (id : CmdId) : State :=
  let r := s.memStop (.cmd id) (((s.cmd id).map (·.owed)).getD [])
  r.2.updCmd id fun c => { c with owed := r.1 }

/-- A command whose work stops frees its units, and what it has still to request is dropped, its look-ahead list among it (R239, steps 1
to 3). -/
def State.stopUnits (s : State) (id : CmdId) : State :=
  (((s.fpStop id).wrStop id).lookStop fun x => x.cmd == some id).freeUnits id

/-- A stream without the work of a command. -/
def Stream.leave (id : CmdId) (x : Stream) : Stream :=
  { x with steps := x.steps.filter (fun t => t.cmd != id), gathers := x.gathers.filter (fun g => g.cmd != id)
           vec := x.vec.filter fun v => v.cmd != id }

/-- The Mosaic drops what an aborted command had placed, and the frames of it that wait for the send window (R239, step 2). -/
def State.leaveStream (s : State) (id : CmdId) (ctx : Nat) : State :=
  let x := (s.rt ctx).stream
  let gone := fun (f : MosFrame) =>
    let kind := leNat (f.bytes.take 1)
    let idx := leNat ((f.bytes.drop 16).take 2)
    (kind == 1 && x.steps.any fun t => t.cmd == id && t.idx == idx) || (kind == 2 && x.gathers.any fun g => g.cmd == id && g.idx == idx)
  let held := s.mos.held.filter fun f => !(f.1 == ctx && gone f.2)
  State.updStream { s with mos := { s.mos with held := held } } ctx (Stream.leave id)

/-- Start the abort of a command for its first cause (R239, R342): its units stop, it sends nothing further, and its fault
record waits for ABORT_DONE. A command already aborting, or reached by a context reset, keeps its cause; one not yet begun
yields its record at once. -/
def State.abort (s : State) (id : CmdId) (c : Cause) : State :=
  match s.cmd id with
  | none => s
  | some x =>
    if x.phase == .aborting || x.cause.isSome then s
    else if x.waiting then s.reject id c
    else (State.stopUnits (s.updCmd id fun x => { x with phase := .aborting, cause := some c, since := s.pins.now }) id).leaveStream id x.ctx

/-- A cause that names the command itself. -/
def Cause.own (code detail : Nat) : Cause := ⟨code, detail, 15, 0⟩

/-! ## Safety (15_faults_safety_and_recovery.md) -/

/-- The payload of a SAFETY record (R341). -/
def safetyPayload (code : Nat) (ch tile : Option Nat) (action detail : Nat) : Nat :=
  code + (match ch with | some c => c % 4 * 65536 + 262144 | none => 0)
    + (match tile with | some t => t % 512 * 524288 + 268435456 | none => 0)
    + action * 536870912 + detail % 2 ^ 64 * 4294967296

/-- A SAFETY record on the engine queue (R336, R341). -/
def State.safety (s : State) (code : Nat) (ch tile : Option Nat) (action detail : Nat) : State :=
  s.emitEngine 0x40 (safetyPayload code ch tile action detail)

/-- A detection in a tile: the command on its array is aborted, with a SAFETY record of action 0, or 4 where none runs. -/
def State.tileFault (s : State) (t code detail : Nat) : State :=
  let ch := s.build.size.chanOf t
  match s.opOfTile t with
  | some id => (s.abort id (Cause.own code detail)).safety code (some ch) (some t) 0 detail
  | none => s.safety code (some ch) (some t) 4 detail

/-- Queue a tile for self-test (R336, R357). -/
def State.queueTile (s : State) (t : Nat) : State :=
  { s with tiles := updAt s.tiles t fun u => { u with queued := true } }

/-- The lane has found a wrong sum: the command is aborted and the tile queued for self-test (R336, R337). -/
def State.laneFault (s : State) (t i : Nat) : State := (s.tileFault t 0x0604 (t % 512 + i % 65536 * 65536)).queueTile t

/-- Leave service (R343): one SAFETY record with action 3, ALERT_N, the cause and its detail latched, and no checkpoint.
SAFE_STATE follows by rows of its own, once no request is outstanding or its bound has passed. Only PORESET_N returns the
engine; work in flight is lost (R335). -/
def State.leaveService (s : State) (code : Nat) (ch tile : Option Nat) (detail : Nat) : State :=
  if s.flt.out then s
  else
    let s := (s.safety code ch tile 3 detail).addLife 9 1
    { s with
      flt := { s.flt with out := true, outAt := s.pins.now, alert := true, cause := code, detail := detail % 2 ^ 64 }
      alm := { s.alm with ckptOn := false } }

/-- Requests outstanding on manager ports, as the bits of FLT_STATUS.PORTS_OPEN (R344): bits 0 to 15 MEM, bit 16 FP0. What a
lane's neighbour still holds back is free (State.openLanes, log 172). -/
def State.openPorts (s : State) : Nat :=
  let lines := (s.cmds.flatMap (·.reads)) ++ (s.memq.filter (·.sent)).map (·.line)
  let mems := s.feed.fills.map (·.port) ++ lines.map s.portOf
  let m := (List.range 16).foldl (fun acc p => if mems.contains p then putBits acc p 1 1 else acc) 0
  if s.fpOut.isEmpty then m else putBits m 16 1 1

/-- The rule of R352 and R353 for a count in a window: the new start and count. -/
def escalate (now window t0 count : Nat) : Nat × Nat :=
  if count = 0 || decide (window ≤ now - t0) then (now, 1) else (t0, min 255 (count + 1))

/-- Count a compute reset or an isolation in FLT_ESC; at eng_limit the engine leaves service with the code given (R353). -/
def State.countEsc (s : State) (code detail : Nat) : State :=
  let w := match s.lgd.inForce with | some l => l.engWindow | none => 600
  let (t0, n) := escalate s.powerSeconds w s.flt.escT0 s.flt.escCount
  let s := { s with flt := { s.flt with escT0 := t0, escCount := n } }
  if s.flt.escLimit ≤ n then s.leaveService code none none detail else s

end Sys2Proof.Machine
end

