-- ==== Sys2Proof/Machine/Queues.lean ====
section
/-! DEFINITION. Command queues and event queues: doorbells, acceptance, the queue registers, notifications, deadlines
(R303 to R309, R326 to R333, R415 to R417). -/

namespace Sys2Proof.Machine

open Sys2Proof

/-- The event queue of a context, the engine queue where the context does not exist (R330). -/
def State.ctxEvq (s : State) (c : Nat) : Nat := if s.ctxExists c then (s.ctx c).evq else s.engineEvq

/-- A record of a context that belongs to no command (R330). -/
def State.emitCtx (s : State) (c type tag payload : Nat) : State := s.emit (s.ctxEvq c) ⟨type, c, 0xFFFF, tag, payload⟩

/-! ## Doorbell and acceptance -/

/-- A WAIT_FLAG reads its flag through the Footpath (R324, class 3); the condition is tested when the response returns. -/
def State.pollFlag (s : State) (id : CmdId) : State :=
  match s.cmd id with
  | some c =>
    if c.phase == .begun && bits c.raw 0 8 == 0x21 then
      State.fpAdd (s.updCmd id fun c => { c with since := s.pins.now }) [⟨.flagRead id, false, bits c.raw (0x48 * 8) 52, [], 8⟩]
    else s
  | none => s

/-- A write of PUB to CMQ_DOORBELL (R304, R307, R415): ignored in DISABLED; ignored, counted and reported when it leaves the
ring or goes back; otherwise it publishes and numbers the new slots, and a WAIT_FLAG of the queue reads its flag again. -/
def State.doorbell (s : State) (q pub : Nat) : State :=
  let e := s.cmq q
  if e.state == .disabled || decide (4096 ≤ q) then s
  else if decide (2 ^ e.log2 < (pub + 4294967296 - e.head) % 4294967296) || !serialGe 32 pub e.pub then
    (s.bumpErr .badDoorbell).emitCtx e.ctx 0x31 0 (q + pub * 4294967296)
  else
    let c := (pub + 4294967296 - e.pub) % 4294967296
    let sq := (s.ctx e.ctx).seq
    let s := (s.updCmq q fun e => { e with pub := pub, nums := e.nums ++ (List.range c).map fun i => (sq + i) % 2 ^ 48 }).updCtx
      e.ctx fun x => { x with seq := (x.seq + c) % 2 ^ 48 }
    (s.cmdsOf q).foldl (fun s c => s.pollFlag c.id) s

/-- DOORBELL: a write to CMQ_DOORBELL of queue q. -/
def execDoorbell (q : Nat) (v : W64) (s : State) : Host.Outcome State Fault Refusal :=
  .next (s.cfgWrite fun s => s.doorbell q (v.toNat % 4294967296))

/-- The descriptor at an address as a 1,024-bit number (R310). -/
def State.slotAt (s : State) (a : Nat) : Nat := s.memLE a 128

/-- The address of the slot at HEAD (R304). -/
def CmQueue.slotAddr (e : CmQueue) : Nat := e.base + 128 * (e.head % 2 ^ e.log2)

/-- The command unit has a slot to read: one is published, and its descriptor neither here nor on its way (R305). -/
def State.slotWanted (s : State) (q : Nat) : Bool :=
  let e := s.cmq q
  s.alive && e.state == .active && e.head != e.pub && e.slot.isNone && !s.fp.any fun r => r.use == .slot q

/-- The Footpath reads the slot at HEAD (R236, R305). -/
def State.readSlotAt (s : State) (q : Nat) : State := s.fpAdd [⟨.slot q, false, (s.cmq q).slotAddr, [], 128⟩]

/-- The slot has come: its descriptor is the one memory held then (R215). A response for a slot that HEAD no longer names, or of a
queue that takes none, is dropped. -/
def State.slotCame (s : State) (q addr : Nat) : State :=
  let e := s.cmq q
  if e.state == .active && e.head != e.pub && addr == e.slotAddr then s.updCmq q fun e => { e with slot := some (s.slotAt addr) } else s

/-- The slot at HEAD may be accepted (R305, R326): the queue is ACTIVE, a slot is published and read, fewer than 8 accepted commands
of the queue have not begun, and the context's event queue has two slots of room, one of them to reserve. -/
def State.canAccept (s : State) (q : Nat) : Bool :=
  let e := s.cmq q
  s.alive && e.state == .active && e.head != e.pub && e.slot.isSome && decide (((s.cmdsOf q).filter Cmd.waiting).length < 8)
    && (s.evq (s.ctx e.ctx).evq).open_ && decide (2 ≤ (s.evq (s.ctx e.ctx).evq).room)

/-- The command in the slot at HEAD. -/
def State.newCmd (s : State) (q : Nat) : Cmd :=
  let e := s.cmq q
  { id := ⟨q, e.head⟩, ctx := e.ctx, seq := e.nums.headD 0, acc := s.accepted, evq := (s.ctx e.ctx).evq
    raw := e.slot.getD 0, slots := [], probs := [], phase := .accepted, armed := none, since := 0
    cause := none, run := RunInfo.none, frames := [], counts := Counts.zero, owed := [], wrote := [], reads := [], fpOwed := 0
    touched := [], firsts := [], carried := [], drained := [], waitPulses := none, batches := [], tested := 0
    testForced := false, testFail := none, placed := false, began := 0, removes := [], streams := [], tabs := [], regIn := [] }

/-- Accept the slot at HEAD: HEAD advances, a record slot is reserved, and the deadline is armed where the command is the
oldest of its queue that has not begun (R305, R309, R326). -/
def State.accept (s : State) (q : Nat) : State :=
  let c := s.newCmd q
  let s1 := { s with cmds := s.cmds ++ [c], accepted := s.accepted + 1 }
  let s2 := s1.updCmq q fun e => { e with head := (e.head + 1) % 4294967296, nums := e.nums.tail, slot := none }
  let s3 := { s2 with evqs := s2.evqs.upd EvQueue.init c.evq fun e => { e with reserved := e.reserved + 1 } }
  (s3.flushLost c.evq).arm q

/-- COMMAND_ACCEPT: the command unit turns to the slot at HEAD of queue q: it reads it through the Footpath, and accepts it once all of
R305 holds. DESIGN CHOICE (log 154): the read is asked for with this row. -/
def execCommandAccept (q : Nat) (s : State) : Host.Outcome State Fault Refusal :=
  .next (if s.canAccept q then s.accept q else if s.slotWanted q then s.readSlotAt q else s)

/-! ## The registers of a command queue -/

/-- A write to CMQ_CTL (R303, R306, R415). A field that differs from the one in force is a write to it (log 12).
The base alone is judged, not the length of the ring. -/
def State.writeCmqCtl (s : State) (q : Nat) (v : W64) : State :=
  let n := v.toNat
  let en := bits n 0 1 == 1
  let log2 := bits n 2 5
  let ctx := bits n 16 16
  let e := s.cmq q
  if 4096 ≤ q then s
  else if e.state == .disabled then
    let s := s.updCmq q fun e => { e with log2 := log2, ctx := ctx }
    if !en || s.lgd.standalone then s
    else if decide (ctx < s.ctxCount) && (s.ctx ctx).state == .active && decide (4 ≤ log2) && decide (log2 ≤ 16)
        && e.base % 4096 == 0 && s.inMap e.base 1 then
      s.updCmq q fun e => { e with state := .active, head := 0, pub := 0, nums := [], slot := none }
    else s.updCmq q fun e => { e with cfgErr := true }
  else
    let bad := log2 != e.log2 || ctx != e.ctx || (en && e.state == .draining)
    let s := if bad then s.updCmq q fun e => { e with cfgErr := true } else s
    if !en then
      if e.state == .draining then s
      else (s.updCmq q fun e => { e with state := .draining, slot := none }).drainQueue q
    else if bits n 1 1 == 1 && e.state == .stopped && (s.ctx e.ctx).state != .resetting then
      s.updCmq q fun e => { e with state := .active }
    else s

/-- ENABLE: a write to CMQ_CTL that sets ENABLE. -/
def execEnable (q : Nat) (v : W64) (s : State) : Host.Outcome State Fault Refusal :=
  .next (s.cfgWrite fun s => s.writeCmqCtl q (v ||| 1#64))

/-- QUEUE_DISABLE: a write to CMQ_CTL that clears ENABLE. -/
def execQueueDisable (q : Nat) (v : W64) (s : State) : Host.Outcome State Fault Refusal :=
  .next (s.cfgWrite fun s => s.writeCmqCtl q (v &&& ~~~1#64))

/-- RESTART: a write to CMQ_CTL with RESTART set and ENABLE left set. -/
def execRestart (q : Nat) (v : W64) (s : State) : Host.Outcome State Fault Refusal :=
  .next (s.cfgWrite fun s => s.writeCmqCtl q (v ||| 3#64))

/-- A write to CMQ_BASE (R415). -/
def State.writeCmqBase (s : State) (q : Nat) (v : W64) : State :=
  if 4096 ≤ q then s
  else if (s.cmq q).state == .disabled then s.updCmq q fun e => { e with base := bits v.toNat 0 52 }
  else s.updCmq q fun e => { e with cfgErr := true }

/-- A write to CMQ_STATUS: CFG_ERR is W1C. -/
def State.writeCmqStatus (s : State) (q : Nat) (v : W64) : State :=
  if bits v.toNat 3 1 = 1 && decide (q < 4096) then s.updCmq q fun e => { e with cfgErr := false } else s

/-! ## The registers of an event queue -/

/-- Change an event queue. -/
def State.updEvq (s : State) (q : Nat) (f : EvQueue → EvQueue) : State := { s with evqs := s.evqs.upd EvQueue.init q f }

/-- A write to EVQ_CTL (R416): of the ring, the base alone is judged. -/
def State.writeEvqCtl (s : State) (q : Nat) (v : W64) : State :=
  let n := v.toNat
  let en := bits n 0 1 == 1
  let log2 := bits n 1 5
  let e0 := s.evq q
  if 64 ≤ q then s
  else
    let s := if bits n 9 1 = 1 then s.updEvq q fun e => { e with cfgErr := false } else s
    if en && e0.disabling then s.updEvq q fun e => { e with cfgErr := true }
    else
      let s := s.updEvq q fun e => { e with notify := bits n 6 2 }
      if e0.enable || e0.disabling then
        let s := if log2 != e0.log2 then s.updEvq q fun e => { e with cfgErr := true } else s
        if !en && e0.enable then
          s.updEvq q fun e => { e with enable := false, disabling := e.reserved != 0 }
        else s
      else
        let s := s.updEvq q fun e => { e with log2 := log2 }
        if !en then s
        else if decide (7 ≤ log2) && decide (log2 ≤ 16) && e0.base % 4096 == 0 && s.inMap e0.base 1 then
          s.updEvq q fun e => { e with enable := true, head := 0, tail := 0, reserved := 0, pend := 0,
                                       gapRunning := false, owes := false, acked := 0 }
        else s.updEvq q fun e => { e with cfgErr := true }

/-- EVQ_ENABLE: a write to EVQ_CTL that sets ENABLE. -/
def execEvqEnable (q : Nat) (v : W64) (s : State) : Host.Outcome State Fault Refusal :=
  .next (s.cfgWrite fun s => s.writeEvqCtl q (v ||| 1#64))

/-- EVQ_DISABLE: a write to EVQ_CTL that clears ENABLE. -/
def execEvqDisable (q : Nat) (v : W64) (s : State) : Host.Outcome State Fault Refusal :=
  .next (s.cfgWrite fun s => s.writeEvqCtl q (v &&& ~~~1#64))

/-- A write of HEAD to EVQ_HEAD (R417): accepted up to TAIL, else ignored and counted; room made lets a pending lost count
be written (R326). -/
def State.writeEvqHead (s : State) (q new : Nat) : State :=
  let e := s.evq q
  if 64 ≤ q then s
  else if (new + 4294967296 - e.head) % 4294967296 ≤ (e.tail + 4294967296 - e.head) % 4294967296 then
    let s := s.updEvq q fun e => { e with head := new }
    if s.alive then s.flushLost q else s
  else s.bumpErr .headOverrun

/-- EVQ_HEAD: a write to EVQ_HEAD. -/
def execEvqHead (q : Nat) (v : W64) (s : State) : Host.Outcome State Fault Refusal :=
  .next (s.cfgWrite fun s => s.writeEvqHead q (v.toNat % 4294967296))

/-- A write to EVQ_BASE (R416). -/
def State.writeEvqBase (s : State) (q : Nat) (v : W64) : State :=
  if 64 ≤ q then s
  else if (s.evq q).enable || (s.evq q).disabling then s.updEvq q fun e => { e with cfgErr := true }
  else s.updEvq q fun e => { e with base := bits v.toNat 0 52 }

/-! ## Notifications (R332, R333) -/

/-- Make a notification: an 8 B write of SEQ and the queue. -/
def State.notify (s : State) (q seq : Nat) : State :=
  s.fpAdd [⟨.notify q, false, (s.evq q).addr, leBytes 8 (seq + q * 4294967296), 8⟩]

/-- A record's write response has returned OKAY: the notification its queue's mode asks for (R332). -/
def State.afterRecord (s : State) (q seq : Nat) (now : Bool) : State :=
  let s := s.updEvq q fun e => { e with acked := seq }
  let e := s.evq q
  match e.notify with
  | 1 => s.notify q seq
  | 2 =>
    if now || !e.gapRunning then State.updEvq (s.notify q seq) q fun e => { e with gapRunning := true, gapAt := s.pins.now, owes := false }
    else s.updEvq q fun e => { e with owes := true }
  | _ => s

/-- NOTIFY_GAP: the gap of COALESCE, EVQ_NOTIFY_GAP µs with 0 taken as 1 (R417), has passed and ends; a record that waited for it gets its notification and the gap starts anew. -/
def execNotifyGap (q : Nat) (s : State) : Host.Outcome State Fault Refusal :=
  .next (
    let e := s.evq q
    if !s.alive || !e.gapRunning || !s.elapsed e.gapAt (max 1 e.gap * 1000) then s
    else if e.owes then State.updEvq (s.notify q e.acked) q fun e => { e with owes := false, gapAt := s.pins.now }
    else s.updEvq q fun e => { e with gapRunning := false })

/-! ## Flags -/

/-- The Legend's flag interval in ns (R324, R376). -/
def State.flagNs (s : State) : Nat := s.legendOr (·.flagNs) 2000

/-- FLAG_INTERVAL: the flag interval has passed since the last read and a waiting WAIT_FLAG reads its flag again (R324). -/
def execFlagInterval (id : CmdId) (s : State) : Host.Outcome State Fault Refusal :=
  .next (if s.alive && s.elapsed ((s.cmd id).elim 0 (·.since)) s.flagNs then s.pollFlag id else s)

end Sys2Proof.Machine
end

