-- ==== Sys2Proof/Machine/Almanac.lean ====
section
/-! DEFINITION. The Almanac: seconds, the calendar, wear and derating, the checkpoint journal, supplies, snapshots and
clears of counters (16_almanac_supplies_and_counters.md, R358 to R372, R422 to R424). -/

namespace Sys2Proof.Machine

open Sys2Proof

/-! ## CRC-32C -/

/-- One byte into a reflected CRC-32C (R252, R368). -/
def crcByte (c : W32) (b : Byte) : W32 :=
  (List.range 8).foldl (fun c _ => if c.getLsbD 0 then (c >>> 1) ^^^ 0x82F63B78#32 else c >>> 1) (c ^^^ b.setWidth 32)

/-- CRC-32C over bytes. -/
def crc32c (l : List Byte) : Nat := ((l.foldl crcByte 0xFFFFFFFF#32) ^^^ 0xFFFFFFFF#32).toNat

/-! ## Records, seconds and the calendar -/

/-- An ALMANAC record of a kind with payload bits [95:32] (R371). -/
def State.almRec (s : State) (kind hi : Nat) : State := s.emitEngine 0x48 (kind + hi * 4294967296)

/-- Advance the calendar by n timebase ticks (R361); it stands still until it has been set. -/
def Alm.advance (a : Alm) (n : Nat) : Alm :=
  if a.calValid then
    let t := a.calFrac + n
    { a with calFrac := t % 32768, calSec := (a.calSec + t / 32768) % 2 ^ 64 }
  else a

/-- Copy the life and wear counters with their SAT bits (R366). -/
def Alm.snap (a : Alm) : Alm :=
  { a with lifeSnap := a.life, satSnap := a.sat, wearSnap := a.wear, wearSatSnap := a.wearSat,
           snapCount := (a.snapCount + 1) % 4294967296 }

/-- A pending ALM_TAI write and a pending ALM_SNAP take effect at a tick (R361, R366, R423). -/
def Alm.settle (a : Alm) : Alm :=
  let a := match a.taiPend with
    | some v => { a with calSec := v, calFrac := 0, calValid := true, taiPend := none }
    | none => a
  if a.snapPend then Alm.snap { a with snapPend := false } else a

/-- TIMEBASE_TICK: one tick of the 32.768 kHz timebase (R361). -/
def execTimebaseTick (s : State) : Host.Outcome State Fault Refusal :=
  .next { s with alm := Alm.settle { (s.alm.advance 1) with ticks := min 32768 (s.alm.ticks + 1) } }

/-- ALMANAC_SECOND: the 32,768th tick since the last second. The second counters advance (R360, R361), and a snapshot of this tick has them (R366); the ticks of the
second that were not commanded one by one advance the calendar now (log 13). -/
def execAlmanacSecond (s : State) : Host.Outcome State Fault Refusal :=
  .next (
    let s := { s with alm := { (s.alm.advance (32768 - s.alm.ticks)) with ticks := 0 } }
    let s := s.addLife 0 1
    let s := if s.pins.poreset || s.pins.coreOut then s else s.addLife 1 1
    let s := if s.alm.backup then s.addLife 2 1 else s
    { s with alm := s.alm.settle })

/-- ALM_TAI: a write of the calendar seconds takes effect at the next timebase tick (R361, R423). -/
def execAlmTai (v : W64) (s : State) : Host.Outcome State Fault Refusal :=
  .next (s.cfgWrite fun s => { s with alm := { s.alm with taiPend := some v.toNat } })

/-- ALM_SNAP: a write of 1 to ALM_SNAP.TAKE; the snapshot is taken at the next timebase tick (R366). -/
def execAlmSnap (s : State) : Host.Outcome State Fault Refusal :=
  .next (s.cfgWrite fun s => { s with alm := { s.alm with snapPend := true } })

/-! ## Wear and derating -/

/-- The weight of a temperature in °C (R362). -/
def wearWeight (t : Int) : Nat :=
  if t < 60 then 1 else if t < 70 then 2 else if t < 80 then 4 else if t < 90 then 8 else if t < 100 then 16
  else if t < 110 then 32 else 64

/-- Add to a tile's wear counter, saturating, with one record when it sticks (R362, R371). -/
def State.addWear (s : State) (t n : Nat) : State :=
  let v := s.alm.wear.getD t 0 + n
  let full := 18446744073709551615
  if v < full then { s with alm := { s.alm with wear := setAt s.alm.wear t v } }
  else
    let was := s.alm.wearSat.getD t false
    let s := { s with alm := { s.alm with wear := setAt s.alm.wear t full, wearSat := setAt s.alm.wearSat t true } }
    if was then s else s.almRec 7 (256 + t)

/-- One tile's sample: issuing cycles and the temperature at the end of the sample (R362). -/
def State.wearTile (s : State) (t : Nat) (x : Nat × Int) : State :=
  if s.build.size.tiles ≤ t then s
  else
    let s := { s with tiles := updAt s.tiles t fun u => { u with temp := x.2 } }
    if s.chOn (s.build.size.chanOf t) then s.addWear t (x.1 / 16384 * wearWeight x.2) else s

/-- WEAR_SAMPLE: every 1/1,024 s each tile's wear counter adds its weighted issuing cycles (R362). -/
def execWearSample (l : List (Nat × Int)) (s : State) : Host.Outcome State Fault Refusal :=
  .next ((List.range l.length).foldl (fun s t => s.wearTile t (l.getD t (0, 0))) s)

/-- WEAR_LIFE (R363, R376). -/
def State.wearLife (s : State) : Nat := match s.lgd.inForce with | some l => l.wearLife | none => 0x0001400000000000

/-- The derating step of a wear count (R363). -/
def derateStep (wear life : Nat) : Nat := min 20 (20 * wear / life)

/-- Recompute the derating steps: they never decrease, and a change writes an ALMANAC record (R363). -/
def State.recomputeSteps (s : State) : State :=
  (List.range s.build.size.tiles).foldl (fun s t =>
    let old := s.alm.step.getD t 0
    let new := max old (derateStep (s.alm.wear.getD t 0) s.wearLife)
    if new = old then s
    else State.almRec { s with alm := { s.alm with step := setAt s.alm.step t new } } 6 (t + new * 65536)) s

/-! ## Supplies of the domain -/

/-- TO_BACKUP: VDD_AON falls below 0.70 V and the domain moves to VDD_AON_B (R359). -/
def execToBackup (s : State) : Host.Outcome State Fault Refusal :=
  .next (if s.alm.backup then s else
    let s := State.addLife { s with alm := { s.alm with backup := true } } 10 1
    s.almRec 2 (s.alm.life.getD 0 0))

/-- TO_MAIN: VDD_AON has stayed at 0.72 V for 1 ms and the domain moves back (R359). -/
def execToMain (s : State) : Host.Outcome State Fault Refusal :=
  .next (if s.alm.backup then
    let s := State.addLife { s with alm := { s.alm with backup := false } } 11 1
    s.almRec 3 (s.alm.life.getD 0 0)
    else s)

/-- BACKUP_LOW: VDD_AON_B falls below 0.70 V (R359). -/
def execBackupLow (s : State) : Host.Outcome State Fault Refusal :=
  .next (if s.alm.backupOk then
    State.almRec { s with alm := { s.alm with backupOk := false } } 4 (s.alm.life.getD 0 0)
    else s)

/-- VDD_AON_B_RETURN: VDD_AON_B is back at 0.70 V (R359). -/
def execVddAonBReturn (s : State) : Host.Outcome State Fault Refusal :=
  .next { s with alm := { s.alm with backupOk := true } }

/-- ALMANAC_POR: the domain's own power-on reset, both rails below 0.60 V (R358). -/
def execAlmanacPor (s : State) : Host.Outcome State Fault Refusal :=
  .next { s with alm := { State.reset.alm with backupOk := false } }

/-! ## The checkpoint journal -/

/-- The 4 KiB of a journal slot, its CRC filled in (R368). -/
def State.slotBytes (s : State) (forced : Bool) : List Byte :=
  let a := s.alm
  let head := leBytes 4 0x4E56414C ++ leBytes 4 (1 + s.build.size.code * 256 + s.build.size.tiles * 65536) ++ leBytes 8 a.seq
    ++ leBytes 8 (if a.calValid then a.calSec else 0)
    ++ leBytes 4 ((if a.calValid then 1 else 0) + (if forced then 2 else 0)) ++ List.replicate 32 (0 : Byte)
  let wsat := (List.range 32).flatMap fun i =>
    leBytes 1 ((List.range 8).foldl (fun n j => if a.wearSatSnap.getD (8 * i + j) false then n + 2 ^ j else n) 0)
  let body := (List.range 64).flatMap (fun k => leBytes 8 (a.lifeSnap.getD k 0)) ++ leBytes 8 a.satSnap ++ wsat
    ++ List.replicate 0x198 (0 : Byte)
    ++ (List.range 256).flatMap (fun t => leBytes 8 (if t < s.build.size.tiles then a.wearSnap.getD t 0 else 0))
    ++ List.replicate 0x400 (0 : Byte)
  let crc := crc32c (head ++ List.replicate 4 (0 : Byte) ++ body)
  head ++ leBytes 4 crc ++ body

/-- The checkpoint interval has elapsed: the age is at least I − W (R369). -/
def State.ckptElapsed (s : State) : Bool :=
  match s.lgd.inForce with
  | some l => decide (l.ckptI * 1000000000 - l.ckptW * 1000000 ≤ s.pins.now - s.alm.ageFrom)
  | none => false

/-- Start a checkpoint: a snapshot, the derating steps, and one Footpath write of the slot (R363, R368, R369). -/
def State.startCkpt (s : State) (forced : Bool) : State :=
  match s.lgd.inForce with
  | none => s
  | some l =>
    let s := State.recomputeSteps { s with alm := Alm.snap s.alm }
    State.fpAdd { s with alm := { s.alm with ckpt := some (s.pins.now, forced), failedAt := none } }
      [⟨.checkpoint, false, l.jbase + 4096 * (s.alm.seq % 2), s.slotBytes forced, 4096⟩]

/-- A checkpoint may start: CKPT_ON, no attempt in progress and none waiting for its retry (R369, R370). -/
def State.ckptFree (s : State) : Bool := s.alive && s.alm.ckptOn && s.alm.ckpt.isNone && s.alm.failedAt.isNone

/-- The checkpoint interval I in seconds (R369). -/
def State.ckptI (s : State) : Nat := s.legendOr (·.ckptI) 10

/-- CHECKPOINT_FORCED: the age reaches I − 20 ms (R369). -/
def execCheckpointForced (s : State) : Host.Outcome State Fault Refusal :=
  .next (if s.ckptFree && s.elapsed s.alm.ageFrom (s.ckptI * 1000000000 - 20000000) then s.startCkpt true else s)

/-- CHECKPOINT_RETRY: 100 ms after a failed attempt, with the same SEQ and a fresh snapshot (R370). -/
def execCheckpointRetry (s : State) : Host.Outcome State Fault Refusal :=
  .next (
    match s.alm.failedAt with
    | some (t, forced) => if s.alive && s.alm.ckptOn && s.elapsed t 100000000 then s.startCkpt forced else s
    | none => s)

/-- The response to a checkpoint write (R369, R370). -/
def State.ckptResponse (s : State) (r : FpReq) (bad : Bool) : State :=
  match s.alm.ckpt with
  | none => s
  | some (t, forced) =>
    if bad then
      let s := (s.undefine r.addr 4096).addLife 27 1
      let seq := s.alm.seq
      State.almRec { s with alm := { s.alm with ckpt := none, ckptFailing := true, failedAt := some (s.pins.now, forced) } } 1 seq
    else
      let s := (s.fpWrite r.addr r.data).addLife 26 1
      { s with alm := { s.alm with ckpt := none, ckptFailing := false, failedAt := none, ageFrom := t, completed := true,
                                   seq := (s.alm.seq + 1) % 2 ^ 64 } }

/-! ## The restore (R371) -/

/-- The image held in the ALM_RESTORE window. -/
def Alm.image (a : Alm) : List Byte := a.window.flatMap fun w => leBytes 8 w.toNat

/-- The reason an image is refused, 0 for none: 1 MAGIC, 2 LAYOUT, 3 CRC, 4 CONFIG or TILES (R359, R371). -/
def State.imageError (s : State) (img : List Byte) : Nat :=
  let at_ := fun o n => leNat ((img.drop o).take n)
  if at_ 0 4 ≠ 0x4E56414C then 1
  else if at_ 4 1 ≠ 1 then 2
  else if crc32c (img.take 0x3C ++ List.replicate 4 (0 : Byte) ++ img.drop 0x40) ≠ at_ 0x3C 4 then 3
  else if at_ 5 1 ≠ s.build.size.code || at_ 6 2 ≠ s.build.size.tiles then 4
  else 0

/-- CKPT_ON becomes 1: the age runs from now where no checkpoint has completed, else on from the snapshot of the last one (R369). -/
def Alm.ckptStart (a : Alm) (now : Nat) : Alm := { a with ckptOn := true, ageFrom := if a.completed then a.ageFrom else now }

/-- A restore has been decided: RETAINED is set, and CKPT_ON follows where the ports are enabled (R358, R369). -/
def State.restoreDecided (s : State) (r : RestoreState) : State :=
  let a := { s.alm with restore := r, retained := true }
  { s with alm := if s.alive then a.ckptStart s.pins.now else a }

/-- Sum of two saturating 64-bit counts. -/
def satAdd64 (a b : Nat) : Nat := min 18446744073709551615 (a + b)

/-- The counters that an image's counts carry to their limit: life counters by index, then wear counters as 0x100 + tile; one whose SAT bit
was set before is not among them (R360, R362, R371). DESIGN CHOICE (log 210): their records come in this order. -/
def State.imageSat (s : State) (img : List Byte) : List Nat :=
  let at_ := fun o n => leNat ((img.drop o).take n)
  ((List.range 28).filter fun k => bits s.alm.sat k 1 == 0 && decide (18446744073709551615 ≤ s.alm.life.getD k 0 + at_ (0x40 + 8 * k) 8))
    ++ ((List.range 256).filter fun t =>
      !s.alm.wearSat.getD t false && decide (18446744073709551615 ≤ s.alm.wear.getD t 0 + at_ (0x400 + 8 * t) 8)).map (256 + ·)

/-- Take the counts of an accepted image; each counter that saturates so writes its record (R371). -/
def State.takeImage (s : State) (img : List Byte) : State :=
  let at_ := fun o n => leNat ((img.drop o).take n)
  let full := s.imageSat img
  let sat := (List.range 64).foldl (fun m k =>
    if bits s.alm.sat k 1 = 1 || bits (at_ 0x240 8) k 1 = 1 || full.contains k
    then putBits m k 1 1 else m) 0
  let wsat := (List.range 256).map fun t =>
    s.alm.wearSat.getD t false || bits (at_ (0x248 + t / 8) 1) (t % 8) 1 == 1
      || full.contains (256 + t)
  let s := { s with alm := { s.alm with
    life := (List.range 64).map fun k => if k < 28 then satAdd64 (s.alm.life.getD k 0) (at_ (0x40 + 8 * k) 8) else 0
    wear := (List.range 256).map fun t => satAdd64 (s.alm.wear.getD t 0) (at_ (0x400 + 8 * t) 8)
    sat := sat, wearSat := wsat
    seq := (at_ 8 8 + 1) % 2 ^ 64 } }
  (full.foldl (fun s i => s.almRec 7 i) s).recomputeSteps

/-- RESTORE: a write of ALM_CTL.RESTORE takes effect only while the decision is OPEN (R371, R423); after SYSRESET_N, which leaves the
whole domain unchanged, a decided restore stays decided (R358, log 170). -/
def State.restore (s : State) : State :=
  if s.alm.restore != .open then s
  else
    let img := s.alm.image
    let e := s.imageError img
    if e ≠ 0 then State.almRec { s with alm := { s.alm with restoreErr := e } } 5 e
    else if s.alm.retained then s.restoreDecided .ignored
    else (s.takeImage img).restoreDecided .restored

/-- RESTORE (R371, R423). -/
def execRestore (s : State) : Host.Outcome State Fault Refusal := .next (s.cfgWrite fun s => s.restore)

/-- NO_RESTORE: the next SEQ is 1. -/
def State.noRestore (s : State) : State :=
  if s.alm.restore != .open then s
  else State.restoreDecided { s with alm := { s.alm with seq := 1 } } .none

/-- NO_RESTORE (R371, R423). -/
def execNoRestore (s : State) : Host.Outcome State Fault Refusal := .next (s.cfgWrite fun s => s.noRestore)

/-! ## Snapshots and clears of the other counters -/

/-- A write of STL_SNAP.TAKE. -/
def State.stlSnap (s : State) : State :=
  { s with stl := { s.stl with snap := s.stl.live, snapAt := some s.pins.now, count := (s.stl.count + 1) % 4294967296 } }

/-- STL_SNAP: every stall counter into its snapshot register, and COUNT (R366, R422). -/
def execStlSnap (s : State) : Host.Outcome State Fault Refusal :=
  .next (s.cfgWrite fun s => s.stlSnap)

/-- A cleared performance counter: VALUE keeps the increments of the same cycle (R365). -/
def PerfCtr.clear (c : PerfCtr) (now : Nat) : PerfCtr := ⟨recentOf c.recent now, false, none, c.recent⟩

/-- A write of STL_CLEAR; a snapshot taken in this cycle is of the cleared counters (R366). -/
def State.stlClear (s : State) : State :=
  let l := s.stl.live.map fun l => l.map fun c => c.clear s.pins.now
  { s with stl := { s.stl with live := l, snap := if s.stl.snapAt = some s.pins.now then l else s.stl.snap } }

/-- STL_CLEAR: every stall, BUSY and WORK counter with its WRAP bit (R365). -/
def execStlClear (s : State) : Host.Outcome State Fault Refusal :=
  .next (s.cfgWrite fun s => s.stlClear)

/-- The error counter at a CFG offset (R409). -/
def errAt (o : Nat) : Option ErrId :=
  if o = 0x1018 then some .lockedWrite
  else if o = 0x1020 then some .suppressed
  else if o = 0x1028 then some .specError
  else if 0x5040 ≤ o && o < 0x5090 && o % 8 == 0 then some (.mosDrop ((o - 0x5040) / 8))
  else if o = 0x8018 then some .datReject
  else if 0x10000 ≤ o && o < 0x11000 && o % 64 == 0x30 then some (.evqLost ((o - 0x10000) / 64))
  else if o = 0x11000 then some .headOverrun
  else if o = 0x22130 then some .laSkip
  else if o = 0x120000 then some .badDoorbell
  else none

/-- A write to an error counter register: CLEAR, the W1C bit THR, and THRESHOLD (R365). A THR set in this very cycle stays (R17). Where
the increments of the cycle bring a cleared VALUE to THRESHOLD, that is reported. -/
def State.writeErr (s : State) (i : ErrId) (v : W64) : State :=
  let n := v.toNat
  let c := { s.err i with threshold := bits n 40 24 }
  let c := if bits n 34 1 = 1 then c.clear s.pins.now else if bits n 33 1 = 1 && c.thrAt != some s.pins.now then { c with thr := false } else c
  let s' := s.setErr i c
  if bits n 34 1 = 1 && c.told && (s.err i).thrAt != some s.pins.now then
    s'.emitEngine 0x39 (i.offset + c.value * 4294967296)
  else s'

/-- CLEAR: a write to the error counter at an offset with its CLEAR bit set (R365). -/
def execClear (offset : Nat) (v : W64) (s : State) : Host.Outcome State Fault Refusal :=
  .next (
    match errAt offset with
    | some i => s.cfgWrite fun s => s.writeErr i (v ||| 0x400000000#64)
    | none => s)

end Sys2Proof.Machine
end

