-- ==== Sys2Proof/Machine/Fills.lean ====
section
/-! DEFINITION. Line fills: the limits they keep, look-ahead and its holds, and the demand reads of the engine's units (R219,
R225, R229 to R231, R233, R392). -/

namespace Sys2Proof.Machine

open Sys2Proof

/-! ## Fills (R219, R225, R231, R392) -/

/-- A speculative fill (R225). -/
def FillKind.spec (k : FillKind) : Bool := k != .demand

/-- The port of a line has as many reads outstanding as it may have (R392). -/
def State.portFull (s : State) (l : Nat) : Bool :=
  decide (1024 ≤ (s.feed.fills.filter fun f => f.port == s.portOf l).length)

/-- A fill may be sent: its port and the engine are below their limits (R392), and no write of its bytes is outstanding or waits
(R394). -/
def State.canFill (s : State) (l : Nat) (spec : Bool) : Bool :=
  !s.portFull l && decide (s.feed.fills.length < 16384)
    && (!spec || decide ((s.feed.fills.filter fun f => f.kind.spec).length < 12288))
    && !(s.memq.any fun e => e.line == l) && !s.fpMeets true (l * 256) 256

/-- Send a fill. -/
def State.sendFill (s : State) (l ctx : Nat) (k : FillKind) (ws : List (Nat × Nat)) : State :=
  { s with feed := { s.feed with fills := s.feed.fills ++ [⟨l, s.portOf l, k, ctx, ws, ws.map (·.1), false⟩] } }

/-- A fill-only request has nothing to do: the line is resident, on its way, or outside the map (R223). -/
def State.prefilled (s : State) (l : Nat) : Bool := (s.aline l).isSome || s.filling l || !s.inMap (l * 256) 1

/-- A fill-only request where the limits allow it (R223, R392). -/
def State.prefill (s : State) (l ctx : Nat) (k : FillKind) : State :=
  if s.prefilled l || !s.canFill l true then s else s.sendFill l ctx k []

/-! ## Look-ahead (R229 to R231) -/

/-- Bytes held by look-ahead, fills on their way counted. -/
def State.heldBytes (s : State) : Nat :=
  256 * ((s.feed.atlas.filter fun e => match e.2 with | some x => x.held.isSome | none => false).length
    + (s.feed.fills.filter fun f => match f.kind with | .look _ => true | _ => false).length)

/-- LA_BUDGET in bytes. -/
def State.laBudget (s : State) : Nat := match s.lgd.inForce with | some g => g.laBudget * 1048576 | none => 0

/-- A demand read, or the run-ahead of a stream, waits for a fill that could not be sent: look-ahead has the lower priority
(R230). -/
def State.demandWaits (s : State) : Bool :=
  s.feed.threads.any fun l => l.any fun th =>
    (th.outst.any fun o => !o.2 && (s.aline o.1).isNone && !s.filling o.1)
      || ((th.todo[th.ahead]?).any fun x => decide (th.ahead * 256 < x.dist) && !s.prefilled x.line)

/-- Request the lines of an entry in order until the budget or the outstanding limits are reached; what is left waits. -/
def State.pumpLines (ctx u : Nat) : List Nat → State → State × List Nat
  | [], s => (s, [])
  | l :: ls, s =>
    if (s.aline l).isSome || s.filling l then State.pumpLines ctx u ls s
    else if decide (s.heldBytes + 256 ≤ s.laBudget) && s.canFill l true then State.pumpLines ctx u ls (s.sendFill l ctx (.look u) [])
    else (s, l :: ls)

/-- The live entries of a context's stack, bottom first: those a resolution or a discard can see. -/
def CtxRt.live (r : CtxRt) : List TrvEntry := r.stack.filter fun e => !e.removed

/-- The top 16 frames of a context's stack, topmost first; marks do not count (R164). -/
def State.topFrames (s : State) (ctx : Nat) : List TrvEntry :=
  ((s.rt ctx).live.reverse.filter fun e => !e.mark).take 16

/-- The lines a look-ahead entry covers at the moment it is issued; none where it is skipped (R229, R230). -/
def State.lookEntry (s : State) (ctx e : Nat) : Option (List Nat) :=
  let len := bits e 64 32
  let kind := bits e 52 4
  if bits e 56 8 ≠ 0 || bits e 96 32 ≠ 0 || s.laBudget = 0 then none
  else if kind = 0 then
    if len = 0 || decide (2 ^ 31 < len) || !s.inMap (bits e 0 52) len then none else some (linesOf (bits e 0 52) len)
  else if kind = 1 then ((s.topFrames ctx).find? fun f => f.tag == len).map fun f => linesOf f.addr f.size
  else none

/-- The budget has room for a line (R231). -/
def State.lookRoom (s : State) : Bool := s.laBudget == 0 || decide (s.heldBytes + 256 ≤ s.laBudget)

/-- Issue the entries of a list in order; each skipped one is counted (R230). What waits are the entry in hand's lines and the
entries after it. -/
def State.pumpEntries (ctx u : Nat) : List Nat → State → State × List Nat × List Nat
  | [], s => (s, [], [])
  | e :: es, s =>
    if !s.lookRoom then (s, [], e :: es)
    else match s.lookEntry ctx e with
      | none => State.pumpEntries ctx u es (s.bumpErr .laSkip)
      | some ls =>
        let r := State.pumpLines ctx u ls s
        if r.2.isEmpty then State.pumpEntries ctx u es r.1 else (r.1, r.2, es)

/-- One list goes on. -/
def State.pumpList (s : State) (x : LookList) : State × LookList :=
  let r := State.pumpLines x.ctx x.until_ x.lines s
  if r.2.isEmpty then
    let q := State.pumpEntries x.ctx x.until_ x.entries r.1
    (q.1, { x with lines := q.2.1, entries := q.2.2 })
  else (r.1, { x with lines := r.2 })

/-- Request what the look-ahead lists still wait for, list by list, while no demand read and no run-ahead waits (R230); nothing once
no new request may be issued (R343, R401). -/
def State.pumpLook (s : State) : State :=
  if !s.alive || s.feed.look.isEmpty || s.demandWaits then s
  else
    let r := s.feed.look.foldl (fun (a : State × List LookList) (x : LookList) =>
      let (s', y) := a.1.pumpList x
      (s', if y.lines.isEmpty && y.entries.isEmpty && y.reads.isEmpty then a.2 else a.2 ++ [y])) (s, [])
    { r.1 with feed := { r.1.feed with look := r.2 } }

/-- The pieces a list is read in: no Footpath transfer crosses a 4 KiB boundary (R236). -/
def lookPieces (a n : Nat) : List (Nat × Nat) :=
  let k := min n ((4096 - a % 4096) / 16)
  if k < n then [(a, k), (a + 16 * k, n - k)] else [(a, n)]

/-- A look-ahead list is issued (R229, R230): the Footpath reads it. A list that is not where a list may be is malformed in every
entry. -/
def State.startLook (s : State) (ctx : Nat) (cmd : Option CmdId) (a n : Nat) : State :=
  if n = 0 then s
  else if a % 64 == 0 && s.inMap a (16 * n) then
    let ps := lookPieces a n
    State.fpAdd { s with feed := { s.feed with look := s.feed.look ++ [⟨ctx, cmd, ps, [], [], s.dat.pulses + 2⟩] } }
      (ps.map fun p => ⟨.look ctx p.1, false, p.1, [], 16 * p.2⟩)
  else (List.range n).foldl (fun s _ => s.bumpErr .laSkip) s

/-- A piece of a list has come, or has failed, which is no fault (R225): its entries are issued in their turn. -/
def State.lookRead (s : State) (ctx a : Nat) (bad : Bool) : State :=
  let here := fun (x : LookList) => x.ctx == ctx && x.reads.any fun p => p.1 == a
  match s.feed.look.findIdx? here with
  | none => s
  | some i =>
    let take := fun (x : LookList) =>
      let n := ((x.reads.find? fun p => p.1 == a).map (·.2)).getD 0
      { x with
        reads := x.reads.filter fun p => p.1 != a
        entries := if bad then x.entries else x.entries ++ (List.range n).map fun k => s.memLE (a + 16 * k) 16 }
    let s := { s with feed := { s.feed with look := updAt s.feed.look i take } }
    (if bad then s.bumpErr .specError else s).pumpLook

/-- The holds due at a pulse or at a free period's start end, and what waited for the budget goes on (R231, R298). -/
def State.endHolds (s : State) : State :=
  let n := s.dat.pulses
  State.pumpLook { s with feed := { s.feed with
    atlas := s.feed.atlas.map fun e => (e.1, e.2.map fun x =>
      match x.held with | some u => if u ≤ n then { x with held := none } else x | none => x) } }

/-- Held lines a set may have (R231). -/
def State.setFull (s : State) (l : Nat) : Bool :=
  let lines := s.setLines (s.build.size.bank l) (s.build.size.set l)
  decide (max 1 (s.cacheWays / 2) ≤ (lines.filter fun e => e.2.held.isSome).length)

/-! ## Demand reads (R219, R231, R233) -/

/-- A demand read of a line ends its hold, and a line that an invalidation took after a speculative fill, be it only filtered yet, is a
refetch (R231, R233). -/
def State.demandRead (s : State) (l : Nat) : State :=
  let lost := s.feed.lost.contains l || ((s.aline l).any (·.spec) && s.filtered l)
  let s := match s.aline l with
    | some x => { s with feed := { s.feed with atlas := Tab.set none s.feed.atlas l (some { x with held := none, spec := false }) } }
    | none => s
  if lost then
    let again := if s.feed.refetch.contains l || ((s.aline l).isSome && !s.filtered l) then s.feed.refetch else s.feed.refetch ++ [l]
    State.addPerf { s with feed := { s.feed with lost := s.feed.lost.filter (· != l), refetch := again } } .prefetchLost 1
  else s

/-- A line has come: it is awaited no longer as a refetch. -/
def State.came (s : State) (l : Nat) : State :=
  { s with feed := { s.feed with refetch := s.feed.refetch.filter (· != l) } }

/-- A unit of the engine reads a line to its end: a hit marks its way, a miss fills it; a line a filtered range overlaps comes
from memory and is not installed (R219, R232). -/
def State.readLine (s : State) (l : Nat) : State :=
  let s := s.demandRead l
  if (s.aline l).isSome then s.touchLine l
  else if s.filtered l || !s.inMap (l * 256) 1 then s.came l
  else (s.install l (s.memBytes (l * 256) 256) none false).came l

/-- A unit of the engine reads byte ranges through the Atlas; what waited for the budget of look-ahead goes on (R215, R219,
R231). -/
def State.readBytes (s : State) (rs : List (Nat × Nat)) : State :=
  let ls := rs.foldl (fun ls r => (linesOf r.1 r.2).foldl (fun ls l => if ls.contains l then ls else ls ++ [l]) ls) []
  (ls.foldl State.readLine s).pumpLook

end Sys2Proof.Machine
end

