-- ==== Sys2Proof/Machine/Philox.lean ====
section
/-! DEFINITION. The stochastic-rounding generator, Philox-4×32-10 in two stages (R102 to R106). -/

namespace Sys2Proof

/-- Four 32-bit words of the generator. -/
structure Quad where
  c0 : W32
  c1 : W32
  c2 : W32
  c3 : W32
  deriving DecidableEq, Repr, Inhabited

/-- The two halves, high then low, of the 64-bit product (R102). -/
def mulhilo (a b : W32) : W32 × W32 :=
  let p := a.toNat * b.toNat
  (BitVec.ofNat 32 (p / 4294967296), BitVec.ofNat 32 p)

/-- The rounds of R102, with the key advancing. -/
def philoxGo : Nat → Quad → W32 → W32 → Quad
  | 0, c, _, _ => c
  | n + 1, c, k0, k1 =>
    let (hi0, lo0) := mulhilo 0xD2511F53#32 c.c0
    let (hi1, lo1) := mulhilo 0xCD9E8D57#32 c.c2
    philoxGo n ⟨hi1 ^^^ c.c1 ^^^ k0, lo1, hi0 ^^^ c.c3 ^^^ k1, lo0⟩ (k0 + 0x9E3779B9#32) (k1 + 0xBB67AE85#32)

/-- philox(c, k) of R102. -/
def philox (c : Quad) (k0 k1 : W32) : Quad := philoxGo 10 c k0 k1

/-- The command key, drawn once per command (R102, R103). -/
structure Key where
  k0 : W32
  k1 : W32
  deriving DecidableEq, Repr, Inhabited

/-- command_key of R102. -/
def commandKey (seed round : W64) (pass : Nat) (tag : W32) : Key :=
  let a := philox ⟨round.setWidth 32, (round >>> 32).setWidth 32, tag, BitVec.ofNat 32 pass⟩
    (seed.setWidth 32) ((seed >>> 32).setWidth 32)
  ⟨a.c0, a.c1⟩

/-- draw of R102: the 16-bit value u of one rounding event. -/
def draw (k : Key) (row col kgroup slot group : Nat) : Nat :=
  (philox ⟨BitVec.ofNat 32 row, BitVec.ofNat 32 col, BitVec.ofNat 32 kgroup,
    BitVec.ofNat 32 (slot * 0x10000000 + group)⟩ k.k0 k.k1).c0.toNat % 65536

/-- The reserved kgroup of the join of part p of an engine split (R104, R126). -/
def kgJoin (p : Nat) : Nat := 0xFFFFFF00 + p
/-- The reserved kgroup of the final conversion (R104). -/
def kgFinal : Nat := 0xFFFFFFFE
/-- The reserved kgroup of a drain into an accumulation region (R60, R104). -/
def kgDrain : Nat := 0xFFFFFFFF

end Sys2Proof
end

