-- ==== Sys2Proof/Machine/Operands.lean ====
section
/-! DEFINITION. The operand forms: the command descriptor's fields, the tensor descriptor, how elements, scales and zero
points are addressed, read and written (R91, R130, R131, R144, R310 to R316), frames as operands (R163), accumulation
regions (R57, R319), and the conversion of results into a destination with its survey (R97 to R101, R133 to R146). -/

namespace Sys2Proof.Machine

open Sys2Proof

/-! ## The command descriptor (R310 to R314) -/

/-- A pointer field at a byte offset: its value times 16 (R311). -/
def ptrAt (raw off : Nat) : Nat := bits raw (off * 8) 48 * 16

/-- The opcode of a command (R317). -/
def Cmd.op (c : Cmd) : Nat := bits c.raw 0 8

/-- A field of a command's descriptor at a byte offset and bit. -/
def Cmd.fld (c : Cmd) (off lo w : Nat) : Nat := bits c.raw (off * 8 + lo) w

/-- The pointer of a slot (R310). -/
def Cmd.slotPtr (c : Cmd) (i : Nat) : Nat := ptrAt c.raw (0x16 + 6 * i)

/-- The opcodes of the array and the Spur, 0x01 to 0x08 (R317). -/
def Cmd.isArrayOp (c : Cmd) : Bool := 1 ≤ c.op && c.op ≤ 8

/-- FAIR of the array control area (R312). -/
def Cmd.fair (c : Cmd) : Bool := c.isArrayOp && c.fld 0x41 0 1 == 1
/-- LONG (R57). -/
def Cmd.long (c : Cmd) : Bool := c.isArrayOp && c.fld 0x41 1 1 == 1
/-- FUSE (R175). -/
def Cmd.fuse (c : Cmd) : Bool := c.isArrayOp && c.fld 0x41 2 1 == 1
/-- BUCKETS (R182). -/
def Cmd.buckets (c : Cmd) : Nat := if c.op = 5 || c.op = 6 || c.op = 7 then 0 else c.fld 0x41 4 4
/-- PROBLEMS (R79); GP_GROUPED has no such field (R312). -/
def Cmd.problems (c : Cmd) : Nat := if c.op = 5 then 0 else c.fld 0x4E 0 8
/-- DATAFLOW (R75). -/
def Cmd.dataflow (c : Cmd) : Nat := c.fld 0x40 0 2
/-- ANCHOR_SRC (R118). -/
def Cmd.anchorSrc (c : Cmd) : Nat := c.fld 0x40 2 2
/-- The FIXED anchor (R118). -/
def Cmd.anchor (c : Cmd) : Int := signed 16 (c.fld 0x42 0 16)
/-- FN of a derivative (R171). -/
def Cmd.fn (c : Cmd) : Nat := c.fld 0x40 4 4
/-- ALPHA as an FP32 value. -/
def Cmd.alpha (c : Cmd) : XVal := Fmt.fp32.decode (c.fld 0x44 0 32)

/-- The convolution parameters (R65, R312). -/
structure Conv2 where
  kh : Nat
  kw : Nat
  sh : Nat
  sw : Nat
  dh : Nat
  dw : Nat
  pt : Nat
  pb : Nat
  pl : Nat
  pr : Nat
  deriving DecidableEq, Repr, Inhabited

/-- CONV of a convolution command (R312). -/
def Cmd.conv (c : Cmd) : Conv2 :=
  let f := c.fld 0x68
  ⟨f 0 4 + 1, f 4 4 + 1, f 8 3 + 1, f 11 3 + 1, f 16 3 + 1, f 19 3 + 1, f 24 4, f 28 4, f 32 4, f 36 4⟩

/-- The key of a command's draws (R102, R103). -/
def Cmd.key (c : Cmd) : Key := commandKey c.run.key.seed c.run.key.round c.run.key.pass (BitVec.ofNat 32 c.tag)

/-! ## The tensor descriptor (R315) -/

/-- A tensor descriptor. -/
structure TDesc where
  base : Nat
  fmt : Fmt
  mode : Nat
  sfmt : Nat
  src : Nat
  sptr : Nat
  round : Nat
  ovf : Bool
  sparse : Nat
  frame : Nat
  tier : Nat
  watch : Bool
  shadow : Bool
  ordered : Bool
  zp : Nat
  unit : Nat
  e0 : Nat
  e1 : Nat
  e2 : Nat
  e3 : Nat
  s0 : Nat
  s1 : Nat
  s2 : Nat
  s3 : Nat
  tag : Nat
  /-- The tensor stands for a resolved frame: its rows follow each other without padding (R158, R163). -/
  packed : Bool
  deriving DecidableEq, Repr, Inhabited

/-- The fields of a 512-bit descriptor (R315). -/
def TDesc.ofNat (v : Nat) : TDesc :=
  let b := fun off lo w => bits v (off * 8 + lo) w
  { base := b 0 0 52, fmt := Fmt.ofCode (b 0 52 4), mode := b 0 56 3, sfmt := b 0 59 2, src := b 0 61 2
    sptr := b 8 0 52, round := b 8 52 2, ovf := b 8 54 1 == 1, sparse := b 8 55 2, frame := b 8 57 2, tier := b 8 59 2
    watch := b 8 61 1 == 1, shadow := b 8 62 1 == 1, ordered := b 8 63 1 == 1, zp := b 0x10 0 52, unit := b 0x10 52 2
    e0 := b 0x18 0 32, e1 := b 0x1C 0 32, e2 := b 0x20 0 32, e3 := b 0x24 0 32
    s0 := b 0x28 0 40, s1 := b 0x2D 0 40, s2 := b 0x32 0 40, s3 := b 0x37 0 40, tag := b 0x3C 0 32, packed := false }

/-- The tensor a Traverse frame is (R153, R163). -/
def TDesc.ofFrame (e : TrvEntry) : TDesc :=
  let n := cdiv (e.rows * e.cols * (Fmt.ofCode e.fmt).storeBits) 8
  { base := e.addr + 256, fmt := Fmt.ofCode e.fmt, mode := e.scaleMode, sfmt := e.scaleFmt, src := 2
    sptr := e.addr + 256 + cdiv n 256 * 256, round := 0, ovf := false, sparse := 0, frame := 0, tier := 0, watch := false
    shadow := false, ordered := false, zp := 0, unit := 0, e0 := e.cols, e1 := e.rows, e2 := 1, e3 := 1
    s0 := 0, s1 := 0, s2 := 0, s3 := 0, tag := e.tag, packed := true }

/-- The rounding mode of a destination (R98). -/
def TDesc.rnd (d : TDesc) : Rnd := Rnd.ofCode d.round

/-- The rows of a tensor: dimensions 1 to 3 flattened (R131). -/
def TDesc.rows (d : TDesc) : Nat := if d.sparse = 0 then d.e1 * d.e2 * d.e3 else d.e1

/-- The group length of a scale mode along a row; 0 where none (R130). -/
def TDesc.gcols (d : TDesc) : Nat :=
  match d.mode with
  | 2 | 5 => 32 | 3 => 64 | 4 => 128 | _ => 0

/-- The bit address of an element of eb bits at a flattened row and a column (R91, R316). -/
def TDesc.bitAt (d : TDesc) (eb row col : Nat) : Nat :=
  if d.packed then d.base * 8 + (row * d.e0 + col) * eb
  else
    let i1 := row % d.e1
    let i2 := row / d.e1 % d.e2
    let i3 := row / d.e1 / d.e2
    let t := fun k i s => if d.unit = k then i * eb else i * s * 8
    d.base * 8 + t 0 col d.s0 + t 1 i1 d.s1 + t 2 i2 d.s2 + t 3 i3 d.s3

/-- Bytes of one stored 32×32 block of a sparse operand (R200). -/
def TDesc.blockBytes (d : TDesc) : Nat := 128 * d.fmt.storeBits

/-- The byte length of the element range, for elements of eb bits. -/
def TDesc.spanLen (d : TDesc) (eb : Nat) : Nat :=
  if d.sparse ≠ 0 then d.e2 * d.blockBytes
  else if d.packed then cdiv (d.e0 * d.e1 * eb) 8
  else
    let t := fun k n s => if d.unit = k then 0 else (n - 1) * s
    let u := match d.unit with | 0 => d.e0 | 1 => d.e1 | 2 => d.e2 | _ => d.e3
    t 0 d.e0 d.s0 + t 1 d.e1 d.s1 + t 2 d.e2 d.s2 + t 3 d.e3 d.s3 + cdiv (u * eb) 8

/-- Scales of a tensor's scale array (R131, R205). -/
def TDesc.scaleCount (d : TDesc) : Nat :=
  match d.mode with
  | 0 => 0
  | 1 => d.rows
  | 5 => if d.sparse ≠ 0 then d.e2 else d.e2 * d.e3 * cdiv d.e1 32 * cdiv d.e0 32
  | _ => d.rows * cdiv d.e0 d.gcols

/-- Bytes of one scale (R131). -/
def TDesc.scaleBytes (d : TDesc) : Nat := if d.sfmt = 2 then 4 else 1

/-- The index of an element's scale (R131). -/
def TDesc.scaleIdx (d : TDesc) (row col : Nat) : Nat :=
  match d.mode with
  | 1 => row
  | 5 => (row / d.e1 * cdiv d.e1 32 + row % d.e1 / 32) * cdiv d.e0 32 + col / 32
  | _ => row * cdiv d.e0 d.gcols + col / d.gcols

/-- Zero points of a zero-point tensor (R144). -/
def TDesc.zpCount (d : TDesc) : Nat := if !d.fmt.isZp || d.sparse ≠ 0 then 0 else if d.mode = 1 then d.rows else 1

/-- The scale format's number format (R130). -/
def TDesc.scaleFmt (d : TDesc) : Fmt := match d.sfmt with | 0 => .e8m0 | 1 => .ue4m3 | _ => .fp32

/-- 32×32 blocks of a tensor, as an exponent map has entries (R142); the extents 2 and 3 of a sparse operand count stored
blocks and list entries, not batches (R200). -/
def TDesc.mapCount (d : TDesc) : Nat := cdiv d.e0 32 * cdiv d.e1 32 * (if d.sparse = 0 then d.e2 * d.e3 else 1)

/-! ## Reading elements, scales and zero points -/

/-- The tensor is stored as OCP MX INT8 blocks: INT8 with a group scale, whose elements count 2⁻⁶ each (R92). -/
def TDesc.mxInt (d : TDesc) : Bool := d.fmt == .int8 && 2 ≤ d.mode

/-- The code of an element at a bit address, as a bulk read consumes it (R91). -/
def Bytes.codeAt (m : Bytes) (f : Fmt) (p : Nat) : Nat :=
  let w := f.storeBits
  let v := bits (m.le (p / 8) (cdiv (p % 8 + w) 8)) (p % 8) w
  if f == .fp19 then v / 8192 else v

/-- The code of an element of a dense tensor. -/
def Bytes.elemCode (m : Bytes) (d : TDesc) (row col : Nat) : Nat := m.codeAt d.fmt (d.bitAt d.fmt.storeBits row col)

/-- The address of the scale at an index of a tensor's scale array (R131). -/
def TDesc.scaleAddr (d : TDesc) (i : Nat) : Nat := d.sptr + d.scaleBytes * i

/-- The scale at an index of a tensor's scale array. -/
def Bytes.scaleAt (m : Bytes) (d : TDesc) (i : Nat) : XVal := d.scaleFmt.decode (m.le (d.scaleAddr i) d.scaleBytes)

/-- The address of the zero point of a row (R144). -/
def TDesc.zpAddr (d : TDesc) (row : Nat) : Nat := d.zp + if d.mode = 1 then row else 0

/-- The zero point of a row (R144); 0 for other formats. -/
def Bytes.zpAt (m : Bytes) (d : TDesc) (row : Nat) : Int :=
  match d.fmt with
  | .uint8z => ((m (d.zpAddr row)).toNat : Int)
  | .uint4z => (((m (d.zpAddr row)).toNat % 16 : Nat) : Int)
  | _ => 0

/-- The unscaled value a code of a tensor stands for: q − z in a zero-point format (R97). -/
def Bytes.valueOf (m : Bytes) (d : TDesc) (row code : Nat) : XVal :=
  if d.fmt.isZp then (d.fmt.decode code).sub (.ofInt (m.zpAt d row)) else d.fmt.decode code

/-- The unscaled value of an element of a dense tensor. -/
def Bytes.elemVal (m : Bytes) (d : TDesc) (row col : Nat) : XVal := m.valueOf d row (m.elemCode d row col)

/-- The exact scaled value of an element (R97). An INT8 tensor with a group scale is an OCP MX INT8 block: the stored
integer times 2⁻⁶ times the block scale (R92). -/
def Bytes.scaledVal (m : Bytes) (d : TDesc) (row col : Nat) : XVal :=
  let v := m.elemVal d row col
  if d.mode = 0 then v
  else
    let v := if d.mxInt then v.mul (XVal.pow2 (-6)) else v
    v.mul (m.scaleAt d (d.scaleIdx row col))

/-- The unscaled value of an element as the caches hold it now. -/
def State.elemVal (s : State) (d : TDesc) (row col : Nat) : XVal := s.bulk.elemVal d row col

/-- The exact scaled value of an element as the caches hold it now. -/
def State.scaledVal (s : State) (d : TDesc) (row col : Nat) : XVal := s.bulk.scaledVal d row col

/-- The zero point of a row as the caches hold it now. -/
def State.zpAt (s : State) (d : TDesc) (row : Nat) : Int := s.bulk.zpAt d row

/-- The byte ranges a unit reads of a tensor: elements, scales, zero points. -/
def TDesc.reads (d : TDesc) : List (Nat × Nat) :=
  [(d.base, d.spanLen d.fmt.storeBits)] ++ (if d.mode = 0 then [] else [(d.sptr, d.scaleCount * d.scaleBytes)])
    ++ (if d.zpCount = 0 then [] else [(d.zp, d.zpCount)])

/-! ## Writing elements -/

/-- Put fields of bits, each (bit address, width, value), over the bytes memory holds: the bytes they touch, in order of
address (R91). -/
def State.packBits (s : State) (fs : List (Nat × Nat × Nat)) : List (Nat × Byte) :=
  fs.foldl (fun t f =>
    let (p, w, v) := f
    (span (p / 8) ((p + w - 1) / 8 + 1)).foldl (fun t a =>
      let old := match Tab.get none (t.map fun e => (e.1, some e.2)) a with | some b => b.toNat | none => (s.memByte a).toNat
      let lo := p - a * 8
      let nw := if a * 8 ≤ p then putBits old lo (min w (8 - lo)) v
        else putBits old 0 (min 8 (w - (a * 8 - p))) (v / 2 ^ (a * 8 - p))
      Tab.insert t a (BitVec.ofNat 8 nw)) t) []

/-- The stored bits of an element's code: FP19 sits in bits [31:13] with zeros below, UE4M3 has bit 7 zero (R91). -/
def storedBits (f : Fmt) (code : Nat) : Nat :=
  match f with | .fp19 => code * 8192 | .ue4m3 => code % 128 | _ => code

/-- The field an element of a dense tensor is written as. -/
def TDesc.put (d : TDesc) (row col code : Nat) : Nat × Nat × Nat :=
  (d.bitAt d.fmt.storeBits row col, d.fmt.storeBits, storedBits d.fmt code)

/-! ## Accumulation regions (R57, R319) -/

/-- A region record. -/
structure Region where
  idx : Nat
  base : Nat
  long : Bool
  shadow : Bool
  rstate : Nat
  sel : Nat
  shBase : Nat
  size : Nat
  anchor : Int
  deriving DecidableEq, Repr, Inhabited

/-- The engine's copy of a region record in use; else the record as memory holds it (R319). -/
def State.regionRaw (s : State) (ctx k : Nat) : Nat :=
  match (s.rt ctx).copies.find? fun p => p.1 == k with
  | some p => p.2
  | none => s.memLE (s.regionAddr ctx k) 32

/-- Record k of a context's region table (R319): the driver's fields from the engine's copy while it keeps one, RSTATE and SEL,
which the engine writes, from memory. -/
def State.region (s : State) (ctx k : Nat) : Region :=
  let raw := s.regionRaw ctx k
  let now := s.memLE (s.regionAddr ctx k) 8
  ⟨k, bits raw 0 52, bits raw 52 1 == 1, bits raw 53 1 == 1, bits now 54 2, bits now 56 1, bits raw 64 52,
    bits raw 128 48, signed 16 (bits raw 176 16)⟩

/-- The region of a context that holds every byte of a range; found by address (R319). -/
def State.regionOf (s : State) (ctx a n : Nat) : Option Region :=
  ((List.range (s.ctx ctx).regionCount).map (s.region ctx)).find? fun r =>
    decide (r.base ≤ a) && decide (a + n ≤ r.base + r.size)

/-- TORN, or the reserved state that is treated as TORN (R319). -/
def Region.torn (r : Region) : Bool := r.rstate ≥ 2

/-- An address of the region's first copy in the copy a selector names (R62). -/
def Region.inCopy (r : Region) (sel a : Nat) : Nat := if sel = 0 then a else a - r.base + r.shBase

/-- The copy a drain reads. -/
def Region.readAt (r : Region) (a : Nat) : Nat := if r.shadow then r.inCopy r.sel a else a

/-- The copy a drain writes. -/
def Region.writeAt (r : Region) (a : Nat) : Nat := if r.shadow then r.inCopy (1 - r.sel) a else a

/-! ## Conversion into a destination (R97 to R101, R133 to R146) -/

/-- What names the rounding events of a conversion (R104, R135). -/
structure Draws where
  key : Key
  slot : Nat
  group : Nat
  free : Nat
  deriving DecidableEq, Repr, Inhabited

/-- The draw of a final conversion at a destination element. -/
def Draws.final (k : Draws) (row col : Nat) : Nat := draw k.key row col kgFinal k.slot k.group

/-- Counts a conversion adds: overflow, NaN lost, non-finite elements written (R101, R316). -/
structure Tally where
  ovf : Nat
  lost : Nat
  bad : Nat
  deriving DecidableEq, Repr, Inhabited

/-- The sum of two tallies. -/
def Tally.add (a b : Tally) : Tally := ⟨a.ovf + b.ovf, a.lost + b.lost, a.bad + b.bad⟩

/-- A written code is ±∞ or NaN (R316). -/
def notFinite (f : Fmt) (code : Nat) : Bool :=
  if f.isFloat || f == .e8m0 || f == .ue4m3 then !(f.decode code).isFin else false

/-- Round a positive fraction toward +∞ to a format (R133). -/
def upCode (f : Fmt) (x : XVal) : Nat :=
  match x with
  | .fin _ n d =>
    if n = 0 then 0
    else
      let (q, u) := roundMag .rtz 0 n d f.mbits (1 - f.bias)
      let q := if XVal.lt (XVal.scaled false q u) (.fin false n d) then q + 1 else q
      if f.tooBig q u then f.maxCode else f.encodeMag q u
  | _ => f.maxCode

/-- The least e with x ≤ 2^e, for a positive x. -/
def ceilLog2 (x : XVal) : Int := if x.le (XVal.pow2 x.expo) then x.expo else x.expo + 1

/-- The E8M0 code of 2^e, clamped (R133). -/
def e8m0Code (e : Int) : Nat := if e < -127 then 0 else if 127 < e then 0xFE else (e + 127).toNat

/-- The scale of a surveyed group from its largest magnitude (R133). In an OCP MX INT8 block the constants of INT8 are
counted in units of 2⁻⁶, so that the block reads back as what was written (log 16). -/
def surveyScale (d : TDesc) (amax0 : XVal) : Nat :=
  let amax := if d.mxInt then amax0.mul (XVal.pow2 6) else amax0
  match d.sfmt with
  | 0 => if d.src = 0 then e8m0Code (amax.expo - d.fmt.emax) else e8m0Code (ceilLog2 (amax.div d.fmt.fmax))
  | 1 => max 1 (upCode .ue4m3 (amax.div d.fmt.fmax))
  | _ => max 1 (upCode .fp32 (amax.div d.fmt.fmax))

/-- The scale 1.0 of a scale format (R134). -/
def TDesc.oneScale (d : TDesc) : Nat := match d.sfmt with | 0 => 0x7F | 1 => 0x38 | _ => 0x3F800000

/-- The scale and zero point a survey gives a zero-point group (R146). -/
def zpScale (d : TDesc) (lo hi : XVal) : Nat × Nat :=
  let qmax := XVal.ofInt d.fmt.irange.2
  if lo.isZero && hi.isZero then (d.oneScale, 0)
  else
    let x := (hi.sub lo).div qmax
    let c := match d.sfmt with
      | 0 => e8m0Code (ceilLog2 x)
      | 1 => max 1 (upCode .ue4m3 x)
      | _ => max 1 (upCode .fp32 x)
    let z := (Fmt.int32.convInt .rne 0 0 (lo.neg.div (d.scaleFmt.decode c))).code
    (c, min z d.fmt.irange.2.toNat)

/-- What a group's scale turns out to be: its code, its value, its zero point, and whether the group is one of R134's NaN
groups. -/
structure GroupScale where
  code : Nat
  zp : Nat
  nan : Bool
  write : Bool
  deriving DecidableEq, Repr, Inhabited

/-- Survey one group (R133, R134, R146). -/
def surveyGroup (d : TDesc) (xs : List XVal) : GroupScale :=
  if xs.any fun x => !x.isFin then ⟨d.scaleFmt.nanCode, 0, true, true⟩
  else if d.fmt.isZp then
    let lo := xs.foldl (fun a x => if x.lt a then x else a) XVal.zero
    let hi := xs.foldl (fun a x => if a.lt x then x else a) XVal.zero
    let (c, z) := zpScale d lo hi
    ⟨c, z, false, true⟩
  else
    let amax := xs.foldl (fun a x => XVal.max a x.abs) XVal.zero
    if amax.isZero then ⟨d.oneScale, 0, false, true⟩ else ⟨surveyScale d amax, 0, false, true⟩

/-- Convert one element of a destination for a draw u and a free value (R97 to R101, R146): its code and its counts. -/
def convAt (d : TDesc) (g : GroupScale) (u fr : Nat) (x : XVal) : Nat × Tally :=
  if d.mode = 0 then
    let r := d.fmt.conv d.rnd d.ovf u (g.zp : Int) fr x
    (r.code, ⟨if r.ovf then 1 else 0, if r.nanLost then 1 else 0, if notFinite d.fmt r.code then 1 else 0⟩)
  else if g.nan then
    let r := d.fmt.conv d.rnd d.ovf u 0 fr .nan
    (r.code, ⟨1, if d.fmt.hasNan then 0 else 1, if notFinite d.fmt r.code then 1 else 0⟩)
  else
    let sc := d.scaleFmt.decode g.code
    let q := x.div (if d.mxInt then sc.mul (XVal.pow2 (-6)) else sc)
    let r := d.fmt.conv d.rnd d.ovf u (g.zp : Int) fr q
    let outside := r.ovf || (sc.isZero && !x.isZero && x != .nan)
    (r.code, ⟨if outside then 1 else 0, if r.nanLost then 1 else 0, if notFinite d.fmt r.code then 1 else 0⟩)

/-- Convert one element of a destination with the draw of its final conversion (R104, R135). -/
def convElem (d : TDesc) (g : GroupScale) (k : Draws) (row0 row col : Nat) (x : XVal) : Nat × Tally :=
  convAt d g (k.final (row0 + row) col) (Config.freeNat k.free (row * 4294967296 + col)) x

/-- The result of a store: the fields of bits to write, and the counts. -/
structure Stored where
  fields : List (Nat × Nat × Nat)
  tally : Tally
  deriving DecidableEq, Repr, Inhabited

/-- A destination's scales are given: read from its array before conversion (R136). The switch never touches a sidecar. -/
def TDesc.given (d : TDesc) (switch : Bool) : Bool := d.sfmt != 2 && (switch || d.src == 2)

/-- The scale a group gets: read where given, else surveyed from its elements. The zero points of a destination that no survey
gives them, its mode NONE or its scales GIVEN, are read from its zero-point array, which no rule says (log 138). -/
def State.groupScale (s : State) (d : TDesc) (given : Bool) (idx row : Nat) (xs : List XVal) : GroupScale :=
  if d.mode = 0 then ⟨0, (s.zpAt d row).toNat, false, false⟩
  else if given then
    let c := s.bulkLE (d.sptr + d.scaleBytes * idx) d.scaleBytes
    ⟨c, (s.zpAt d row).toNat, false, false⟩
  else surveyGroup d xs

/-- Convert elements, each (row, column, exact value), that make up whole scale groups, into a destination (R97 to R101,
R133 to R146): scales first, then elements. The draws count rows from row0. -/
def State.convertFrom (s : State) (d : TDesc) (given : Bool) (k : Draws) (row0 : Nat) (xs : List (Nat × Nat × XVal)) : Stored :=
  let idx := fun (x : Nat × Nat × XVal) => if d.mode = 0 then 0 else d.scaleIdx x.1 x.2.1
  let ids := if d.mode = 0 then xs.foldl (fun l x => if l.contains x.1 then l else l ++ [x.1]) []
    else xs.foldl (fun l x => if l.contains (idx x) then l else l ++ [idx x]) []
  ids.foldl (fun acc i =>
    let mem := xs.filter fun x => if d.mode = 0 then x.1 == i else idx x == i
    let row := (mem.head?.map (·.1)).getD 0
    let g := s.groupScale d given i row (mem.map (·.2.2))
    let sc := if g.write then
        (((d.sptr + d.scaleBytes * i) * 8, d.scaleBytes * 8, g.code)
          :: (if d.fmt.isZp then [((d.zp + row) * 8, 8, g.zp)] else []))
      else []
    mem.foldl (fun acc x =>
      let (c, t) := convElem d g k row0 x.1 x.2.1 x.2.2
      ⟨acc.fields ++ [d.put x.1 x.2.1 c], acc.tally.add t⟩) ⟨acc.fields ++ sc, acc.tally⟩) ⟨[], ⟨0, 0, 0⟩⟩

/-- Convert elements of a whole result into a destination. -/
def State.convertAll (s : State) (d : TDesc) (given : Bool) (k : Draws) (xs : List (Nat × Nat × XVal)) : Stored :=
  s.convertFrom d given k 0 xs

/-! ## Operands of a command -/

/-- The frame a slot of a command has resolved to (R164). -/
def State.frameOf (s : State) (c : Cmd) (prob slot : Nat) : Option TrvEntry :=
  match c.frames.find? fun f => f.slot == slot && f.prob == prob with
  | none => none
  | some f => (s.rt c.ctx).stack.find? fun e => e.id == f.entry && !e.mark

/-- The raw descriptor of a slot, of problem prob where the operation is packed (R313). -/
def Cmd.rawSlot (c : Cmd) (prob slot : Nat) : Nat :=
  match c.probs with
  | [] => c.slots.getD slot 0
  | ps => (ps.getD prob (0, [])).2.getD slot 0

/-- A slot names a tensor. -/
def Cmd.has (c : Cmd) (prob slot : Nat) : Bool := c.rawSlot prob slot != 0

/-- A sparse W of GP_DATA is the twin copy in NV2-S1, S4 and M16, whatever its strides, which a sparse operand ignores (R56, R199,
R200); its unit dimension is set to say which of the two it is. -/
def State.twinMark (s : State) (op slot : Nat) (t : TDesc) : TDesc :=
  if op = 2 && slot = 1 && t.sparse != 0 then { t with unit := if s.build.size.projection then 0 else 1 } else t

/-- The tensor of a slot: the frame it names, once resolved, else its descriptor (R163). -/
def State.opd (s : State) (c : Cmd) (prob slot : Nat) : TDesc :=
  match s.frameOf c prob slot with
  | some e => TDesc.ofFrame e
  | none => s.twinMark c.op slot (TDesc.ofNat (c.rawSlot prob slot))

/-- Bits of one element a destination stores: 128 where it takes long values (R57). -/
def TDesc.ebits (d : TDesc) (long : Bool) : Nat := if long then 128 else d.fmt.storeBits

/-- Blocks along the reduction and panels of a sparse operand; red0 says that dimension 0 is the reduction (R199, R200). -/
def TDesc.kb (d : TDesc) (red0 : Bool) : Nat := cdiv (if red0 then d.e0 else d.e1) 32
/-- Panels of a sparse operand (R200). -/
def TDesc.panels (d : TDesc) (red0 : Bool) : Nat := cdiv (if red0 then d.e1 else d.e0) 32
/-- Strips of one panel (R200). -/
def TDesc.strips (d : TDesc) (red0 : Bool) : Nat := cdiv (d.kb red0) 32
/-- Address of the BSL list (R201). -/
def TDesc.listAt (d : TDesc) (red0 : Bool) : Nat := d.zp + 64 * cdiv (d.panels red0 * d.strips red0) 4

/-- The byte ranges of a tensor: elements, scale array, zero points, and a sparse operand's directory and list (R131, R144,
R201). -/
def TDesc.ranges (d : TDesc) (long red0 : Bool) : List (Nat × Nat) :=
  [(d.base, d.spanLen (d.ebits long))]
    ++ (if d.mode = 0 then [] else [(d.sptr, d.scaleCount * d.scaleBytes)])
    ++ (if d.zpCount = 0 then [] else [(d.zp, d.zpCount)])
    ++ (if d.sparse = 0 then [] else [(d.zp, 16 * (d.panels red0 * d.strips red0))])
    ++ (if d.sparse = 2 then [(d.listAt red0, 8 * d.e3)] else [])

/-- A tensor covers a whole region (R62). -/
def Region.coveredBy (r : Region) (t : TDesc) (eb : Nat) : Bool :=
  t.base == r.base && t.spanLen eb == r.size && t.e0 * t.rows * eb == r.size * 8

/-- Two byte ranges overlap. -/
def overlaps (a b : Nat × Nat) : Bool := decide (a.1 < b.1 + b.2) && decide (b.1 < a.1 + a.2) && a.2 != 0 && b.2 != 0

/-- Two-copy operands of the shard update: copy p of a tensor whose dimension 3 holds the two copies (R274). DESIGN CHOICE (log 207): the offset is
the descriptor's STRIDE3 also where UNIT_DIM is 3, whose stride R316 ignores. -/
def TDesc.copyOf (d : TDesc) (p : Nat) : TDesc := { d with base := d.base + p * d.s3, e3 := 1 }

end Sys2Proof.Machine
end

