-- ==== Sys2Proof/Machine/Flags.lean ====
section
/-! DEFINITION. The status bits and counts of a completion record (R101, R115, R119, R279, R316, R328) and the stall
accounting of the tiles and the Spur lanes (R84, R226, R367, R422). -/

namespace Sys2Proof.Machine

open Sys2Proof

/-- Add a conversion's tally to a command's counts (R101, R316): WATCH counts where the destination asks for it. -/
def Counts.tally (k : Counts) (t : Tally) (watch : Bool) : Counts :=
  { k with ovf := k.ovf + t.ovf, nanLost := k.nanLost + t.lost, watch := k.watch || (watch && t.bad != 0) }

/-- Values written to a destination: an infinity or a NaN sets WATCH where the destination asks for it (R316). -/
def Counts.watching (k : Counts) (d : TDesc) (xs : List XVal) : Counts :=
  { k with watch := k.watch || (d.watch && xs.any fun x => !x.isFin) }

/-- The dataflow code of a completion record (R328). -/
def Cmd.dataflowCode (c : Cmd) : Nat :=
  if c.isArrayOp then (if c.run.spur then 3 else if c.op = 1 then 0 else c.run.dataflow) else 0

/-- The payload of a command's completion record (R328); AT_BEARING's is its pass number, which its own meaning forms. -/
def Cmd.payload (c : Cmd) : Nat :=
  let k := c.counts
  (if k.longsum then 1 else 0) + (if k.skipped then 2 else 0) + (if k.watch then 4 else 0)
    + c.dataflowCode % 4 * 256 + c.run.bucket % 8 * 1024 + min k.ovf 16777215 * 65536 + min k.nanLost 65535 * 2 ^ 40
    + (if c.op = 0x12 then min k.nonfinite (2 ^ 40 - 1) else min k.trunc (2 ^ 40 - 1)) * 2 ^ 56

/-- A Fair command in which a counter passed 2²⁴ or an output or region element saturated ends in a LONGSUM fault record in
place of its completion (R122); so does a MOSAIC_STEP with saturated elements (R251). -/
def Cmd.longsumFault (c : Cmd) : Bool :=
  (c.fair && c.counts.longsum) || c.counts.satOut != 0 || c.counts.satRegion != 0

/-- The detail of a LONGSUM record (R339). -/
def Cmd.longsumDetail (c : Cmd) : Nat := min c.counts.satOut 4294967295 + min c.counts.satRegion 4294967295 * 4294967296

/-- Product counters saturate at 2²⁵ − 1 (R115). -/
def cntAdd (a b : Nat) : Nat := min 33554431 (a + b)

/-- The limit of products above which LONGSUM is set (R115, R122). -/
def longsumLimit (fair : Bool) : Nat := if fair then 16777216 else 1048576

/-- The place of each stall cause in a counter set (R422). -/
inductive Stall
  | operandMiss | bankConflict | portBackpressure | bankConvoy | prefetchLost | sheetDrainBlocked | elasticFull
  | feederEmpty | traverseWait | projectionWait | mosaicWait | datumWait | selftestWindow | clockDerate | fenceWait
  | surveyWait
  deriving DecidableEq, Repr, Inhabited

/-- The counter index of a cause (R422). -/
def Stall.idx : Stall → Nat
  | .operandMiss => 0 | .bankConflict => 1 | .portBackpressure => 2 | .bankConvoy => 3 | .prefetchLost => 4
  | .sheetDrainBlocked => 5 | .elasticFull => 6 | .feederEmpty => 7 | .traverseWait => 8 | .projectionWait => 9
  | .mosaicWait => 10 | .datumWait => 11 | .selftestWindow => 12 | .clockDerate => 13 | .fenceWait => 14
  | .surveyWait => 15

/-- Count cycles in a channel's set and in the engine's sum; base 0 for tiles, 8 for Spur lanes (R367, R422). -/
def State.countStall (s : State) (base ch i n : Nat) : State :=
  (s.addPerf (.stall (base + ch) i) n).addPerf (.stall (base + 4) i) n

/-- Work of a channel: busy cycles, and stall cycles each under one cause; WORK is their sum (R84, R367). -/
def State.countWork (s : State) (base ch busy : Nat) (stalls : List (Nat × Nat)) : State :=
  let sum := stalls.foldl (fun n x => n + x.2) 0
  let s := stalls.foldl (fun s x => s.countStall base ch (min x.1 15) x.2) s
  (s.countStall base ch 16 busy).countStall base ch 17 (busy + sum)

/-- The rate class of an input format: 1, 2 or 4 multiply-accumulates per cell and cycle (R20). -/
def rateOf (f : Fmt) : Nat :=
  match f with
  | .bf16 | .fp16 | .fp19 | .fp32 => 1
  | .e5m2 | .e4m3 | .int8 | .uint8z => 2
  | _ => 4

/-- The length of a tile-beat in tile clock cycles (R41). -/
def beatCycles (f g : Fmt) (fair : Bool) : Nat := 32 / min (rateOf f) (rateOf g) * (if fair then 2 else 1)

end Sys2Proof.Machine
end

