-- ==== Sys2Proof/Machine/Trans.lean ====
section
/-! DEFINITION. The correctly rounded exp, φ and Φ of DERIV (R171, R172), by fixed-point series with 448 bits behind the
point. The exact values are transcendental but for exp 0 and Φ 0, so they never lie on a rounding boundary; the series
carry about 300 good bits, far beyond what FP32 needs to round right (log 9). -/

namespace Sys2Proof

/-- Bits behind the point. -/
def fxBits : Nat := 448

/-- One in fixed point. -/
def fxOne : Nat := 2 ^ fxBits

/-- Product in fixed point. -/
def fxMul (a b : Nat) : Nat := a * b / fxOne

/-- Taylor terms of exp: term and sum after the k-th term. -/
def expGo : Nat → Nat → Nat → Nat → Nat → Nat
  | 0, _, _, _, s => s
  | f + 1, k, x, t, s => let t' := fxMul t x / k; expGo f (k + 1) x t' (s + t')

/-- Square n times in fixed point. -/
def sqN : Nat → Nat → Nat
  | 0, x => x
  | n + 1, x => sqN n (fxMul x x)

/-- exp of a fraction n/d from 0 to 128, in fixed point: the Taylor sum at x/2^12, squared 12 times. -/
def expFx (n d : Nat) : Nat :=
  let x := n * fxOne / (d * 4096)
  sqN 12 (expGo 80 1 x fxOne fxOne)

/-- arctan(1/q) in fixed point: fuel, power, place, sign. -/
def atanGo : Nat → Nat → Nat → Nat → Bool → Int → Int
  | 0, _, _, _, _, s => s
  | f + 1, q, p, k, neg, s =>
    let t : Int := p / k
    atanGo f q (p / (q * q)) (k + 2) (!neg) (if neg then s - t else s + t)

/-- π in fixed point, by Machin's formula. -/
def piFx : Nat :=
  (16 * atanGo 110 5 (fxOne / 5) 1 false 0 - 4 * atanGo 50 239 (fxOne / 239) 1 false 0).toNat

/-- √(2π) in fixed point. -/
def sqrt2piFx : Nat := isqrt (2 * piFx * fxOne)

/-- exp of a finite value as a fraction close enough to round (R172). -/
def expX (x : XVal) : XVal :=
  match x with
  | .nan => .nan
  | .inf s => if s then XVal.zero else .inf false
  | .fin s n d =>
    if n = 0 then XVal.one
    else if 120 * d < n then (if s then XVal.pow2 (-300) else XVal.pow2 300)
    else if s then .fin false fxOne (expFx n d) else .fin false (expFx n d) fxOne

/-- The correctly rounded FP32 exp (R172). -/
def fexp (x : XVal) : XVal := r32 (expX x)

/-- The density φ(z) = exp(−z²/2)/√(2π), close enough to round (R171). -/
def phiX (z : XVal) : XVal :=
  match z with
  | .nan => .nan
  | .inf _ => XVal.zero
  | .fin _ n d =>
    if 16 * d < n then XVal.pow2 (-300)
    else .fin false (fxOne * fxOne) (expFx (n * n) (2 * d * d) * sqrt2piFx)

/-- The correctly rounded FP32 density (R172). -/
def fphi (z : XVal) : XVal := r32 (phiX z)

/-- The sum of z^(2k+1)/(2k+1)!!: fuel, the next odd number, z², term, sum. -/
def phiGo : Nat → Nat → Nat → Nat → Nat → Nat
  | 0, _, _, _, s => s
  | f + 1, k, z2, t, s => let t' := fxMul t z2 / k; phiGo f (k + 2) z2 t' (s + t')

/-- Φ(|z|) − 1/2 in fixed point for |z| up to 16: φ(z) times the series. -/
def bigPhiHalf (n d : Nat) : Nat :=
  let z := n * fxOne / d
  let s := phiGo 900 3 (fxMul z z) z z
  s * fxOne / expFx (n * n) (2 * d * d) * fxOne / sqrt2piFx

/-- The standard normal distribution function Φ(z), close enough to round (R171). -/
def bigPhiX (z : XVal) : XVal :=
  match z with
  | .nan => .nan
  | .inf s => if s then XVal.zero else XVal.one
  | .fin s n d =>
    if 16 * d < n then (if s then XVal.pow2 (-300) else XVal.one.sub (XVal.pow2 (-300)))
    else if n = 0 then .fin false 1 2
    else
      let h := bigPhiHalf n d
      if s then .fin false (fxOne / 2 - h) fxOne else .fin false (fxOne / 2 + h) fxOne

/-- The correctly rounded FP32 distribution function (R172). -/
def fbigPhi (z : XVal) : XVal := r32 (bigPhiX z)

end Sys2Proof
end

