-- ==== Sys2Proof/Machine/Products.lean ====
section
/-! DEFINITION. The products of the array and the Spur: how an operand is seen by the cells, block-sparse streams and their
merge (R198 to R208), the Draft, Fair and integer sums (R107 to R123), the Spur's chain (R88), anchors (R118, R143) and the
fused derivatives (R171 to R175). -/

namespace Sys2Proof.Machine

open Sys2Proof

/-! ## Block streams (R200 to R206) -/

/-- The stream of one strip of one panel: (kb, store index); no store index for a dense operand (R203). -/
def Bytes.stripStream (m : Bytes) (d : TDesc) (red0 : Bool) (kbAll p st : Nat) : List (Nat × Option Nat) :=
  let nb := min 32 (kbAll - 32 * st)
  let dense := (List.range nb).map fun j => (32 * st + j, (none : Option Nat))
  if d.sparse = 0 then dense
  else
    let h := d.zp + 16 * (p * d.strips red0 + st)
    let w0 := m.le h 4
    let w1 := m.le (h + 4) 4
    let base := m.le (h + 8) 4
    let len := w1 % 32
    if bits w1 5 1 = 1 then
      if d.e2 = 0 then [] else (List.range nb).map fun j => (32 * st + j, some ((base + j) % d.e2))
    else if d.e2 = 0 then []
    else if d.sparse = 1 then
      let on := ((List.range nb).filter fun j => bits w0 j 1 == 1).take len
      (List.range on.length).map fun i => (32 * st + on.getD i 0, some ((base + i) % d.e2))
    else if d.e3 = 0 then []
    else (List.range len).map fun i =>
      let v := m.le (d.listAt red0 + 8 * ((w0 + i) % d.e3)) 8
      (v % 4294967296, some (v / 4294967296 % d.e2))

/-- The merge of two strips' streams: matched pairs below the actual extent (R206). Each step consumes an entry, so the fuel
of both lengths is enough. -/
def mergeStreams : Nat → Nat → List (Nat × Option Nat) → List (Nat × Option Nat) → List (Nat × Option Nat × Option Nat)
  | 0, _, _, _ => []
  | _, _, [], _ => []
  | _, _, _, [] => []
  | f + 1, lim, a :: as, b :: bs =>
    if a.1 = b.1 then
      (if a.1 < lim then [(a.1, a.2, b.2)] else []) ++ mergeStreams f lim as bs
    else if a.1 < b.1 then mergeStreams f lim as (b :: bs)
    else mergeStreams f lim (a :: as) bs

/-! ## Operands as the cells see them -/

/-- One operand of a product: the tensor, which of its dimensions the reduction runs along, whether its ROW scales run along
the reduction, where the element of an output index and a reduction index lies, none for padding (R66, R67), and the rows of
each batch and the columns that lie inside the actual extents (R185). -/
structure View where
  t : TDesc
  red0 : Bool
  rowRed : Bool
  loc : Nat → Nat → Option (Nat × Nat)
  rows : Nat := t.e1
  cols : Nat := t.e0

/-- The unscaled value of an element, in its stored block where the operand is sparse (R200). -/
def Bytes.viewVal (m : Bytes) (v : View) (slot : Option Nat) (r k : Nat) : XVal :=
  match v.loc r k with
  | none => XVal.zero
  | some (row, col) =>
    match slot with
    | some n =>
      let p := (v.t.base + n * v.t.blockBytes) * 8 + (row % 32 * 32 + col % 32) * v.t.fmt.storeBits
      v.t.fmt.decode (m.codeAt v.t.fmt p)
    | none => m.elemVal v.t row col

/-- The scale of an element's row under ROW; one otherwise. -/
def Bytes.viewRow (m : Bytes) (v : View) (r k : Nat) : XVal :=
  if v.t.mode = 1 then
    match v.loc r k with
    | some (row, _) => m.scaleAt v.t row
    | none => XVal.one
  else XVal.one

/-- The group scale of an element; none where padding has none (R110). -/
def Bytes.viewGroup (m : Bytes) (v : View) (slot : Option Nat) (r k : Nat) : Option XVal :=
  if v.t.mode < 2 then some XVal.one
  else
    match v.loc r k with
    | none => none
    | some (row, col) =>
      match slot with
      | some n => some (m.scaleAt v.t n)
      | none => some (m.scaleAt v.t (v.t.scaleIdx row col))

/-- The element a cell multiplies: with its ROW scale where rows run along the reduction (R49, R107). -/
def Bytes.viewCell (m : Bytes) (v : View) (slot : Option Nat) (r k : Nat) : XVal :=
  if v.rowRed then (m.viewVal v slot r k).mul (m.viewRow v r k) else m.viewVal v slot r k

/-- The exact scaled element, as the Spur and a survey take it (R88, R97). -/
def Bytes.viewScaled (m : Bytes) (v : View) (slot : Option Nat) (r k : Nat) : XVal :=
  let x := (m.viewVal v slot r k).mul (m.viewRow v r k)
  match m.viewGroup v slot r k with
  | some g => x.mul g
  | none => x

/-! ## One product of an operation -/

/-- Where the results of a product go. -/
inductive ProdDest
  /-- A plain tensor, converted (R112, R123). -/
  | plain (t : TDesc)
  /-- A plain tensor of raw long values (R123). -/
  | raw (t : TDesc)
  /-- An accumulation region, by its index (R57). -/
  | region (t : TDesc) (idx : Nat)
  /-- The merge slab of a GP_GROUPED (R193). -/
  | slab
  deriving DecidableEq, Repr, Inhabited

/-- One product C = A·B of an operation with its place on the array (R74, R79, R81). -/
structure Prod where
  /-- Actual extents. -/
  mo : Nat
  no : Nat
  kr : Nat
  /-- Extents it runs at. -/
  emo : Nat
  eno : Nat
  ekr : Nat
  a : View
  b : View
  /-- Group length (R108). -/
  len : Nat
  fair : Bool
  int : Bool
  /-- SR16 slot and group (R104). -/
  slot : Nat
  group : Nat
  /-- The row of the whole result an output row is. -/
  rowOf : Nat → Nat
  dst : ProdDest
  /-- Exponent maps of the two operands; 0 where none is named (R143). -/
  mapA : Nat
  mapB : Nat
  /-- Dataflow: 0 OS, 1 WS, 2 IS, 3 the d-beats of GP_PAIR. -/
  df : Nat
  /-- Rectangle in tiles: row, column, height, width. -/
  rr : Nat
  rc : Nat
  rh : Nat
  rw : Nat
  /-- Tile shape (R176). -/
  rt : Nat
  ct : Nat
  /-- Which of the successive operations of a CONV_DATA it belongs to (R81). -/
  round : Nat := 0
  /-- The SAVED operand of a fused derivative (R175). -/
  saved : Option TDesc

/-- The product drains into a region: it is a weight gradient of GP_PAIR or GP_GROUPED, whose dX goes elsewhere. -/
def Prod.intoRegion (p : Prod) : Bool := match p.dst with | .region _ _ => true | _ => false

/-- The output row scale (R49): ROW scales of operands whose rows are output rows. -/
def Bytes.outScale (m : Bytes) (p : Prod) (r : Nat) : XVal :=
  if p.a.rowRed then XVal.one else m.viewRow p.a r 0

/-! ## Accumulation (R107 to R123) -/

/-- The largest and smallest long values, the saturation markers (R116). -/
def longMax : Int := 2 ^ 127 - 1
/-- The negative marker. -/
def longMin : Int := -(2 ^ 127)

/-- A long value is a marker. -/
def isMarker (v : Int) : Bool := v == longMax || v == longMin

/-- Long addition (R121): the value being added to keeps its marker, an addend's marker is absorbing, sums saturate. -/
def longAdd (a b : Int) : Int :=
  if isMarker a then a else if isMarker b then b else max longMin (min longMax (a + b))

/-- The value of a long value under its anchor (R116). -/
def longVal (v anchor : Int) : XVal := (XVal.ofInt v).mul (XVal.pow2 (anchor - 100))

/-- Two exact values are the same number. -/
def sameVal (a b : XVal) : Bool :=
  match a, b with
  | .nan, .nan => true
  | .nan, _ => false
  | _, .nan => false
  | a, b => !a.lt b && !b.lt a

/-- The sum of the group register in units of 2^(g−39), and g − 39 (R109): products truncated and added exactly; none where
every product is zero. -/
def groupUnits (ps : List (XVal × Int)) : Option (Int × Int) :=
  match (ps.filter fun p => !p.1.isZero).map fun p => p.2 + 1 with
  | [] => none
  | e :: t =>
    let g := t.foldl max e
    some (ps.foldl (fun n p => n + p.1.truncUnits (g - 39)) 0, g - 39)

/-- The value of the group register (R109, R94): non-finite products by IEEE 754. -/
def groupSum (ps : List (XVal × Int)) : XVal :=
  if ps.any fun p => !p.1.isFin then ps.foldl (fun a p => a.add p.1) XVal.zero
  else match groupUnits ps with
    | none => XVal.zero
    | some (n, u) => if n = 0 then XVal.zero else (XVal.ofInt n).mul (XVal.pow2 u)

/-- The sum of finite products lies in the 48-bit register. Up to 128 products always do; metadata that breaks R203 can put
more into one group (R207, R214), and what the register then holds no rule states (log 139). -/
def groupFits (ps : List (XVal × Int)) : Bool :=
  (ps.any fun p => !p.1.isFin) ||
  match groupUnits ps with
  | none => true
  | some (n, _) => decide (-(2 ^ 47) ≤ n) && decide (n < 2 ^ 47)

/-- The draws of a command's sums. -/
structure SumKey where
  key : Key
  slot : Nat
  group : Nat
  deriving DecidableEq, Repr, Inhabited

/-- The distinct values of a list, in order of first appearance. -/
def distinctVals (l : List XVal) : List XVal := l.foldl (fun acc g => if acc.any (sameVal g) then acc else acc ++ [g]) []

/-- The free value of a group whose value no rule states: a function of its products, their scales and its place, so that a
rerun on the same inputs gives the same bits (R128, R214). -/
def Acc.freeGroup (a : Acc) (row col : Nat) : XVal :=
  Fmt.fp32.decode (Config.groupValue ([row, col, a.gord] ++ (a.opn.flatMap fun p => p.1.nums ++ [unsigned 32 p.2])
    ++ a.gsc.flatMap XVal.nums) % 4294967296)

/-- The value v_j of the open group (R110): the register times the group scales. Products of one group that carry different
scales have no stated value while they are finite (log 15): a NaN scale or a NaN still makes it NaN, an infinity keeps its
sign under scales that are not zero (R94, R95), and a group whose products are all zero is +0 (R109). -/
def Acc.groupVal (a : Acc) (row col : Nat) : XVal :=
  if !groupFits a.opn then (if a.gsc.contains .nan then .nan else a.freeGroup row col)
  else
    let v := groupSum a.opn
    match distinctVals a.gsc with
    | [] => v
    | [g] => v.mul g
    | gs =>
      if v == .nan || gs.contains .nan then .nan
      else if !v.isFin && gs.all (fun g => !g.isZero) then v
      else if a.opn.all (fun p => p.1.isZero) then XVal.zero
      else a.freeGroup row col

/-- Add a group value, or each of several in ascending order, to a running sum with SR16 (R111). -/
def addGroups (k : SumKey) (row col : Nat) (run : XVal) (vs : List (Nat × XVal)) : XVal :=
  vs.foldl (fun r v => sr32 (draw k.key row col v.1 k.slot k.group) (r.add v.2)) run

/-- Close the open group of a Draft output: its value is formed (R110). -/
def Acc.form (a : Acc) (row col : Nat) : Acc :=
  if a.opn.isEmpty then a else { a with opn := [], gsc := [], vals := a.vals ++ [(a.gord, a.groupVal row col)] }

/-- Add the group values formed to the running sum, in ascending order (R111). -/
def Acc.gather (a : Acc) (k : SumKey) (row col : Nat) : Acc :=
  { a with vals := [], run := addGroups k row col a.run a.vals }

/-- Close the open group of a Draft sheet output: its value joins the running sum (R110, R111). -/
def Acc.close (a : Acc) (k : SumKey) (row col : Nat) : Acc :=
  if a.opn.isEmpty then a else (a.form row col).gather k row col

/-! ## The sum-check lane (R336, R337) -/

/-- The residue modulo 8,191 of the difference of two FP32 sums, in units of 2^-149. DESIGN CHOICE (log 124): one between a finite and a
non-finite sum, or two non-finite ones, counts as 1. -/
def sumDev (old new : XVal) : Int :=
  if sameVal old new then 0
  else if old.isFin && new.isFin then (new.truncUnits (-149) - old.truncUnits (-149)) % 8191 else 1

/-- An erroneous addition into an output: the long or integer sum, the group register or the Draft running sum is off by d units, and so
is what the lane will compare (R337). The running sum is off by units of its FP32 code; a group value that awaits its row partial by
units of 2^-149. -/
def Acc.upset (a : Acc) (fair int : Bool) (x : Upset) : Acc :=
  let off := fun (n : Int) => (a.dev + n) % 8191
  if fair || int then
    let w := if fair then 128 else 32
    let v := signed w (unsigned w (a.long + x.d))
    { a with long := v, dev := off (v - a.long) }
  else if !x.sum then
    let u := match groupUnits a.opn with | some (_, u) => u | none => -39
    { a with opn := a.opn ++ [((XVal.ofInt x.d).mul (XVal.pow2 u), u + 38)], dev := off x.d }
  else match a.vals.getLast? with
    | some (j, v) => { a with vals := a.vals.dropLast ++ [(j, v.add ((XVal.ofInt x.d).mul (XVal.pow2 (-149))))], dev := off x.d }
    | none =>
      let r := Fmt.fp32.decode (unsigned 32 (fp32Code a.run + x.d))
      { a with run := r, dev := off (sumDev a.run r) }

/-- The outputs of a block after a beat that an upset met. -/
def upsetAt (accs : List Acc) (fair int : Bool) (x : Option Upset) : List Acc :=
  match x with
  | some x => updAt accs x.out fun a => a.upset fair int x
  | none => accs

/-- What the lane finds at a comparison: the first output, among those that are due, whose residue differs (R337). -/
def laneFinds (accs : List Acc) (due : Nat → Bool) : Option Nat :=
  (List.range accs.length).find? fun i => due i && decide ((accs.getD i Acc.zero).dev ≠ 0)

/-- The outputs the lane compares after a beat: all of them after the last beat, before the sheet leaves FULL or the partial leaves the
tile; else those that have received another 65,536 products (R336, R337). -/
def laneDue (before after : List Acc) (last : Bool) (i : Nat) : Bool :=
  last || decide ((before.getD i Acc.zero).cnt / 65536 < (after.getD i Acc.zero).cnt / 65536)

/-- What stops a Fair command at a product (R95, R120). -/
inductive ArithErr
  | nonfinite (k row col : Nat)
  | window (k row col : Nat) (e : Int)
  deriving DecidableEq, Repr, Inhabited

/-- The reduction index an error was met at. -/
def ArithErr.at_ : ArithErr → Nat
  | .nonfinite k _ _ => k
  | .window k _ _ _ => k

/-- The cause of the abort (R339). -/
def ArithErr.cause : ArithErr → Cause
  | .nonfinite _ r c => Cause.own 0x0301 (r % 4294967296 + c % 4294967296 * 4294967296)
  | .window _ r c e => Cause.own 0x0302 (r % 16777216 + c % 16777216 * 16777216 + unsigned 16 e * 281474976710656)

/-- Add one product to a Fair sum (R117 to R121). -/
def Acc.fair (a : Acc) (anchor : Int) (p : XVal) : Acc :=
  let t := p.truncUnits (anchor - 100)
  let v := longAdd a.long t
  { a with long := v, sat := a.sat || isMarker v, trunc := if p.truncLoses (anchor - 100) then a.trunc + 1 else a.trunc }

/-- Add one product to an INT32 sum, saturating (R113). -/
def Acc.int (a : Acc) (p : XVal) : Acc :=
  let v := a.long + (p.truncUnits 0)
  if v < -2147483648 then { a with long := -2147483648, sat := true }
  else if 2147483647 < v then { a with long := 2147483647, sat := true }
  else { a with long := v }

/-- Add one reduction step of an output to its accumulator: the product of a Fair sum is checked first (R95, R120). -/
def Bytes.accStep (m : Bytes) (p : Prod) (anchor : Int) (r c k : Nat) (sa sb : Option Nat) (a : Acc) :
    Acc × Option ArithErr :=
  let x := m.viewCell p.a sa r k
  let y := m.viewCell p.b sb c k
  let gx := m.viewGroup p.a sa r k
  let gy := m.viewGroup p.b sb c k
  if p.int then (a.int (x.mul y), none)
  else if p.fair then
    let gs := (gx.getD XVal.one).mul (gy.getD XVal.one)
    if !x.isFin || !y.isFin || gs == .nan || m.outScale p r == .nan then (a, some (.nonfinite k (p.rowOf r) c))
    else
      let q := (x.mul y).mul gs
      if !q.isZero && anchor + 3 ≤ q.expo then (a, some (.window k (p.rowOf r) c q.expo)) else (a.fair anchor q, none)
  else
    let gsc := match gx, gy with
      | some g, some h => a.gsc ++ [g.mul h]
      | _, _ => a.gsc
    ({ a with opn := a.opn ++ [(x.mul y, x.expo + y.expo)], gsc := gsc }, none)

/-- Add a tile-beat to one output: up to 32 reduction steps of one block pair (R41, R207). A group that a later one follows is
formed; gather says that its value joins the running sum at once, as in a sheet. -/
def Bytes.accBeat (m : Bytes) (p : Prod) (k : SumKey) (gather : Bool) (anchor : Int) (r c : Nat)
    (b : Nat × Option Nat × Option Nat) (a : Acc) : Acc × Option ArithErr :=
  let ks := (List.range 32).map (fun i => 32 * b.1 + i) |>.filter fun i => decide (i < p.kr)
  let j := 32 * b.1 / p.len
  let a := if !p.fair && !p.int && !a.opn.isEmpty && decide (a.gord < j) then
      (if gather then a.close k (p.rowOf r) c else a.form (p.rowOf r) c) else a
  let a := if a.opn.isEmpty then { a with gord := j } else a
  ks.foldl (fun (x : Acc × Option ArithErr) i =>
    match x.2 with
    | some _ => x
    | none =>
      let (a, e) := m.accStep p anchor r c i b.2.1 b.2.2 x.1
      ({ a with cnt := cntAdd a.cnt 1 }, e)) (a, none)

/-- The end of a sum: the last open group closes. -/
def Acc.finish (a : Acc) (p : Prod) (k : SumKey) (r c : Nat) : Acc :=
  if p.fair || p.int then a else a.close k (p.rowOf r) c

/-- A tile adds its contribution to the partial that arrives (R45, R111): its groups one by one in Draft, its long sum under
Fair (R121), its integer sum otherwise. -/
def Acc.addPart (arr own : Acc) (p : Prod) (k : SumKey) (r c : Nat) : Acc :=
  let own := if p.fair || p.int then own else own.form (p.rowOf r) c
  let v := arr.long + own.long
  { arr with
    run := addGroups k (p.rowOf r) c arr.run own.vals
    long := if p.int then max (-2147483648) (min 2147483647 v) else if p.fair then longAdd arr.long own.long else 0
    sat := arr.sat || own.sat || (p.fair && isMarker (longAdd arr.long own.long))
      || (p.int && decide (v < -2147483648 ∨ 2147483647 < v))
    cnt := cntAdd arr.cnt own.cnt, trunc := arr.trunc + own.trunc }

/-- Join the parts of an engine split in ascending order from +0 (R126). -/
def joinParts (p : Prod) (k : SumKey) (r c : Nat) (parts : List Acc) : Acc :=
  match parts with
  | [a] => a
  | ps =>
    let st := ps.foldl (fun (x : Acc × Nat) a =>
      let n := { x.1 with
        run := if p.fair || p.int then x.1.run
          else sr32 (draw k.key (p.rowOf r) c (kgJoin x.2) k.slot k.group) (x.1.run.add a.run)
        long := if p.int then max (-2147483648) (min 2147483647 (x.1.long + a.long)) else longAdd x.1.long a.long
        sat := x.1.sat || a.sat || (p.fair && isMarker (longAdd x.1.long a.long))
          || (p.int && decide (x.1.long + a.long < -2147483648 ∨ 2147483647 < x.1.long + a.long))
        cnt := cntAdd x.1.cnt a.cnt, trunc := x.1.trunc + a.trunc }
      (n, x.2 + 1)) (Acc.zero, 0)
    st.1

/-- One output of an array operation before it is stored: its row and column in the whole result, its value after the output
row scale, and its long value with its anchor (R112, R123). -/
structure OutVal where
  row : Nat
  col : Nat
  val : XVal
  long : Int
  anchor : Int
  /-- The row scale it left with (R49). -/
  scale : XVal
  sat : Bool
  cnt : Nat
  trunc : Nat
  deriving DecidableEq, Repr, Inhabited

/-- The value of a finished accumulator (R112, R113, R123). With no reduction it is +0, whatever its row scale (R186). -/
def Bytes.outVal (m : Bytes) (p : Prod) (anchor : Int) (r c : Nat) (a : Acc) : OutVal :=
  let sc := if p.kr = 0 then XVal.one else m.outScale p r
  let v := if p.int then XVal.ofInt a.long else if p.fair then (if a.sat then .nan else longVal a.long anchor) else a.run
  ⟨p.rowOf r, c, v.mul sc, a.long, anchor, sc, a.sat, a.cnt, a.trunc⟩

/-- A long value scaled by an output row's power of two and truncated toward zero, magnitude first (R123): the value and
whether truncation changed it. -/
def longScaled (v : Int) (sc : XVal) : Int × Bool :=
  if isMarker v then (v, false)
  else
    let x := (XVal.ofInt v).mul sc
    (max longMin (min longMax (x.truncUnits 0)), x.truncLoses 0)

/-! ## The Spur (R87, R88) -/

/-- A Spur output: a chain of FP32 fused multiply-adds with RNE from zero, in ascending reduction index. -/
def Bytes.spurVal (m : Bytes) (p : Prod) (r c : Nat) : XVal :=
  (List.range p.kr).foldl (fun v k => ffma (m.viewScaled p.a none r k) (m.viewScaled p.b none c k) v) XVal.zero

/-! ## Anchors (R118, R143) -/

/-- The larger of two optional exponents. -/
def optMax (a b : Option Int) : Option Int :=
  match a, b with
  | none, b => b
  | a, none => a
  | some x, some y => some (max x y)

/-- One entry of an exponent map; none where it takes no part (R143). -/
def mapEntry (v : Nat) : Option Int := if v = 0x8000 || v = 0x7FFF then none else some (signed 16 v)

/-- The entry of an exponent map from the values of its block (R142). -/
def mapOf (xs : List XVal) : Nat :=
  if xs.any fun x => !x.isFin then 0x7FFF
  else
    match (xs.filter fun x => !x.isZero).map XVal.expo with
    | [] => 0x8000
    | e :: es => unsigned 16 (es.foldl max e)

/-- The index of the map entry that covers an element (R142). -/
def TDesc.mapIdx (d : TDesc) (row col : Nat) : Nat :=
  (row / d.e1 * cdiv d.e1 32 + row % d.e1 / 32) * cdiv d.e0 32 + col / 32

/-- The entry a fused anchor survey forms for a block of a dense operand (R142, R143): over its elements inside the actual
extents (R185). -/
def Bytes.mapAt (m : Bytes) (v : View) (i : Nat) : Nat :=
  let kb := cdiv v.t.e0 32
  let rb := cdiv v.t.e1 32
  let b := i / kb / rb
  let r0 := i / kb % rb * 32
  let c0 := i % kb * 32
  mapOf ((span r0 (min (r0 + 32) v.rows)).flatMap fun r =>
    (span c0 (min (c0 + 32) v.cols)).map fun c => m.scaledVal v.t (b * v.t.e1 + r) c)

/-- The entries of a map that an operand covers over a block: each once. -/
def View.entries (v : View) (rs ks : List Nat) : List Nat :=
  rs.foldl (fun l r => ks.foldl (fun l k =>
    match v.loc r k with
    | none => l
    | some (row, col) => let i := v.t.mapIdx row col; if l.contains i then l else l ++ [i]) l) []

/-- The maximum of an operand over a block: from its named map, else from the entries a fused survey forms (R143). A sparse
operand's entries are its stored blocks, of which only those that take part in a beat count (R208). -/
def Bytes.operandMax (m : Bytes) (v : View) (mapPtr : Nat) (rs ks : List Nat) (slots : Nat → Nat → List (Option Nat)) :
    Option Int :=
  if mapPtr ≠ 0 then (v.entries rs ks).foldl (fun x i => optMax x (mapEntry (m.le (mapPtr + 2 * i) 2))) none
  else if v.t.sparse = 0 && rs.all (fun r => ks.all fun k => (slots r (k / 32)).contains none) then
    (v.entries rs ks).foldl (fun x i => optMax x (mapEntry (m.mapAt v i))) none
  else
    let panels := rs.foldl (fun (l : List Nat) r => if l.contains (r / 32) then l else l ++ [r / 32]) []
    let kbs := ks.foldl (fun (l : List Nat) k => if l.contains (k / 32) then l else l ++ [k / 32]) []
    panels.foldl (fun x p => kbs.foldl (fun x kb => (slots (p * 32) kb).foldl (fun x sl =>
      optMax x (mapEntry (mapOf ((rs.filter fun r => r / 32 == p).flatMap fun r =>
        (ks.filter fun k => k / 32 == kb).map fun k => m.viewScaled v sl r k)))) x) x) none

/-! ## Derivatives (R171 to R173) -/

/-- The factor f of a function (R171), each step one FP32 operation with RNE; comparisons with NaN are false. -/
def derivFactor (fn : Nat) (alpha y : XVal) : XVal :=
  match fn with
  | 0 => if XVal.zero.lt y then XVal.one else XVal.zero
  | 1 => if XVal.zero.lt y then XVal.one else alpha
  | 2 => fmul y (fsub XVal.one y)
  | 3 => ffma y.neg y XVal.one
  | 4 => if y.lt XVal.zero then fadd y alpha else XVal.one
  | 5 => fsub XVal.one (fexp y.neg)
  | 8 => ffma y (fphi y) (fbigPhi y)
  | 9 =>
    let e := fexp y.neg
    let sg := fdiv XVal.one (fadd XVal.one e)
    fmul sg (ffma y (fsub XVal.one sg) XVal.one)
  | _ => XVal.one

/-- An exact zero is +0 (R96, R172). -/
def plusZero (x : XVal) : XVal := if x.isZero then XVal.zero else x

/-- The derivative of one row (R172, R173): g the gradients, y the saved operands (z for the functions 8 and 9). -/
def derivRow (fn : Nat) (alpha : XVal) (g y : List XVal) : List XVal :=
  if fn = 6 then
    let sm := (List.zip y g).foldl (fun a x => ffma x.1 x.2 a) XVal.zero
    (List.zip y g).map fun x => plusZero (x.1.mul (fsub x.2 sm))
  else (List.zip y g).map fun x => plusZero (x.2.mul (derivFactor fn alpha x.1))

end Sys2Proof.Machine
end

