-- ==== Sys2Proof/Machine/Tiling.lean ====
section
/-! DEFINITION. How a command is cut up: dataflow and tile shape (R74 to R78, R176 to R178), the problems of packed and
convolution operations (R66, R67, R79 to R81), the groups of GP_GROUPED (R188 to R196), output blocks in visiting order
(R39, R53, R76), and the tail-steal (R210 to R212). -/

namespace Sys2Proof.Machine

open Sys2Proof

/-! ## Dataflow and shape -/

/-- The stationary or streamed W of the gradient opcodes is transposed unless its unit stride runs along K, dimension 1 of
the logical K × N tensor (R36). -/
def TDesc.wTransposed (d : TDesc) : Bool := d.unit != 1

/-- The dataflows an opcode accepts, OS 0, WS 1, IS 2, in the order of R78 (R75, R199). -/
def acceptedFlows (op : Nat) (toRegion sparse : Bool) : List Nat :=
  if sparse then [0]
  else match op with
    | 2 | 6 => [0, 1]
    | 4 => if toRegion then [0] else [0, 1, 2]
    | 3 | 5 | 7 => [0]
    | _ => []

/-- The legal tile shapes (R40, R176, R177): kind 0 OS, 1 WS, 2 IS, 3 GP_PAIR; ba, bb and bw are stored bits per element of
the operands A and B (X and dY in GP_PAIR) and of W. -/
def legalShape (kind : Nat) (fair : Bool) (rt ct ba bb bw : Nat) : Bool :=
  let lim := if fair then 4096 else 16384
  let full := 262144
  decide (32 ≤ rt ∧ rt ≤ 512 ∧ rt % 32 = 0 ∧ 32 ≤ ct ∧ ct ≤ 512 ∧ ct % 32 = 0) &&
  match kind with
  | 0 => decide (rt * ct ≤ lim) && decide (rt * 32 * ba ≤ full) && decide (64 * ct * bb ≤ full)
  | 1 => decide (ct * rt * bb ≤ full) && decide (64 * ct * ba ≤ full) && (!fair || decide (rt ≤ 128))
  | 2 => decide (rt * ct * ba ≤ full) && decide (64 * ct * bb ≤ full) && (!fair || decide (rt ≤ 128))
  | _ => decide (rt * ct ≤ lim) && decide (rt * ct * bw ≤ full) && decide (64 * (rt * ba + ct * bb) ≤ full)

/-- The sort key of a shape: padded area, slabs, and the larger r_t first (R178). -/
def shapeKey (er ec h w rt ct : Nat) : Nat × Nat × Nat :=
  let nr := cdiv er (h * rt)
  let nc := cdiv ec (w * ct)
  (nr * h * rt * (nc * w * ct), nr * nc, 512 - rt)

/-- The key order of R178. -/
def keyLt (a b : Nat × Nat × Nat) : Bool :=
  decide (a.1 < b.1) || (a.1 == b.1 && (decide (a.2.1 < b.2.1) || (a.2.1 == b.2.1 && decide (a.2.2 < b.2.2))))

/-- The tile shape the engine chooses (R178); none where no shape is legal. -/
def chooseShape (kind : Nat) (fair : Bool) (er ec h w ba bb bw : Nat) : Option (Nat × Nat) :=
  let cand := (List.range 16).flatMap fun i => (List.range 16).map fun j => (32 * (i + 1), 32 * (j + 1))
  (cand.filter fun x => legalShape kind fair x.1 x.2 ba bb bw).foldl (fun best x =>
    match best with
    | none => some x
    | some y => if keyLt (shapeKey er ec h w x.1 x.2) (shapeKey er ec h w y.1 y.2) then some x else some y) none

/-- The dataflow AUTO chooses among candidates (R77, R78): utilisations are counted in tiles of the array or rectangle. -/
def chooseFlow (fixedOs fair : Bool) (cands : List Nat) (mo no kr h w : Nat) : Option Nat :=
  let f := fun x t => min t (cdiv x 32)
  let u := fun d => match d with | 0 => f mo h * f no w | 1 => f no h * f kr w | _ => f mo h * f kr w
  match cands with
  | [] => none
  | c :: cs =>
    if fixedOs then some c
    else if fair && cands.contains 0 && decide (h * w ≤ 2 * u 0) then some 0
    else some (cs.foldl (fun b d => if u b < u d then d else b) c)

/-- A switch of the mode set a command runs under (R299). -/
def Cmd.switch (c : Cmd) (i : Nat) : Bool := bits c.run.mode i 1 == 1

/-! ## Extents -/

/-- The allocated M, K and N of a problem (R35): taken from its destinations, and its reduction from its sources. -/
def State.alloc (s : State) (c : Cmd) (prob : Nat) : Nat × Nat × Nat :=
  let o := s.opd c prob
  match c.op with
  | 1 => ((o 3).e1, (o 3).e0, (o 4).e0)
  | 2 => ((o 3).e1, (o 3).e0, (o 2).e0)
  | 3 => ((o 0).e1, (o 4).e1, (o 4).e0)
  | 4 | 8 => ((o 3).e1, (o 0).e0, (o 3).e0)
  | 5 => (0, if c.fld 0x56 0 2 % 2 = 1 then (o 1).e1 else (o 0).e0, (o 2).e0)
  | 6 =>
    let x := o 3
    let w := o 1
    (x.e1 * x.e2 * x.e3, x.e0, w.e0)
  | 7 =>
    let y := o 2
    let w := o 4
    (y.e1 * y.e2 * y.e3, w.e1 * w.e2 * w.e3, w.e0)
  | _ => (0, 0, 0)

/-- Output rows, output columns and reduction of an opcode's product from M, K and N (R35); GP_PAIR as its weight
gradient, whose extents tile rows and columns take. -/
def mnk (op m k n : Nat) : Nat × Nat × Nat :=
  match op with
  | 1 | 3 | 7 => (k, n, m)
  | 2 | 6 => (m, k, n)
  | _ => (m, n, k)

/-- A command's rectangle for a problem: row, column, height and width in tiles (R79, R80). -/
def State.rect (s : State) (c : Cmd) (arr prob : Nat) : Nat × Nat × Nat × Nat :=
  match c.probs with
  | [] => let (h, w) := s.arrDims arr; (0, 0, h, w)
  | ps => let e := (ps.getD prob (0, [])).1; (bits e 0 8, bits e 8 8, bits e 16 8, bits e 24 8)

/-! ## Products of an operation -/

/-- A view of a plain matrix whose output index runs along its rows and reduction along its columns. -/
def viewRows (t : TDesc) : View := ⟨t, true, false, fun r k => some (r, k), t.e1, t.e0⟩

/-- A view of a plain matrix whose reduction runs along its rows, with ROW scales inside the cell. -/
def viewCols (t : TDesc) : View := ⟨t, false, true, fun c k => some (k, c), t.e1, t.e0⟩

/-- The view of W in a data gradient (R35); a sparse twin has its dimensions the other way round (R199). -/
def viewW (t : TDesc) : View :=
  if t.sparse ≠ 0 && t.unit = 1 then ⟨t, false, false, fun c k => some (k, c), t.e1, t.e0⟩
  else ⟨t, true, false, fun c k => some (c, k), t.e1, t.e0⟩

/-- A view of a plain matrix with the actual extents of its output and reduction index (R185). -/
def View.within (v : View) (out red : Nat) : View :=
  if v.red0 then { v with rows := out, cols := red } else { v with rows := red, cols := out }

/-- Group length from the scale modes along the reduction, and the tile's reduction extent where it is spread (R108). -/
def groupLen (a b : TDesc) (spread : Option Nat) : Nat :=
  let g := fun (t : TDesc) => if t.mode < 2 then 128 else t.gcols
  let l := min (g a) (g b)
  match spread with
  | some ct => Nat.gcd l ct
  | none => l

/-- A destination of an array product: the region that holds it, a raw long tensor, or a plain one (R57, R123). DESIGN CHOICE
(log 140): a GP_DATA or CONV_DATA dX that lies in an FP32 region accumulates there, as MM's C does; R57 says so of a
long-valued region only, and R35 calls dX a plain tensor. -/
def State.prodDest (s : State) (c : Cmd) (t : TDesc) (dw : Bool) : ProdDest :=
  let longHere := c.long && c.fair && (dw || c.op != 1)
  match s.regionOf c.ctx t.base (t.spanLen (t.ebits longHere)) with
  | some r => if dw || c.op != 1 then .region t r.idx else .plain t
  | none => if longHere then .raw t else .plain t

/-- The product of a problem of the matrix opcodes other than its place and shape. which: 0 the (data) product, 1 the weight
gradient of GP_PAIR. -/
def State.baseProd (s : State) (c : Cmd) (prob which : Nat) (ext act : Nat × Nat × Nat) : Prod :=
  let o := s.opd c prob
  let (em, ek, en) := ext
  let (am, ak, an) := act
  let saved := if c.fuse && c.has prob 6 then some (o 6) else none
  let mk := fun (mo no kr emo eno ekr : Nat) (a b : View) (slot : Nat) (dst : ProdDest) (sv : Option TDesc) =>
    ({ mo := mo, no := no, kr := kr, emo := emo, eno := eno, ekr := ekr, a := a.within mo kr, b := b.within no kr, len := groupLen a.t b.t none
       fair := c.fair, int := a.t.fmt.isInt && b.t.fmt.isInt, slot := slot, group := prob, rowOf := fun r => r, dst := dst
       mapA := ptrAt c.raw 0x58, mapB := ptrAt c.raw 0x60, df := 0, rr := 0, rc := 0, rh := 1, rw := 1, rt := 32, ct := 32
       saved := sv } : Prod)
  match c.op with
  | 1 =>
    if which = 0 then mk am ak an em ek en (viewRows (o 2)) (viewW (o 1)) 0 (s.prodDest c (o 3) false) saved
    else mk ak an am ek en em (viewCols (o 0)) (viewCols (o 2)) 1 (s.prodDest c (o 4) true) none
  | 2 => mk am ak an em ek en (viewRows (o 2)) (viewW (o 1)) 0 (s.prodDest c (o 3) false) saved
  | 3 => mk ak an am ek en em (viewCols (o 0)) (viewCols (o 2)) 0 (s.prodDest c (o 4) true) none
  | _ => mk am an ak em en ek (viewRows (o 0)) (viewCols (o 1)) 0 (s.prodDest c (o 3) false) saved

/-- Put a product on a rectangle under a dataflow, with its shape (R74, R178). -/
def Prod.place (p : Prod) (df : Nat) (rect : Nat × Nat × Nat × Nat) (sh : Nat × Nat) : Prod :=
  { p with
    df := df, rr := rect.1, rc := rect.2.1, rh := rect.2.2.1, rw := rect.2.2.2, rt := sh.1, ct := sh.2
    len := groupLen p.a.t p.b.t (if df = 0 then none else some sh.2) }

/-- The extents tile rows and tile columns take (R74, R178). -/
def Prod.tileExt (p : Prod) (df : Nat) : Nat × Nat :=
  match df with
  | 0 => (p.emo, p.eno)
  | 1 => (p.eno, p.ekr)
  | 2 => (p.emo, p.ekr)
  | _ => (p.eno, p.ekr)

/-- The shape the engine chooses for a product (R178). -/
def Prod.shape (p : Prod) (df h w : Nat) : Option (Nat × Nat) :=
  let (er, ec) := p.tileExt df
  chooseShape df p.fair er ec h w p.a.t.fmt.storeBits p.b.t.fmt.storeBits 0

/-! ### Convolution (R65 to R67, R81) -/

/-- The phases of a CONV_DATA in order: (φh, φw) with their taps (R67). -/
def Conv2.phases (v : Conv2) : List ((Nat × Nat) × List (Nat × Nat)) :=
  (List.range v.sh).flatMap fun ph => (List.range v.sw).map fun pw =>
    ((ph, pw), ((List.range v.kh).filter fun r => r * v.dh % v.sh == ph).flatMap fun r =>
      ((List.range v.kw).filter fun q => q * v.dw % v.sw == pw).map fun q => (r, q))

/-- Positions along one axis that belong to a phase (R67). -/
def phasePos (n pad st ph : Nat) : List Nat := (List.range n).filter fun h => (h + pad) % st == ph

/-- One phase of CONV_DATA as a product (R67). -/
def State.convPhase (s : State) (c : Cmd) (ph : (Nat × Nat) × List (Nat × Nat)) : Prod :=
  let v := c.conv
  let x := s.opd c 0 3
  let y := s.opd c 0 2
  let w := s.opd c 0 1
  let hs := phasePos x.e2 v.pt v.sh ph.1.1
  let ws := phasePos x.e1 v.pl v.sw ph.1.2
  let nf := w.e0
  let pos := fun i => (i / (hs.length * ws.length), hs.getD (i / ws.length % hs.length) 0, ws.getD (i % ws.length) 0)
  let m := x.e3 * hs.length * ws.length
  let base := s.baseProd { c with raw := putBits c.raw 0 8 2 } 0 0 (m, x.e0, ph.2.length * nf) (m, x.e0, ph.2.length * nf)
  { base with
    a := ⟨y, true, false, fun i k =>
      let (n, h, q) := pos i
      let (r, t) := ph.2.getD (k / nf) (0, 0)
      if r * v.dh ≤ h + v.pt && t * v.dw ≤ q + v.pl then
        let p := (h + v.pt - r * v.dh) / v.sh
        let g := (q + v.pl - t * v.dw) / v.sw
        if p < y.e2 && g < y.e1 then some ((n * y.e2 + p) * y.e1 + g, k % nf) else none
      else none, y.e1, y.e0⟩
    b := ⟨w, true, false, fun ch k =>
      let (r, t) := ph.2.getD (k / nf) (0, 0)
      some ((r * v.kw + t) * x.e0 + ch, k % nf), w.e1, w.e0⟩
    rowOf := fun i => let (n, h, q) := pos i; (n * x.e2 + h) * x.e1 + q
    group := 0, saved := if c.fuse && c.has 0 6 then some (s.opd c 0 6) else none
    dst := s.prodDest c x false }

/-- A problem of a CONV_WEIGHT as a product (R66, R79). -/
def State.convWeight (s : State) (c : Cmd) (prob m k n : Nat) : Prod :=
  let v := c.conv
  let x := s.opd c prob 0
  let y := s.opd c prob 2
  let base := s.baseProd { c with raw := putBits c.raw 0 8 3 } prob 0 (m, k, n) (m, k, n)
  { base with
    a := ⟨x, false, true, fun r i =>
      let ch := r % x.e0
      let kw := r / x.e0 % v.kw
      let kh := r / x.e0 / v.kw
      let q := i % y.e1
      let p := i / y.e1 % y.e2
      let nb := i / y.e1 / y.e2
      let h := p * v.sh + kh * v.dh
      let w := q * v.sw + kw * v.dw
      if v.pt ≤ h && h < x.e2 + v.pt && v.pl ≤ w && w < x.e1 + v.pl then
        some ((nb * x.e2 + (h - v.pt)) * x.e1 + (w - v.pl), ch)
      else none, x.e1, x.e0⟩
    b := ⟨y, false, true, fun f i => some (i, f), y.e1, y.e0⟩ }

/-- Widths of the strips of phases by the largest-remainder method, at least one column each (R81). DESIGN CHOICE (log 141): a
strip that the method leaves without a column takes one from the widest strip, ties to the lower index. -/
def stripWidths (w : Nat) (work : List Nat) : List Nat :=
  let tot := work.foldl (· + ·) 0
  let share := fun x => if tot = 0 then 0 else x * w / tot
  let rem := fun x => if tot = 0 then 0 else x * w % tot
  let base := work.map share
  let left := w - base.foldl (· + ·) 0
  -- the spare columns go one by one to the largest remainders, ties to the lower index
  let order := (List.range left).foldl (fun (acc : List Nat) _ =>
    match (List.range work.length).foldl (fun (b : Option Nat) i =>
      if acc.contains i then b
      else match b with
        | none => some i
        | some j => if rem (work.getD j 0) < rem (work.getD i 0) then some i else some j) none with
    | some i => acc ++ [i]
    | none => acc) []
  let got := (List.range work.length).map fun i => base.getD i 0 + (if order.contains i then 1 else 0)
  -- a strip without a column takes one from the widest, ties to the lower index
  (List.range work.length).foldl (fun (g : List Nat) i =>
    if g.getD i 0 = 0 then
      let j := (List.range g.length).foldl (fun b k => if g.getD b 0 < g.getD k 0 then k else b) 0
      setAt (setAt g j (g.getD j 0 - 1)) i 1
    else g) got

/-! ### Grouped products (R188 to R196) -/

/-- A pointer-list entry (R190). -/
structure GEntry where
  rows : Nat
  cap : Nat
  x : Nat
  dy : Nat
  w : Nat
  dw : Nat
  rowidx : Nat
  wscale : Nat
  /-- Rows of the entries before it. -/
  off : Nat
  deriving DecidableEq, Repr, Inhabited

/-- GROUPS of a GP_GROUPED (R314). -/
def Cmd.groups (c : Cmd) : Nat := c.fld 0x4E 0 16 + 1
/-- PRODUCTS (R188). -/
def Cmd.products (c : Cmd) : Nat := c.fld 0x56 0 2
/-- TOKENS (R189). -/
def Cmd.tokens (c : Cmd) : Nat := c.fld 0x68 0 25

/-- Accepted rows of a group (R188). -/
def GEntry.acc (e : GEntry) : Nat := min e.rows e.cap

/-- The metadata streams a command has consumed, before what the caches hold: strip headers, list pairs, pointer-list entries
and row indices keep the values they had when they were read (R215). -/
def State.metaSrc (s : State) (c : Cmd) : Bytes := s.bulk.over c.streams

/-- A byte of a descriptor or a table of a command, as the Footpath has read it or reads it now (R179, R190, R236). -/
def State.listSrc (s : State) (c : Cmd) : Bytes := Bytes.over s.memByte c.streams

/-- Entry e of the pointer list (R190). -/
def State.gentry (s : State) (c : Cmd) (e off : Nat) : GEntry :=
  let a := ptrAt c.raw 0x48 + 64 * e
  let m := s.listSrc c
  let p := fun o => bits (m.le (a + o) 8) 0 52
  ⟨m.le a 4, m.le (a + 4) 4, p 8, p 0x10, p 0x18, p 0x20, p 0x28, p 0x30, off⟩

/-- The entries in order with their row offsets (R189). -/
def State.gentries (s : State) (c : Cmd) : List GEntry :=
  ((List.range c.groups).foldl (fun (acc : List GEntry × Nat) e =>
    let g := s.gentry c e acc.2
    (acc.1 ++ [g], acc.2 + g.rows)) ([], 0)).1

/-- The token of a row of a group (R188). -/
def State.rowTok (s : State) (c : Cmd) (g : GEntry) (i : Nat) : Nat := (s.metaSrc c).le (g.rowidx + 4 * i) 4

/-- The tensors of a group: dY_e, X_e, W_e and dW_e (R189). -/
def State.groupDesc (s : State) (c : Cmd) (slot : Nat) (g : GEntry) : TDesc :=
  let t := s.opd c 0 slot
  match slot with
  | 0 => { t with base := g.x, e1 := max 1 g.rows, sptr := t.sptr + g.off * t.scaleBytes }
  | 2 => { t with base := g.dy, e1 := max 1 g.rows, sptr := t.sptr + g.off * t.scaleBytes }
  | 1 => { t with base := g.w, sptr := g.wscale }
  | _ => { t with base := g.dw }

/-- The region of a group's dW (R190). -/
def State.groupRegion (s : State) (c : Cmd) (g : GEntry) : Option Region :=
  let t := s.groupDesc c 4 g
  s.regionOf c.ctx g.dw (t.spanLen (t.ebits (c.long && c.fair)))

/-- Bytes of the merge slab (R193). -/
def State.slabBytes (s : State) (c : Cmd) : Nat := c.tokens * (s.opd c 0 3).e0 * (if c.fair then 16 else 4)

/-- A share of the PAIR reservation in bytes: one for each array of the ganging (R218). -/
def State.pairShare (s : State) : Nat :=
  match s.lgd.inForce with | some l => l.pair * 1048576 / max 1 s.arrays.length | none => 0

/-- The bytes of a command's workspace; 0 without one. -/
def State.wsBytes (s : State) (c : Cmd) (prob : Nat) : Nat :=
  if c.has prob 5 then let t := s.opd c prob 5; t.spanLen t.fmt.storeBits else 0

/-- What is wrong with an entry in its turn (R187, R190, R194). DESIGN CHOICE (log 142): an entry whose dW does not cover the
SHADOW region it lies in (R62), or whose region's SHADOW flag its descriptor contradicts (R315), is rejected here, since its
region is known no sooner. DESIGN CHOICE (log 181): so is one whose long region holds an anchor out of range (R319), with
ISSUE_ANCHOR. DW is judged of an empty group too, whose region R196 may write. DESIGN CHOICE (log 198): 'misaligned under the rules for its
tensor' is taken as a byte for X, DY and W, 4 B for DW and ROWIDX, 64 B for WSCALE. -/
def State.groupFault (s : State) (c : Cmd) (e : Nat) (g : GEntry) (before : Nat) : Option Cause :=
  let a := ptrAt c.raw 0x48 + 64 * e
  let bad := fun off => some (Cause.own 0x0122 (e + off * 4294967296))
  let m := s.listSrc c
  let top := fun o => m.le (a + o) 8 / 2 ^ 52 != 0
  let used := g.rows != 0 && g.cap != 0
  let data := c.products % 2 == 1
  let wgt := 2 ≤ c.products
  let need := fun (v al : Nat) (n : Nat) => used && (v == 0 || v % al != 0 || !s.inMap v n)
  let x := s.groupDesc c 0 g
  let y := s.groupDesc c 2 g
  let w := s.groupDesc c 1 g
  let rows := (List.range g.rows).find? fun i => decide (c.tokens ≤ s.rowTok c g i)
  if 16777216 < g.rows then bad 0
  else if top 8 then bad 8
  else if top 0x10 then bad 0x10
  else if top 0x18 then bad 0x18
  else if top 0x20 then bad 0x20
  else if top 0x28 then bad 0x28
  else if top 0x30 then bad 0x30
  else if m.le (a + 0x38) 8 != 0 then bad 0x38
  else if wgt && need g.x 1 (x.spanLen x.fmt.storeBits) then bad 8
  else if need g.dy 1 (y.spanLen y.fmt.storeBits) then bad 0x10
  else if data && need g.w 1 (w.spanLen w.fmt.storeBits) then bad 0x18
  else if wgt && (g.dw == 0 || g.dw % 4 != 0 ||
      (match s.groupRegion c g with
        | none => true
        | some r =>
          let t := s.groupDesc c 4 g
          r.torn || r.long != (c.long && c.fair) || r.shadow != t.shadow || (r.shadow && !r.coveredBy t (t.ebits r.long)))) then bad 0x20
  else if wgt && used && (s.groupRegion c g).any (fun r => r.long && (decide (r.anchor < -1024) || decide (1023 < r.anchor))) then
    some ⟨0x0111, g.dw, 4, 0⟩
  else if g.rows != 0 && (g.rowidx == 0 || g.rowidx % 4 != 0 || !s.inMap g.rowidx (4 * g.rows)) then bad 0x28
  else if data && used && w.mode != 0 && (g.wscale == 0 || g.wscale % 64 != 0 || !s.inMap g.wscale w.scaleCount) then bad 0x30
  else
    match rows with
    | some i => some (Cause.own 0x0123 (e + i * 4294967296))
    | none =>
      let dx := s.opd c 0 3
      let bytes := (before + g.acc) * dx.e0 * 4
      let slabIn := if s.slabBytes c ≤ s.pairShare then 0 else s.slabBytes c
      if data && dx.ordered && !c.fair && s.wsBytes c 0 < slabIn + bytes then
        some (Cause.own 0x0124 (e % 16777216 + min (cdiv (slabIn + bytes) 4096) (2 ^ 40 - 1) * 16777216))
      else none

/-- The groups that run, in order, up to the first that faults, and that fault (R187, R190). -/
def State.groupRun (s : State) (c : Cmd) : List (Nat × GEntry) × Option Cause :=
  let gs := s.gentries c
  ((List.range gs.length).foldl (fun (acc : (List (Nat × GEntry) × Option Cause) × Nat) e =>
    match acc.1.2 with
    | some _ => acc
    | none =>
      let g := gs.getD e default
      match s.groupFault c e g acc.2 with
      | some f => ((acc.1.1, some f), acc.2)
      | none => ((acc.1.1 ++ [(e, g)], none), acc.2 + g.acc)) (([], none), 0)).1

/-- The products of one group: DATA, then WEIGHT (R188). DESIGN CHOICE (log 179): with both, dW draws as slot 1, as GP_PAIR's
does (R104); a command with WEIGHT alone has dW as its single result, slot 0. -/
def State.groupProds (s : State) (c : Cmd) (e : Nat) (g : GEntry) : List Prod :=
  let y := s.groupDesc c 2 g
  let w := s.groupDesc c 1 g
  let x := s.groupDesc c 0 g
  let d := s.groupDesc c 4 g
  let a := g.acc
  -- W is absent where PRODUCTS leaves DATA out, and X and dW where it leaves WEIGHT out
  let k := if c.products % 2 = 1 then w.e1 else x.e0
  let n := y.e0
  let p0 := s.baseProd { c with raw := putBits c.raw 0 8 2 } 0 0 (a, k, n) (a, k, n)
  let data := { p0 with a := viewRows y, b := viewW w, group := e, rowOf := fun i => s.rowTok c g i, dst := .slab, saved := none
                        mapA := 0, mapB := 0, int := false }
  let wt := { p0 with
    mo := k, no := n, kr := a, emo := k, eno := n, ekr := a, a := viewCols x, b := viewCols y, group := e, slot := c.products / 3
    rowOf := fun i => i, dst := .region d ((s.groupRegion c g).map (·.idx) |>.getD 0), saved := none, mapA := 0, mapB := 0
    int := false }
  (if c.products % 2 = 1 then [data] else []) ++ (if 2 ≤ c.products then [wt] else [])

/-! ### All products -/

/-- The dataflow and shape given, place a product; a product without a legal shape keeps the least (it never passed
ISSUE_TILE). -/
def Prod.placed (p : Prod) (df : Nat) (rect : Nat × Nat × Nat × Nat) (fixed : Option (Nat × Nat)) : Prod :=
  let sh := match fixed with
    | some x => x
    | none => (p.shape df rect.2.2.1 rect.2.2.2).getD (32, 32)
  p.place df rect sh

/-- The shape of a GP_PAIR: k_t and n_t (R39, R40, R178). -/
def State.pairShape (s : State) (c : Cmd) (prob ek en h w : Nat) : Option (Nat × Nat) :=
  let o := s.opd c prob
  chooseShape 3 c.fair ek en h w (o 0).fmt.storeBits (o 2).fmt.storeBits (o 1).fmt.storeBits

/-- The fixed shape of a bucket entry (R182); none where the engine chooses. -/
def fixedShape (entry : Nat) : Option (Nat × Nat) :=
  if bits entry 96 5 = 0 then none else some (32 * bits entry 96 5, 32 * bits entry 101 5)

/-- The products of an accepted command at the extents its run chose, each placed (R24, R53, R76, R80, R81). -/
def State.prods (s : State) (c : Cmd) (fixed : Option (Nat × Nat)) : List Prod :=
  let arr := c.run.arr.getD 0
  match c.op with
  | 5 => ((s.groupRun c).1.filter fun e => e.2.acc != 0).flatMap fun e => (s.groupProds c e.1 e.2).map fun p => p.placed 0 (s.rect c arr 0) none
  | 6 =>
    let (h, w) := s.arrDims arr
    let phs := c.conv.phases.map (s.convPhase c)
    let live := phs.filter fun p => p.kr != 0
    let dead := phs.filter fun p => p.kr = 0
    -- successive operations of at most w phases each; outputs no tap reaches, which are zero, come last
    let n := cdiv live.length (max 1 w)
    ((List.range n).flatMap fun i =>
      let ps := (live.drop (i * w)).take w
      let ws := stripWidths w (ps.map fun p => p.mo * p.no * p.kr)
      (List.range ps.length).map fun j =>
        { (ps.getD j (s.convPhase c default)).placed c.run.dataflow (0, (ws.take j).foldl (· + ·) 0, h, ws.getD j 1) none with round := i })
      ++ dead.map fun p => { p.placed 0 (0, 0, h, w) none with round := n }
  | 7 =>
    (List.range (max 1 c.probs.length)).map fun q =>
      let (m, k, n) := s.alloc c q
      (s.convWeight c q m k n).placed c.run.dataflow (s.rect c arr q) none
  | op =>
    (List.range (max 1 c.probs.length)).flatMap fun q =>
      let ext := if c.buckets = 0 then s.alloc c q else (c.run.em, c.run.ek, c.run.en)
      let act := if c.buckets = 0 then ext else (c.run.am, c.run.ak, c.run.an)
      let rc := s.rect c arr q
      if op = 1 then
        let sh := match fixed with
          | some x => x
          | none => (s.pairShape c q ext.2.1 ext.2.2 rc.2.2.1 rc.2.2.2).getD (32, 32)
        [(s.baseProd c q 0 ext act).place 3 rc sh, (s.baseProd c q 1 ext act).place 0 rc sh]
      else [(s.baseProd c q 0 ext act).placed c.run.dataflow rc fixed]

/-! ## Output blocks -/

/-- One output block of a product, or one part of it under the tail-steal (R50, R74, R210). -/
structure Blk where
  /-- Product. -/
  prod : Nat
  r0 : Nat
  rn : Nat
  c0 : Nat
  cn : Nat
  /-- A partial block, delivered at the east edge; else a sheet. -/
  part : Bool
  /-- The tile that fills the sheet; for a partial block the tile row of its rectangle. -/
  tile : Nat
  /-- The output slab in visiting order. -/
  slab : Nat
  /-- Strips of its reduction it sums, and its part number. -/
  s0 : Nat
  s1 : Nat
  num : Nat
  deriving DecidableEq, Repr, Inhabited

/-- The product has a sparse operand. -/
def Prod.sparse (p : Prod) : Bool := p.a.t.sparse != 0 || p.b.t.sparse != 0

/-- Blocks along the reduction the streams of a product run over (R200): an operand's own allocated extent where sparse. -/
def Prod.kbAll (p : Prod) : Nat :=
  if p.a.t.sparse ≠ 0 then p.a.t.kb p.a.red0 else if p.b.t.sparse ≠ 0 then p.b.t.kb p.b.red0 else cdiv p.ekr 32

/-- Strips of a reduction (R200, R211): of the allocated extent where an operand is sparse. -/
def Prod.strips (p : Prod) : Nat := cdiv p.kbAll 32

/-- Whole-sheet blocks of a product in visiting order (R39, R53, R76). -/
def State.sheetBlks (s : State) (arr : Nat) (i : Nat) (p : Prod) : List Blk :=
  let nr := cdiv p.emo (p.rh * p.rt)
  let nc := cdiv p.eno (p.rw * p.ct)
  (List.range nr).flatMap fun a => (List.range nc).flatMap fun b =>
    (List.range p.rh).flatMap fun x => (List.range p.rw).filterMap fun y =>
      let r0 := (a * p.rh + x) * p.rt
      let c0 := (b * p.rw + y) * p.ct
      if r0 < p.emo && c0 < p.eno then
        some ⟨i, r0, min p.rt (p.emo - r0), c0, min p.ct (p.eno - c0), false, s.tileAt arr (p.rr + x) (p.rc + y),
          a * nc + b, 0, p.strips, 0⟩
      else none

/-- Partial blocks of a product in visiting order (R74, R76). -/
def partBlks (i : Nat) (p : Prod) : List Blk :=
  if p.df = 2 then
    (List.range (cdiv p.emo (p.rh * p.rt))).flatMap fun a =>
      (List.range (cdiv p.eno 32)).flatMap fun n => (List.range p.rh).filterMap fun x =>
        let r0 := (a * p.rh + x) * p.rt
        if r0 < p.emo then some ⟨i, r0, min p.rt (p.emo - r0), 32 * n, min 32 (p.eno - 32 * n), true, x, a, 0, p.strips, 0⟩
        else none
  else
    (List.range (cdiv p.eno (p.rh * p.rt))).flatMap fun a =>
      (List.range (cdiv p.emo 32)).flatMap fun m => (List.range p.rh).filterMap fun x =>
        let c0 := (a * p.rh + x) * p.rt
        if c0 < p.eno then some ⟨i, 32 * m, min 32 (p.emo - 32 * m), c0, min p.rt (p.eno - c0), true, x, a, 0, p.strips, 0⟩
        else none

/-! ### Tail-steal (R210 to R212) -/

/-- The estimate of a strip: LEN for a compressed strip, its block count otherwise (R210). -/
def Bytes.stripLen (m : Bytes) (d : TDesc) (red0 : Bool) (kbAll p st : Nat) : Nat :=
  let nb := min 32 (kbAll - 32 * st)
  if d.sparse = 0 then nb
  else
    let w1 := m.le (d.zp + 16 * (p * d.strips red0 + st) + 4) 4
    if bits w1 5 1 = 1 then nb else w1 % 32

/-- The estimated beats of a sheet's strip over its sub-blocks (R210). -/
def Bytes.stripWork (m : Bytes) (p : Prod) (b : Blk) (st : Nat) : Nat :=
  (span (b.r0 / 32) (cdiv (b.r0 + b.rn) 32)).foldl (fun n i =>
    (span (b.c0 / 32) (cdiv (b.c0 + b.cn) 32)).foldl (fun n j =>
      let na := m.stripLen p.a.t p.a.red0 p.kbAll i st
      let nb := m.stripLen p.b.t p.b.red0 p.kbAll j st
      n + (if p.a.t.sparse = 0 then nb else if p.b.t.sparse = 0 then na else min na nb)) n) 0

/-- The split of one sheet's strips at the boundaries where the work before reaches p·w/P (R211). -/
def cutStrips (work : List Nat) (parts : Nat) : List (Nat × Nat) :=
  let w := work.foldl (· + ·) 0
  let at_ := fun p => ((List.range (work.length + 1)).find? fun i =>
    decide (p * w ≤ (work.take i).foldl (· + ·) 0 * parts)).getD work.length
  (List.range parts).map fun p => (if p = 0 then 0 else at_ p, if p + 1 = parts then work.length else at_ (p + 1))

/-- The part slots of one channel's steal buffer (R211, R218): the reservation is shared by the channels in service. -/
def State.stealSlots (s : State) : Nat :=
  match s.lgd.inForce with
  | some l => l.steal * 1048576 / max 1 (maskBits l.channels s.build.size.channels).length / 65536
  | none => 0

/-- The sheets of one slab, with the parts of its heavy sheets dealt to light tiles (R210 to R212). -/
def State.stealSlab (s : State) (m : Bytes) (arr : Nat) (p : Prod) (bs : List Blk) : List Blk :=
  let work := bs.map fun b => (List.range p.strips).map (m.stripWork p b)
  let sum := fun (l : List Nat) => l.foldl (· + ·) 0
  let tot := sum (work.map sum)
  let mu := cdiv tot (max 1 (p.rh * p.rw))
  let heavy := (List.range bs.length).filter fun i => decide (4 * mu < sum (work.getD i [])) && decide (64 < sum (work.getD i []))
  let tiles := (List.range p.rh).flatMap fun x => (List.range p.rw).map fun y => s.tileAt arr (p.rr + x) (p.rc + y)
  let tileNo := fun i => (bs.getD i default).tile
  let light := (tiles.filter fun t =>
    decide (sum ((List.range bs.length).filterMap fun i => if tileNo i = t then some (sum (work.getD i [])) else none) < mu))
  let z := s.build.size
  let parts := fun i =>
    let ch := z.chanOf (tileNo i)
    let hh := (heavy.filter fun j => z.chanOf (tileNo j) == ch).length
    min 254 (min p.strips (min (cdiv (sum (work.getD i [])) (max 1 mu)) (s.stealSlots / max 1 hh)))
  let split := sortBy (fun i j => decide (tileNo i ≤ tileNo j)) (heavy.filter fun i => decide (2 ≤ parts i))
  if light.isEmpty then bs
  else
    let lt := sortBy (fun a b => decide (a ≤ b)) light
    let own := (List.range bs.length).map fun i =>
      let b := bs.getD i default
      if split.contains i then
        let c := (cutStrips (work.getD i []) (parts i)).getD 0 (0, p.strips)
        { b with s0 := c.1, s1 := c.2 }
      else b
    let dealt := split.flatMap fun i => (List.range (parts i)).filterMap fun q =>
      if q = 0 then none
      else
        let c := (cutStrips (work.getD i []) (parts i)).getD q (0, 0)
        some { bs.getD i default with s0 := c.1, s1 := c.2, num := q }
    own ++ (List.range dealt.length).map fun k =>
      { dealt.getD k default with tile := lt.getD (k % lt.length) 0 }

/-- The blocks of a product, with the tail-steal where it applies (R210). -/
def State.prodBlks (s : State) (c : Cmd) (i : Nat) (p : Prod) : List Blk :=
  if p.df ≠ 0 then partBlks i p
  else
    let bs := s.sheetBlks (c.run.arr.getD 0) i p
    if p.sparse && c.switch 2 then
      (List.range (cdiv p.emo (p.rh * p.rt) * cdiv p.eno (p.rw * p.ct))).flatMap fun sl =>
        s.stealSlab (s.metaSrc c) (c.run.arr.getD 0) p (bs.filter fun b => b.slab == sl)
    else bs

/-- The fixed shape of the bucket a command runs (R182, R184). -/
def State.cmdFixed (s : State) (c : Cmd) : Option (Nat × Nat) :=
  if c.buckets = 0 then none else fixedShape ((s.listSrc c).le (ptrAt c.raw 0x50 + 16 * c.run.bucket) 16)

/-- The products of a command that runs. -/
def State.cmdProds (s : State) (c : Cmd) : List Prod := s.prods c (s.cmdFixed c)

/-- The output blocks of a command that runs, numbered by their place in the list. -/
def State.blocks (s : State) (c : Cmd) : List Blk :=
  let ps := s.cmdProds c
  (List.range ps.length).flatMap fun i =>
    match ps[i]? with
    | some p => s.prodBlks c i p
    | none => []

/-- Scratch a product's partial slab needs (R46, R74). -/
def Prod.slabNeed (p : Prod) : Nat :=
  let esz := if p.fair then 16 else 4
  if p.df = 0 || cdiv p.ekr (p.rw * p.ct) ≤ 1 then 0
  else if p.df = 2 then p.rh * p.rt * p.eno * esz
  else p.emo * (p.rh * p.rt) * esz

/-- A problem of a running command uses its workspace tensor; where it needs no slab the slot is ignored (R46, R193, R194). -/
def State.usesWs (s : State) (c : Cmd) (prob : Nat) : Bool :=
  c.has prob 5 &&
  if c.op = 5 then c.products % 2 == 1 && (decide (s.pairShare < s.slabBytes c) || ((s.opd c 0 3).ordered && !c.fair))
  else !c.run.spur && (s.cmdProds c).any fun p => p.group == prob && p.slabNeed != 0

end Sys2Proof.Machine
end

