-- ==== Sys2Proof/Machine/Drain.lean ====
section
/-! DEFINITION. Filling and draining output blocks: the beats of a block and the operand blocks they take, its anchor, its
finished values, the scale groups they wait for, fused derivatives, conversion, raw long outputs, accumulation regions and the
merge slab (R42, R45, R46, R50 to R63, R111, R112, R118 to R126, R139, R175, R185, R186, R193, R212). -/

namespace Sys2Proof.Machine

open Sys2Proof

/-! ## The work of a command -/

/-- A command on an array, its products and its output blocks. -/
structure Work where
  cmd : Cmd
  ps : List Prod
  bs : List Blk

/-- The work of a command. -/
def State.work (s : State) (c : Cmd) : Work := ⟨c, s.cmdProds c, s.blocks c⟩

/-- The product of a block. -/
def Work.prod (w : Work) (n : Nat) : Option Prod := (w.bs[n]?).bind fun b => w.ps[b.prod]?

/-- A block and its product. -/
def Work.blk (w : Work) (n : Nat) : Option (Blk × Prod) :=
  match w.bs[n]?, w.prod n with
  | some b, some p => some (b, p)
  | _, _ => none

/-- The array the command runs on. -/
def Work.arr (w : Work) : Nat := w.cmd.run.arr.getD 0

/-- A tile. -/
def State.tile (s : State) (t : Nat) : Tile := s.tiles.getD t Tile.init

/-- Change a tile. -/
def State.updTile (s : State) (t : Nat) (f : Tile → Tile) : State := { s with tiles := updAt s.tiles t f }

/-- The output elements of a block inside the actual extents, row by row (R185). -/
def Blk.outs (b : Blk) (p : Prod) : List (Nat × Nat) :=
  (span b.r0 (min (b.r0 + b.rn) p.mo)).flatMap fun r => (span b.c0 (min (b.c0 + b.cn) p.no)).map fun c => (r, c)

/-- 32×32 sub-blocks of a block; the weight gradient of GP_PAIR takes columns in its outer loop (R42). -/
def Blk.subs (b : Blk) (colsOuter : Bool) : List (Nat × Nat) :=
  let rs := span (b.r0 / 32) (cdiv (b.r0 + b.rn) 32)
  let cs := span (b.c0 / 32) (cdiv (b.c0 + b.cn) 32)
  if colsOuter then cs.flatMap fun c => rs.map fun r => (r, c) else rs.flatMap fun r => cs.map fun c => (r, c)

/-! ## Beats -/

/-- A tile-beat: the sub-block of the output; the block along the reduction, and the stored blocks of sparse operands; and how many
earlier beats of the block name the same, as metadata that breaks R203 can make them (R214). -/
structure Beat where
  sub : Nat × Nat
  at_ : Nat × Option Nat × Option Nat
  nth : Nat
  deriving DecidableEq, Repr, Inhabited

/-- Beats that name the same blocks, told apart by their number. -/
def numberBeats (l : List Beat) : List Beat :=
  l.foldl (fun acc b => acc ++ [{ b with nth := (acc.filter fun x => x.sub == b.sub && x.at_ == b.at_).length }]) []

/-- The matched beats of one sub-block in one strip (R206). -/
def Bytes.stripBeats (m : Bytes) (p : Prod) (sub : Nat × Nat) (st : Nat) : List (Nat × Option Nat × Option Nat) :=
  let la := m.stripStream p.a.t p.a.red0 p.kbAll sub.1 st
  let lb := m.stripStream p.b.t p.b.red0 p.kbAll sub.2 st
  mergeStreams (la.length + lb.length) (cdiv p.kr 32) la lb

/-- The tile-beats of a sheet's block in order (R51, R76, R206): by ascending reduction block where both operands are dense, over
the extent the command runs at, padding contributing nothing (R185),
strip by strip and sub-block by sub-block where one is sparse. -/
def Bytes.blkBeats (m : Bytes) (p : Prod) (b : Blk) (colsOuter : Bool) : List Beat :=
  if p.sparse then
    numberBeats ((span b.s0 b.s1).flatMap fun st => (b.subs colsOuter).flatMap fun sub =>
      (m.stripBeats p sub st).map fun x => ⟨sub, x, 0⟩)
  else
    (span (32 * b.s0) (min (32 * b.s1) (cdiv p.ekr 32))).flatMap fun kb =>
      (b.subs colsOuter).map fun sub => ⟨sub, (kb, none, none), 0⟩

/-- Reduction slabs of a product whose partials cross the array (R46, R74). -/
def Prod.redSlabs (p : Prod) : Nat := max 1 (cdiv p.ekr (p.rw * p.ct))

/-- The beats of a partial block on the tile in column y of its rectangle, in one reduction slab (R42, R45, R76). -/
def partBeats (p : Prod) (b : Blk) (slab y : Nat) : List Beat :=
  let k0 := (slab * p.rw + y) * p.ct
  (span (k0 / 32) (cdiv (min (k0 + p.ct) p.ekr) 32)).flatMap fun kb =>
    (b.subs false).map fun sub => ⟨sub, (kb, none, none), 0⟩

/-- The w-beats of GP_PAIR take the columns of their region in the outer loop (R42). -/
def Cmd.colsOuter (c : Cmd) (p : Prod) : Bool := c.op == 1 && p.slot == 1

/-- The beats of a block that a sheet holds. -/
def State.beatsOf (s : State) (c : Cmd) (p : Prod) (b : Blk) : List Beat := (s.metaSrc c).blkBeats p b (c.colsOuter p)

/-- The two operand blocks a beat multiplies: those of the product's first and second operand. The dY block that both products
of a GP_PAIR consume has one name, that of the weight gradient's second operand (R43). A block that the feeder gathers for a
sparse product is for one beat of one sub-block, so that beats which name the same stored block each take theirs (R206, R214). Visits are numbered in the order of the products, whose blocks a tile does one product after the other
outside GP_PAIR. -/
def Work.keys (w : Work) (b : Blk) (p : Prod) (rs : Nat) (bt : Beat) : OpKey × OpKey :=
  let turn := if b.part then b.slab * p.redSlabs + rs else b.slab
  let visit := if w.cmd.op = 1 then turn else b.prod * 2 ^ 32 + turn
  let mate := fun (i : Nat) => if p.sparse then some i else none
  let nth := bt.nth + b.num * 2 ^ 32
  let ka : OpKey := if w.cmd.op = 1 && b.part then ⟨b.prod + 1, true, bt.2.1, bt.1.1, none, none, visit, nth⟩
    else ⟨b.prod, false, bt.1.1, bt.2.1, bt.2.2.1, mate bt.1.2, visit, nth⟩
  (ka, ⟨b.prod, true, bt.1.2, bt.2.1, bt.2.2.2, mate bt.1.1, visit, nth⟩)

/-- The bytes of an operand block that a tile has consumed, with its scales. -/
def Tile.cellsFor (u : Tile) (id : CmdId) (k : OpKey) : List Host.Cell :=
  ((u.aHalf ++ u.bHalf ++ u.latch.toList ++ u.scaleBuf).filter fun x => x.cmd == id && x.key == k).flatMap (·.cells)

/-- A line's bytes as cells. -/
def lineCells (l : Nat × List Byte) : List Host.Cell := (List.range l.2.length).map fun i => (l.1 * 256 + i, l.2.getD i 0)

/-- Operand bytes of a command that have left the caches and are on their way: in its feeders, in the Projection buffers, on the
links (R215). -/
def State.inFlight (s : State) (id : CmdId) : List Host.Cell :=
  (s.feed.threads.flatMap fun l => l.flatMap fun th => if th.cmd = some id then th.buf.flatMap lineCells else [])
    ++ (s.feed.proj.flatMap fun l => l.flatMap fun b => if b.2.cmd = id then b.2.cells else [])
    ++ (s.tiles.flatMap fun u => (u.rowIn ++ u.colIn).flatMap fun f => if f.cmd = id then f.cells ++ f.scales else [])

/-- What a beat on a tile reads: the operand blocks it has consumed, else what has been consumed for the command (R215), else what
the caches hold now. -/
def State.beatSrc (s : State) (c : Cmd) (u : Tile) (ks : OpKey × OpKey) : Bytes :=
  ((s.metaSrc c).over (s.inFlight c.id)).over (u.cellsFor c.id ks.1 ++ u.cellsFor c.id ks.2)

/-- The first of two optional errors: the one met at the smaller reduction index. -/
def firstErr (a b : Option ArithErr) : Option ArithErr :=
  match a, b with
  | none, b => b
  | a, none => a
  | some x, some y => if y.at_ < x.at_ then some y else some x

/-- One tile-beat on the accumulators of a block (R41). -/
def Bytes.blkBeat (m : Bytes) (p : Prod) (k : SumKey) (gather : Bool) (anchor : Int) (outs : List (Nat × Nat))
    (accs : List Acc) (bt : Beat) : List Acc × Option ArithErr :=
  (List.zip outs accs).foldl (fun (x : List Acc × Option ArithErr) oa =>
    let (r, c) := oa.1
    if r / 32 = bt.1.1 && c / 32 = bt.1.2 then
      let (a, e) := m.accBeat p k gather anchor r c bt.2 oa.2
      (x.1 ++ [a], firstErr x.2 e)
    else (x.1 ++ [oa.2], x.2)) ([], none)

/-- The key of a product's sums. -/
def Cmd.sumKey (c : Cmd) (p : Prod) : SumKey := ⟨c.key, p.slot, p.group⟩

/-- Bytes kept with those kept before; the first consumption of a byte stands (R215). -/
def keepCells (old new : List Host.Cell) : List Host.Cell := old ++ new.filter fun c => !old.any fun d => d.1 == c.1

/-- Accumulators in the making, with the row scales consumed for their outputs (R49). -/
structure Sums where
  accs : List Acc
  scales : List Host.Cell

/-- One beat of a block on a tile: its sums, and the row scales that came with the first operand. -/
def State.doBeat (s : State) (w : Work) (b : Blk) (p : Prod) (u : Tile) (rs : Nat) (anchor : Int) (f : Sums) (bt : Beat) :
    Sums × Option ArithErr :=
  let ks := w.keys b p rs bt
  let src := (s.beatSrc w.cmd u ks).over f.scales
  let (accs, e) := src.blkBeat p (w.cmd.sumKey p) (!b.part) anchor (b.outs p) f.accs bt
  let mine := (u.scaleBuf.filter fun x => x.cmd == w.cmd.id && x.key == ks.1).flatMap (·.cells)
  (⟨accs, if p.a.t.mode = 1 && !p.a.rowRed then keepCells f.scales mine else f.scales⟩, e)

/-- What stops a block as its beats run: an arithmetic error, or a comparison of a tile's sum-check lane (R95, R120, R337). -/
inductive BlkErr
  | arith (e : ArithErr)
  | lane (tile out : Nat)
  deriving DecidableEq, Repr

/-- The sums of beats that have run, with their number and what stopped them. -/
structure Beaten where
  sums : Sums
  beats : Nat
  err : Option BlkErr

/-- Beats in order on a tile, up to the first error, and the lane's comparison after the last (R336). -/
def State.doBeats (s : State) (w : Work) (b : Blk) (p : Prod) (t rs : Nat) (anchor : Int) (f : Sums) (bts : List Beat) : Beaten :=
  let x := bts.foldl (fun (x : Beaten) bt =>
    match x.err with
    | some _ => x
    | none => let (f, e) := s.doBeat w b p (s.tile t) rs anchor x.sums bt; ⟨f, x.beats + 1, e.map .arith⟩) ⟨f, 0, none⟩
  { x with err := x.err.or ((laneFinds x.sums.accs fun _ => true).map (.lane t)) }

/-- A command stops at what its beats met. -/
def State.stopBlk (s : State) (id : CmdId) (e : BlkErr) : State :=
  match e with
  | .arith e => s.abort id e.cause
  | .lane t i => s.laneFault t i

/-- Sums that have received nothing. -/
def Blk.empty (b : Blk) (p : Prod) : Sums := ⟨(b.outs p).map fun _ => Acc.zero, []⟩

/-- The product counter of a sheet, or of a tile's contribution: the most reduction steps delivered to one of its outputs
(R115). DESIGN CHOICE (log 144): the manual gives a sheet one counter, and does not say what it counts where the sub-blocks of
a sparse feed receive different numbers of steps. -/
def accsCnt (l : List Acc) : Nat := l.foldl (fun n a => max n a.cnt) 0

/-! ## Anchors -/

/-- The stored block a beat reads at a position, for the fused anchor survey of sparse operands (R208). -/
def slotsOf (beats : List Beat) (first : Bool) (r kb : Nat) : List (Option Nat) :=
  (beats.filter fun b => (if first then b.1.1 else b.1.2) == r / 32 && b.2.1 == kb).map fun b => if first then b.2.2.1 else b.2.2.2

/-- The anchor of a block (R118, R124, R143): the region's where it drains into a long-valued one, FIXED, or the survey of
its operands over the whole reduction. -/
def State.blkAnchor (s : State) (c : Cmd) (p : Prod) (b : Blk) : Int :=
  if !p.fair then 0
  else
    let m := s.metaSrc c
    let survey :=
      let beats := m.blkBeats p { b with s0 := 0, s1 := p.strips } false
      let rs := span b.r0 (min (b.r0 + b.rn) p.mo)
      let cs := span b.c0 (min (b.c0 + b.cn) p.no)
      let ks := List.range p.kr
      let ea := m.operandMax p.a p.mapA rs ks (slotsOf beats true)
      let eb := m.operandMax p.b p.mapB cs ks (slotsOf beats false)
      match ea, eb with
      | some x, some y => x + y - 1
      | _, _ => 0
    let field := if c.anchorSrc = 1 then c.anchor else survey
    match p.dst with
    | .region _ i => let r := s.region c.ctx i; if r.long then r.anchor else field
    | .slab => c.anchor
    | _ => field

/-- The blocks of one unit of output: a sheet's block with its parts (R212), or a partial block. -/
def Work.unit (w : Work) (b : Blk) : List Nat :=
  (List.range w.bs.length).filter fun i => let x := w.bs.getD i default; x.prod == b.prod && x.r0 == b.r0 && x.c0 == b.c0

/-- The anchor a block has received: one for all its tiles, slabs and parts. -/
def State.anchorKept (s : State) (w : Work) (b : Blk) : Option Int :=
  ((s.arrs.getD w.arr Arr.init).anchors.find? fun x => some x.1 == (w.unit b).head?).map (·.2)

/-- The anchor of a block: the one it has received, or the one it receives now (R45, R118, R125, R143). -/
def State.anchorOf (s : State) (w : Work) (p : Prod) (b : Blk) : Int := (s.anchorKept w b).getD (s.blkAnchor w.cmd p b)

/-- A Fair block receives its anchor, once. -/
def State.fixAnchor (s : State) (w : Work) (n : Nat) : State :=
  match w.blk n with
  | some (b, p) =>
    match (w.unit b).head? with
    | some i =>
      if !p.fair || (s.anchorKept w b).isSome then s
      else { s with arrs := updAt s.arrs w.arr fun a => { a with anchors := a.anchors ++ [(i, s.blkAnchor w.cmd p b)] } }
    | none => s
  | none => s

/-- Every block of an operation receives its anchor: the fused survey reads the operands ahead of the sheets (R143). -/
def State.fixAnchors (s : State) (w : Work) : State := (List.range w.bs.length).foldl (fun s n => s.fixAnchor w n) s

/-! ## Blocks filled to their end -/

/-- The sheet that holds a block, with its tile. -/
def State.sheetOf (s : State) (id : CmdId) (t n : Nat) : Option Sheet :=
  (s.tile t).sheets.find? fun x => x.cmd == some id && x.blk == n

/-- What a block, or one reduction slab of it, comes to: its sum, the beats each tile runs for it, and what stopped it. -/
structure Filled where
  sum : BlkSum
  beats : List (Nat × Nat)
  err : Option BlkErr

/-- A sheet's block filled to its end: from its sheet where it has begun, else from nothing (R51). -/
def State.fillSheet (s : State) (w : Work) (n : Nat) (b : Blk) (p : Prod) : Filled :=
  let (anchor, f, step) : Int × Sums × Nat := match s.sheetOf w.cmd.id b.tile n with
    | some (sh : Sheet) => (if sh.st == .anchoring then s.anchorOf w p b else sh.anchor, ⟨sh.accs, sh.scales⟩, sh.step)
    | none => (s.anchorOf w p b, b.empty p, 0)
  let x := s.doBeats w b p b.tile 0 anchor f ((s.beatsOf w.cmd p b).drop step)
  ⟨⟨n, 0, anchor, (List.zip (b.outs p) x.sums.accs).map fun y => y.2.finish p (w.cmd.sumKey p) y.1.1 y.1.2, accsCnt x.sums.accs,
    x.sums.scales⟩, [(b.tile, x.beats)], x.err⟩

/-- The tile in column y of a partial block's tile row. -/
def State.partTile (s : State) (w : Work) (b : Blk) (p : Prod) (y : Nat) : Nat := s.tileAt w.arr (p.rr + b.tile) (p.rc + y)

/-- The column of a tile within the rectangle of a product's tile row. -/
def State.colOf (s : State) (arr : Nat) (p : Prod) (x t : Nat) : Option Nat :=
  (List.range p.rw).find? fun y => s.tileAt arr (p.rr + x) (p.rc + y) == t

/-- The beats of a partial block on a tile in one reduction slab. -/
def State.refBeats (s : State) (w : Work) (t : Nat) (r : PartRef) : List Beat :=
  match w.blk r.blk with
  | some (b, p) => match s.colOf w.arr p b.tile t with | some y => partBeats p b r.slab y | none => []
  | none => []

/-- The partial block in turn on a tile: the first of its queue that has beats there. -/
def State.turnRef (s : State) (w : Work) (t : Nat) : Option PartRef :=
  (s.tile t).pjobs.find? fun r => r.cmd == w.cmd.id && !(s.refBeats w t r).isEmpty

/-- A tile's contribution to a row partial (R45): the one that waits for its link, else the sum of its beats, from those it
has run; with the beats it runs for it and what stops them. -/
def State.ownPart (s : State) (w : Work) (b : Blk) (p : Prod) (r : PartRef) (y : Nat) (anchor : Int) :
    Partial × Nat × Option BlkErr :=
  let t := s.partTile w b p y
  let u := s.tile t
  match u.ready.find? fun x => x.ref == r with
  | some x => (x, 0, none)
  | none =>
    let began := u.dbeats != 0 && s.turnRef w t == some r
    let x := s.doBeats w b p t r.slab (if began then u.panchor else anchor)
      (if began then ⟨u.pdx, u.pscales⟩ else b.empty p) ((partBeats p b r.slab y).drop (if began then u.dbeats else 0))
    (⟨r, if began then u.panchor else anchor, x.sums.accs, accsCnt x.sums.accs, x.sums.scales⟩, x.beats, x.err)

/-! ### Row partials in flits (R45, R82) -/

/-- Values of an output block in one flit of its row partial: 128 B of FP32 or integer values, or of long ones. -/
def Prod.flitVals (p : Prod) : Nat := if p.fair then 8 else 32

/-- Flits of the row partial of a block. -/
def Blk.flits (b : Blk) (p : Prod) : Nat := max 1 (cdiv (b.outs p).length p.flitVals)

/-- The part of a block's list that a flit covers. -/
def Prod.slice {α : Type} (p : Prod) (i : Nat) (l : List α) : List α := (l.drop (i * p.flitVals)).take p.flitVals

/-- A partial value as it travels: an FP32 or integer code of 32 bits, or a long one of 128 (R45). -/
def Acc.code (a : Acc) (p : Prod) : Nat :=
  if p.fair then unsigned 128 a.long else if p.int then unsigned 32 a.long else fp32Code a.run

/-- The value of a code. -/
def Acc.ofCode (a : Acc) (p : Prod) (v : Nat) : Acc :=
  if p.fair then { a with long := signed 128 v } else if p.int then { a with long := signed 32 v } else { a with run := Fmt.fp32.decode v }

/-- The parity of a number of up to 128 bits. -/
def parityNat (v : Nat) : Bool := [64, 32, 16, 8, 4, 2, 1].foldl (fun x k => x ^^^ (x >>> k)) v % 2 == 1

/-- The even-parity bit over a flit's values (R82). -/
def partParity (p : Prod) (l : List Acc) : Bool := l.foldl (fun b a => b != parityNat (a.code p)) false

/-- Flit i of a row partial. -/
def Partial.flit (x : Partial) (p : Prod) (n i : Nat) : PFlit :=
  let vs := p.slice i x.accs
  ⟨x.ref, i, x.anchor, vs, x.cnt, if i + 1 = n then x.scales else [], partParity p vs⟩

/-- A tile adds its contribution to a flit of the partial that arrives (R45, R111, R115). -/
def PFlit.add (x : PFlit) (own : Partial) (w : Work) (b : Blk) (p : Prod) : PFlit :=
  let vs := (List.zip (p.slice x.idx (b.outs p)) (List.zip x.accs (p.slice x.idx own.accs))).map fun z =>
    z.2.1.addPart z.2.2 p (w.cmd.sumKey p) z.1.1 z.1.2
  { x with
    accs := vs, cnt := cntAdd x.cnt own.cnt, parity := partParity p vs
    scales := if x.idx + 1 = b.flits p then keepCells x.scales own.scales else x.scales }

/-- A row partial from all its flits, in order. -/
def joinFlits (r : PartRef) (fs : List PFlit) : Partial :=
  ⟨r, (fs.head?.map (·.anchor)).getD 0, fs.flatMap (·.accs), (fs.head?.map (·.cnt)).getD 0, fs.flatMap (·.scales)⟩

/-- The partial the west-edge tile starts for a reduction slab: zero, or the running sum of the partial slab (R45, R46). -/
def State.westPart (s : State) (w : Work) (r : PartRef) (b : Blk) (p : Prod) : Option Partial :=
  if r.slab = 0 then some ⟨r, s.anchorOf w p b, (b.empty p).accs, 0, []⟩
  else ((s.arrs.getD w.arr Arr.init).slab.find? fun x => x.blk == r.blk && x.slabs == r.slab).map fun x =>
    ⟨r, x.anchor, x.accs, x.cnt, x.scales⟩

/-- Where a flit of a block's row partial stands: its reduction slab, the column of the tile it waits at, and the flit. -/
def State.partAt (s : State) (w : Work) (n : Nat) (b : Blk) (p : Prod) (i : Nat) : Nat × Nat × PFlit :=
  let ref := fun rs => (⟨w.cmd.id, n, rs⟩ : PartRef)
  let here := (List.range p.redSlabs).findSome? fun rs => (List.range p.rw).findSome? fun y =>
    ((s.tile (s.partTile w b p y)).partIn.find? fun x => x.ref == ref rs && x.idx == i).map fun x => (rs, y, x)
  let a := s.arrs.getD w.arr Arr.init
  match here, a.edge.find? fun x => x.ref.blk == n && x.idx == i, a.slab.find? fun x => x.blk == n with
  | some x, _, _ => x
  | none, some x, _ => (x.ref.slab + 1, 0, x)
  | none, none, some x => (x.slabs, 0, (⟨ref x.slabs, x.anchor, x.accs, x.cnt, x.scales⟩ : Partial).flit p (b.flits p) i)
  | none, none, none => (0, 0, (⟨ref 0, s.anchorOf w p b, (b.empty p).accs, 0, []⟩ : Partial).flit p (b.flits p) i)

/-- The partial slab takes the running sum of a block (R46). -/
def State.putSlab (s : State) (arr : Nat) (x : BlkSum) : State :=
  { s with arrs := updAt s.arrs arr fun a => { a with slab := (a.slab.filter fun y => y.blk != x.blk) ++ [x] } }

/-- The flits of a row partial leave the links and the drain bus. -/
def State.dropFlits (s : State) (arr : Nat) (r : PartRef) : State :=
  { s with
    tiles := s.tiles.map fun (u : Tile) => { u with partIn := u.partIn.filter fun x => x.ref != r }
    arrs := updAt s.arrs arr fun a => { a with edge := a.edge.filter fun x => x.ref != r } }

/-- A partial block carried through one reduction slab: its flits through the tiles they have still to pass there; none where all
have passed it (R45, R46). -/
def State.fillPart (s : State) (w : Work) (n rs : Nat) (b : Blk) (p : Prod) : Option Filled :=
  let r : PartRef := ⟨w.cmd.id, n, rs⟩
  let fs := (List.range (b.flits p)).map (s.partAt w n b p)
  let late := fun (y : Nat) (f : Nat × Nat × PFlit) => decide (f.1 < rs ∨ (f.1 = rs ∧ f.2.1 ≤ y))
  if fs.all fun f => decide (rs < f.1) then none
  else
    let (gs, ks, e) := (List.range p.rw).foldl (fun (a : List (Nat × Nat × PFlit) × List (Nat × Nat) × Option BlkErr) y =>
      if a.2.2.isSome || !a.1.any (late y) then a
      else
        let (own, k, e) := s.ownPart w b p r y (s.anchorOf w p b)
        (a.1.map fun f => if late y f then (f.1, f.2.1, f.2.2.add own w b p) else f, a.2.1 ++ [(s.partTile w b p y, k)], e)) (fs, [], none)
    let x := joinFlits r (gs.map (·.2.2))
    some ⟨⟨n, rs + 1, x.anchor, x.accs, x.cnt, x.scales⟩, ks, e⟩

/-- The cycles of the beats that tiles run for a product count for their channels (R367). -/
def State.countFill (s : State) (p : Prod) (beats : List (Nat × Nat)) : State :=
  beats.foldl (fun s x =>
    if x.2 = 0 then s else s.countWork 0 (s.build.size.chanOf x.1) (x.2 * beatCycles p.a.t.fmt p.b.t.fmt p.fair) []) s

/-- Fill a block, or one reduction slab of a partial block, from what its events have done so far (R45, R51). -/
def State.fillBlk (s : State) (w : Work) (n rs : Nat) (b : Blk) (p : Prod) : Option Filled :=
  if b.part then s.fillPart w n rs b p else some (s.fillSheet w n b p)

/-- Blocks of a command with the reduction slabs they run in, in the order the tiles run them: products one after the other, in each
the slabs of the permutable loop, in a slab of it the reduction slabs, and in each of those the blocks (R76). GP_PAIR takes both
products of an n-slab of a k-slab together (R42, R53). -/
def Work.runOrder (w : Work) (ns : List Nat) : List (Nat × Nat) :=
  let key := fun (x : Nat × Nat) =>
    match w.blk x.1 with
    | some (b, p) =>
      if w.cmd.op = 1 then (p.group, if b.part then b.slab * p.redSlabs + x.2 else b.slab, b.prod)
      else (b.prod, b.slab, x.2)
    | none => (0, 0, 0)
  let le := fun (x y : Nat × Nat) =>
    let (a, b) := (key x, key y)
    decide (a.1 < b.1 ∨ (a.1 = b.1 ∧ (a.2.1 < b.2.1 ∨ (a.2.1 = b.2.1 ∧ a.2.2 ≤ b.2.2))))
  sortBy le (ns.flatMap fun n => match w.blk n with
    | some (b, p) => if b.part then (List.range p.redSlabs).map fun rs => (n, rs) else [(n, 0)]
    | none => [])

/-! ## Storing -/

/-- Write bytes of a command to memory: its record waits for the responses of their lines (R219). -/
def State.writeOwed (s : State) (id : CmdId) (ws : List (Nat × Byte)) : State :=
  ((s.bulkWrite ws).updCmd id fun c => { c with owed := c.owed ++ linesOfWrites ws }).memAdd (wrsOf (.cmd id) ws)

/-- Write fields of bits of a command's destination. -/
def State.putFields (s : State) (id : CmdId) (fs : List (Nat × Nat × Nat)) : State := s.writeOwed id (s.packBits fs)

/-- Add to a command's counts. -/
def State.count (s : State) (id : CmdId) (f : Counts → Counts) : State := s.updCmd id fun c => { c with counts := f c.counts }

/-- The draws of a product's conversions. -/
def Cmd.draws (c : Cmd) (p : Prod) : Draws := ⟨c.key, p.slot, p.group, c.run.free⟩

/-- What one element of a region becomes under a drain, as stored bits, and whether a long element saturated, a truncation
changed the value, and the new value is not finite (R58, R60, R121, R123, R186). -/
structure RegionStep where
  bits_ : Nat
  sat : Bool
  cut : Bool
  bad : Bool
  skip : Bool
  deriving DecidableEq, Repr, Inhabited

/-- A command has drained into a region. -/
def Cmd.touch (c : Cmd) (idx : Nat) (first : Bool) : Cmd :=
  if c.touched.contains idx then c
  else { c with touched := c.touched ++ [idx], firsts := if first then c.firsts ++ [idx] else c.firsts }

/-- A command writes what it drains into a FRESH region, unless another has drained into it first (R59). -/
def State.firstInto (s : State) (c : Cmd) (r : Region) : Bool :=
  r.rstate == 0 && s.cmds.all fun y => y.id == c.id || y.ctx != c.ctx || !y.firsts.contains r.idx

/-- The elements of a region's tensor that a drain of the command leaves out, because they lie outside its actual extents,
copied as they stand into the copy of a SHADOW region it writes (R62, R185). -/
def State.carryOver (s : State) (p : Prod) (r : Region) (t : TDesc) : List (Nat × Nat × Nat) :=
  if !r.shadow then []
  else
    let eb := if r.long then 128 else 32
    ((List.range t.rows).flatMap fun i => (List.range t.e0).map fun j => (i, j)).filterMap fun x =>
      if x.1 < p.mo && x.2 < p.no then none
      else
        let a := t.bitAt eb x.1 x.2 / 8
        some (r.writeAt a * 8, eb, s.bulkLE (r.readAt a) (eb / 8))

/-- The first drain of a command into a region begins (R59, R63). -/
def State.touchRegion (s : State) (id : CmdId) (idx : Nat) : State :=
  match s.cmd id with
  | none => s
  | some c => let first := s.firstInto c (s.region c.ctx idx); s.updCmd id fun x => x.touch idx first

/-- With the first block that a command stores into a SHADOW region go the elements its blocks leave out (R62, R185). -/
def State.carryRegion (s : State) (id : CmdId) (p : Prod) (t : TDesc) (idx : Nat) : State :=
  match s.cmd id with
  | none => s
  | some c =>
    let fs := s.carryOver p (s.region c.ctx idx) t
    if fs.isEmpty || c.carried.contains idx then s
    else (s.putFields id fs).updCmd id fun x => { x with carried := x.carried ++ [idx] }

/-- One element's drain into a region; fresh: it counts as zero. DESIGN CHOICE (log 184): a long element that held a marker before
this drain is not counted again as one that saturated; R122 does not say whether it is. With no reduction an OPEN region is unchanged, which in the
copy that a SHADOW region's drain writes means the value it had (R62, R186). -/
def Bytes.regionStep (m : Bytes) (c : Cmd) (p : Prod) (r : Region) (fresh : Bool) (a : Nat) (o : OutVal) : RegionStep :=
  let n := if r.long then 16 else 4
  if p.kr = 0 && !fresh then ⟨m.le (r.readAt a) n, false, false, false, !r.shadow⟩
  else if r.long then
    let (v, cut) := longScaled o.long o.scale
    let old := if fresh then 0 else signed 128 (m.le (r.readAt a) 16)
    let v' := longAdd old v
    ⟨unsigned 128 v', isMarker v' && !isMarker old, cut, false, false⟩
  else
    let v := if p.fair then r32 o.val else o.val
    let old := if fresh then XVal.zero else Fmt.fp32.decode (m.le (r.readAt a) 4)
    let x := sr32 (draw c.key o.row o.col kgDrain p.slot p.group) (old.add v)
    ⟨fp32Code x, false, false, !x.isFin, false⟩

/-- What a drain has written to a region is what a later drain of the context finds, be its line on the way to that drain already
(R61). -/
def State.regionWritten (s : State) (ctx : Nat) (ws : List Host.Cell) : State :=
  let new := fun (x : Host.Cell) => (ws.find? fun w => w.1 == x.1).getD x
  { s with cmds := s.cmds.map fun y => if y.ctx = ctx then { y with regIn := y.regIn.map new } else y }

/-- The lines delivered toward the drain of a command's region, as far as no drain has used them. -/
def State.regKept (s : State) (id : CmdId) : List Host.Cell := ((s.cmd id).map (·.regIn)).getD []

/-- Bits of an element of a region. -/
def Region.elBits (r : Region) : Nat := if r.long then 128 else 32

/-- The byte ranges of the committed elements that outputs are added to. -/
def Region.reads (r : Region) (t : TDesc) (os : List OutVal) : List (Nat × Nat) :=
  os.map fun o => (r.readAt (t.bitAt r.elBits o.row o.col / 8), r.elBits / 8)

/-- The drain into a region before its outputs are added: it has begun, what its blocks leave out is carried over, and the elements that
the feeders have not delivered are read (R59, R62, R215). -/
def State.drainReady (s : State) (c : Cmd) (p : Prod) (t : TDesc) (idx : Nat) (os : List OutVal) : State :=
  let s := (s.touchRegion c.id idx).carryRegion c.id p t idx
  s.readBytes (((s.region c.ctx idx).reads t os).filter fun x => !(s.regKept c.id).any fun d => d.1 == x.1)

/-- What each output makes of its element (R58, R61). -/
def State.regionSteps (s : State) (c : Cmd) (p : Prod) (t : TDesc) (idx : Nat) (os : List OutVal) : List (OutVal × RegionStep) :=
  let r := s.region c.ctx idx
  let m := s.bulk.over (s.regKept c.id)
  os.map fun o => (o, m.regionStep c p r (s.firstInto c r) (t.bitAt r.elBits o.row o.col / 8) o)

/-- The fields a drain writes in a region: each element at its place, in a SHADOW region in the copy that is written (R58, R62). -/
def Region.writes (r : Region) (t : TDesc) (steps : List (OutVal × RegionStep)) : List (Nat × Nat × Nat) :=
  steps.filterMap fun x =>
    if x.2.skip then none else some (r.writeAt (t.bitAt r.elBits x.1.row x.1.col / 8) * 8, r.elBits, x.2.bits_)

/-- Drain outputs into a region (R57 to R62): each block is read, added and written in one step (R61). A line the feeders have
delivered toward the drain is read no more: its bytes are those it held then (R215). -/
def State.drainRegion (s : State) (c : Cmd) (p : Prod) (t : TDesc) (idx : Nat) (os : List OutVal) : State :=
  if os.isEmpty then s
  else
    let s := s.drainReady c p t idx os
    let r := s.region c.ctx idx
    let rs := r.reads t os
    let steps := s.regionSteps c p t idx os
    let fs := r.writes t steps
    let n := fun (f : RegionStep → Bool) => (steps.filter fun x => f x.2).length
    let s := (s.putFields c.id fs).regionWritten c.ctx (s.packBits fs)
    let s := s.updCmd c.id fun y => { y with regIn := y.regIn.filter fun d => !rs.any fun x => decide (x.1 ≤ d.1 ∧ d.1 < x.1 + x.2) }
    s.count c.id fun k => { k with
      satRegion := k.satRegion + n (·.sat), trunc := k.trunc + n (·.cut), watch := k.watch || (t.watch && n (·.bad) != 0) }

/-- Apply a fused derivative to outputs: rows are taken whole where the function needs them (R175). -/
def State.fuseOuts (s : State) (c : Cmd) (p : Prod) (os : List OutVal) : List OutVal :=
  match p.saved with
  | none => os
  | some t =>
    let rows := os.foldl (fun l o => if l.contains o.row then l else l ++ [o.row]) ([] : List Nat)
    rows.flatMap fun r =>
      let row := sortBy (fun a b => decide (a.col ≤ b.col)) (os.filter fun o => o.row == r)
      let sv := row.map fun o => r32 (s.scaledVal t o.row o.col)
      let acc := row.map (·.val)
      let vals := if c.fn = 8 || c.fn = 9 then derivRow c.fn c.alpha sv (acc.map r32) else derivRow c.fn c.alpha acc sv
      (List.zip row vals).map fun x => { x.1 with val := x.2 }

/-- The byte ranges of a tensor's elements that a fused derivative reads for outputs. -/
def Prod.savedReads (p : Prod) (os : List OutVal) : List (Nat × Nat) :=
  match p.saved with
  | some t => os.map fun o => (t.bitAt t.fmt.storeBits o.row o.col / 8, cdiv t.fmt.storeBits 8)
  | none => []

/-- The contribution an output makes to the merge slab (R193): its long value, or its FP32 value. DESIGN CHOICE (log 143): the
manual does not say how a value that dY's ROW scale has multiplied is narrowed. Under Fair the long value is truncated to the
grid of the anchor and the truncation is not counted; under Draft a value that FP32 does not hold becomes a free value, a
function of the output. -/
def OutVal.contrib (o : OutVal) (p : Prod) (row : Nat) : Contrib :=
  let x := r32 o.val
  let val := if sameVal x o.val then x
    else Fmt.fp32.decode (Config.groupValue ([o.row, o.col, p.group, row] ++ o.val.nums) % 4294967296)
  ⟨o.row, o.col, p.group, row, val, if o.sat then o.long else (longScaled o.long o.scale).1⟩

/-- Add contributions to the merge slab of a GP_GROUPED. -/
def State.addContribs (s : State) (id : CmdId) (cs : List Contrib) : State :=
  { s with arrs := s.arrs.map fun a => if a.op = some id then { a with contrib := a.contrib ++ cs } else a }

/-- What a command counts of finished outputs before they are stored (R114, R121, R122). An output that goes to the merge slab
counts as saturated with its dX element (R122). DESIGN CHOICE (log 145): an integer output that saturated counts as an overflow
beside one that its conversion meets; the manual does not say whether the two are one. -/
def State.countOuts (s : State) (id : CmdId) (p : Prod) (vs : List OutVal) : State :=
  s.count id fun k => { k with
    longsum := k.longsum || (!p.int && vs.any fun o => decide (longsumLimit p.fair < o.cnt))
    ovf := k.ovf + (if p.int then (vs.filter (·.sat)).length else 0)
    satOut := k.satOut + (if p.fair && p.dst != .slab then (vs.filter (·.sat)).length else 0)
    trunc := vs.foldl (fun n o => n + o.trunc) k.trunc }

/-- Write finished outputs of a product, each with its row in it, where its destination is (R112, R123, R193). -/
def State.putOuts (s : State) (c : Cmd) (p : Prod) (os : List (Nat × OutVal)) : State :=
  let vs := os.map (·.2)
  match p.dst with
  | .plain t =>
    let s := s.readBytes (p.savedReads vs)
    let fs := s.fuseOuts c p vs
    let st := s.convertAll t (t.given (c.switch 7)) (c.draws p) (fs.map fun o => (o.row, o.col, o.val))
    (s.putFields c.id st.fields).count c.id fun k => k.tally st.tally t.watch
  | .raw t => s.putFields c.id (vs.map fun o => (t.bitAt 128 o.row o.col, 128, unsigned 128 o.long))
  | .region t i => s.drainRegion c p t i vs
  | .slab => s.addContribs c.id (os.map fun o => o.2.contrib p o.1)

/-- Store finished outputs of a product. -/
def State.storeOuts (s : State) (c : Cmd) (p : Prod) (os : List (Nat × OutVal)) : State :=
  (s.countOuts c.id p (os.map (·.2))).putOuts c p os

/-! ## Blocks that finish -/

/-- The scale group, or the rows of a fused row softmax, that an output waits for (R139, R175); none where it waits for
nothing. -/
def Cmd.groupOf (c : Cmd) (p : Prod) (row col : Nat) : Option Nat :=
  match p.dst with
  | .plain t =>
    let soft := p.saved.isSome && c.fn == 6
    let survey := t.mode != 0 && !t.given (c.switch 7)
    if soft then some (if survey && t.mode = 5 then row / t.e1 * cdiv t.e1 32 + row % t.e1 / 32 else row)
    else if survey then some (t.scaleIdx row col)
    else none
  | _ => none

/-- The products whose outputs go to one destination: the phases of a CONV_DATA, else the product alone. -/
def Work.mates (w : Work) (i : Nat) : List Nat := if w.cmd.op = 6 then List.range w.ps.length else [i]

/-- The scale groups of a block's outputs, each once. -/
def Work.groups (w : Work) (n : Nat) : List Nat :=
  match w.blk n with
  | some (b, p) => (b.outs p).foldl (fun l o =>
      match w.cmd.groupOf p (p.rowOf o.1) o.2 with
      | some g => if l.contains g then l else l ++ [g]
      | none => l) []
  | none => []

/-- The outputs of a unit from the sums held for it, the parts of a split sheet joined in order (R126), each with its row in
the product. -/
def State.unitOuts (s : State) (w : Work) (held : List BlkSum) (n : Nat) : List (Nat × OutVal) :=
  match w.blk n with
  | none => []
  | some (b, p) =>
    let num := fun (x : BlkSum) => (w.bs.getD x.blk default).num
    let parts := sortBy (fun x y => decide (num x ≤ num y)) (held.filter fun x => (w.unit b).contains x.blk)
    let outs := b.outs p
    let cells := parts.foldl (fun l x => keepCells l x.scales) []
    let cnt := parts.foldl (fun k x => cntAdd k x.cnt) 0
    let anchor := (parts.head?.map (·.anchor)).getD 0
    let m := (s.metaSrc w.cmd).over cells
    (List.range outs.length).map fun i =>
      let o := outs.getD i (0, 0)
      let a := joinParts p (w.cmd.sumKey p) o.1 o.2 (parts.map fun y => y.accs.getD i Acc.zero)
      (o.1, { m.outVal p anchor o.1 o.2 a with cnt := cnt })

/-- Set the blocks that an operation's drains hold. -/
def State.setHeld (s : State) (id : CmdId) (h : List BlkSum) : State :=
  { s with arrs := s.arrs.map fun a => if a.op = some id then { a with held := h } else a }

/-- The blocks an operation's drains hold. -/
def State.heldOf (s : State) (id : CmdId) : List BlkSum := ((s.arrs.find? fun a => a.op == some id).map (·.held)).getD []

/-- The channel whose drain a block leaves through: that of its tile, or of the east edge of its product's rectangle (R79, R174). -/
def State.drainCh (s : State) (c : Cmd) (p : Prod) (b : Blk) : Nat :=
  s.build.size.chanOf (if b.part then s.tileAt (c.run.arr.getD 0) (p.rr + b.tile) (p.rc + p.rw - 1) else b.tile)

/-- The lines a command has come to owe beyond so many, noted with the channel whose drain wrote them (R348). -/
def State.noteWrites (s : State) (id : CmdId) (n ch : Nat) : State :=
  s.updCmd id fun y => { y with wrote := y.wrote ++ (y.owed.drop n).map fun l => (l, ch) }

/-- A block has drained, or the drains hold it. -/
def Cmd.there (c : Cmd) (held : List BlkSum) (i : Nat) : Bool := c.drained.contains i || held.any fun h => h.blk == i

/-- The scale groups of a block that blocks still to come hold part of (R139). -/
def Work.openGroups (w : Work) (c : Cmd) (held : List BlkSum) (n : Nat) (b : Blk) : List Nat :=
  let rest := (List.range w.bs.length).filter fun i =>
    let y := w.bs.getD i default
    (w.mates b.prod).contains y.prod && !(w.unit y).all (c.there held)
  if (w.groups n).isEmpty then [] else rest.flatMap w.groups

/-- The outputs that a finished block stores: those of its unit, and with the scale groups it completes their outputs in the units
that the drains hold (R139, R212). -/
def State.doneOuts (s : State) (c : Cmd) (w : Work) (held : List BlkSum) (n : Nat) (b : Blk) : List (Nat × OutVal) :=
  let mine := w.groups n
  let open_ := w.openGroups c held n b
  let closed := fun (g : Option Nat) => match g with | some g => !open_.contains g | none => true
  let units := (List.range w.bs.length).filter fun i =>
    let y := w.bs.getD i default
    y.num == 0 && (i == (w.unit b).headD n || (!mine.isEmpty && (w.mates b.prod).contains y.prod
      && held.any (fun h => h.blk == i) && (w.unit y).all (c.there held)))
  units.flatMap fun i => (s.unitOuts w held i).filter fun o =>
    match w.blk i with
    | some (_, q) =>
      let g := c.groupOf q o.2.row o.2.col
      closed g && (match g with | some g => mine.contains g | none => true)
    | none => false

/-- A drain that is still to complete uses a reservation of scratch (R46, R143, R193, R211, R218). -/
def State.shareUsed (s : State) (w : Work) (k : ShareKind) : Bool :=
  let left := (List.range w.bs.length).filter fun n => !((s.cmd w.cmd.id).map (·.drained)).any fun d => d.contains n
  match k with
  | .pair => w.cmd.op == 5 || left.any fun n => (w.prod n).any fun p => p.slabNeed != 0 && decide (p.slabNeed ≤ s.pairShare)
  | .steal => left.any fun n => decide (1 < (w.unit (w.bs.getD n default)).length)
  | .map => !left.isEmpty

/-- Shares of scratch are released when the last drain of the operation that uses them completes (R218). -/
def State.freeShares (s : State) (w : Work) : State :=
  { s with arrs := s.arrs.map fun a =>
      if a.op = some w.cmd.id then { a with shares := a.shares.filter fun x => s.shareUsed w x.kind } else a }

/-- A block is finished. Its outputs are stored with the scale groups they complete; it has drained once every group it holds
part of is complete, and its unit with it; the joined value of a split sheet leaves through its owner's drain (R139, R212). -/
def State.finishBlk (s : State) (c : Cmd) (w : Work) (x : BlkSum) : State :=
  match w.blk x.blk with
  | none => s
  | some (b, p) =>
    let held := s.heldOf c.id ++ [x]
    let unit := w.unit b
    if !unit.all (c.there held) then s.setHeld c.id held
    else
      let mine := w.groups x.blk
      let open_ := w.openGroups c held x.blk b
      let n := ((s.cmd c.id).map (·.owed.length)).getD 0
      let owner := w.bs.getD (unit.headD x.blk) b
      let s := (s.storeOuts c p (s.doneOuts c w held x.blk b)).noteWrites c.id n (s.drainCh c p owner)
      let done := (held.map (·.blk)).filter fun i => if mine.isEmpty then unit.contains i else ( match w.blk i with
        | some (y, _) => (w.mates b.prod).contains y.prod && (w.unit y).all (c.there held) && (w.groups i).all fun g => !open_.contains g
        | none => false)
      let s := s.setHeld c.id (held.filter fun h => !done.contains h.blk)
      (s.updCmd c.id fun y => { y with drained := y.drained ++ done }).freeShares w

/-- The sum of a block is done, or of a reduction slab of it: the partial slab takes it, or after the last one the block is finished. -/
def State.filledBlk (s : State) (c : Cmd) (w : Work) (rs : Nat) (b : Blk) (p : Prod) (x : BlkSum) : State :=
  let s := if b.part then s.dropFlits w.arr ⟨c.id, x.blk, rs⟩ else s
  if b.part && rs + 1 != p.redSlabs then s.putSlab w.arr x
  else
    let s := s.finishBlk c w x
    { s with arrs := updAt s.arrs w.arr fun a => { a with slab := a.slab.filter fun y => y.blk != x.blk } }

/-- Run the blocks of a command that are still to drain, in the order given, until one meets an error (R95, R120). -/
def State.runBlks (w : Work) : List (Nat × Nat) → State → State
  | [], s => s
  | (n, rs) :: ns, s =>
    match s.cmd w.cmd.id, w.blk n with
    | some c, some (b, p) =>
      if c.phase != .begun then s
      else if c.drained.contains n || (s.heldOf c.id).any (fun h => h.blk == n) then State.runBlks w ns s
      else
        let s := s.fixAnchor w n
        match s.fillBlk w n rs b p with
        | none => State.runBlks w ns s
        | some x =>
          let s := s.countFill p x.beats
          match x.err with
          | some e => s.stopBlk c.id e
          | none => State.runBlks w ns (s.filledBlk c w rs b p x.sum)
    | _, _ => s

end Sys2Proof.Machine
end

