-- ==== Sys2Proof/Machine/ArrayOps.lean ====
section
/-! DEFINITION. The operations of the array and the Spur, each run to its end from the blocks still to drain: GP_PAIR,
GP_DATA, GP_WEIGHT, MM, CONV_DATA, CONV_WEIGHT, MATVEC and GP_GROUPED (R35, R42, R66, R67, R87, R88, R186 to R197). -/

namespace Sys2Proof.Machine

open Sys2Proof

/-- Apply a change to a begun command of an opcode; nothing where it is not there, not begun, or held by a self-test. -/
def State.runOp (s : State) (id : CmdId) (op : Nat) (f : Cmd → State) : State :=
  match s.cmd id with
  | some c => if s.alive && c.phase == .begun && c.op == op then f c else s
  | none => s

/-- A full self-test that preempts waits for the sheets: no new output block is assigned (R356). -/
def State.preempting (s : State) : Bool :=
  s.tst.fullQ.any fun id => match s.cmd id with | some c => c.phase == .begun && c.fld 0x40 1 1 == 1 | none => false

/-- The array of a command is held by a self-test (R354, R356). -/
def State.held (s : State) (c : Cmd) : Bool :=
  match c.run.arr with | some a => (s.arrs.getD a Arr.init).paused || s.preempting | none => false

/-- The work of a command is done: its unit is free, and its record waits for the write responses it owes (R219). -/
def State.finishRun (s : State) (id : CmdId) : State :=
  let s := (s.updCmd id fun c => { c with phase := if c.phase == .begun then .done else c.phase }).freeUnits id
  { s with arrs := s.arrs.map (Arr.leave id) }

/-- The lines a feeder thread has still to fetch. -/
def Thread.left (th : Thread) : List Nat := (th.outst.filter fun o => !o.2).map (·.1) ++ th.todo.map (·.line)

/-- The feeders fetch what a command's sequences have still to fetch (R219, R221). -/
def State.feedRest (s : State) (id : CmdId) : State :=
  let left := (s.feed.threads ++ s.feed.queue).flatMap fun l => (l.filter fun th => th.cmd == some id).flatMap Thread.left
  s.readBytes (left.map fun l => (l * 256, 256))

/-- Lines of the Spur buffers as a command has consumed them (R89, R215). -/
def State.spurSrc (s : State) (c : Cmd) : Bytes :=
  ((s.metaSrc c).over (s.inFlight c.id)).over
    (s.feed.spur.flatMap fun l => l.flatMap fun b => if b.1 = c.id then lineCells b.2 else [])

/-- Channels whose Spur lanes serve, with the lanes before each: a spine of every channel in service has its group (R22, R89). -/
def State.spurGroups (s : State) : List (Nat × Nat) :=
  let on := (List.range 4).filter s.chOn
  (List.range on.length).map fun i => (on.getD i 0, i * s.build.size.spurLanes)

/-- Spur lanes in service (R89). -/
def State.spurLanes (s : State) : Nat := s.spurGroups.length * s.build.size.spurLanes

/-- The cycles in which the lanes of each group issue fused multiply-adds for n outputs, spread over all lanes in turn, each a
chain of kr of them (R88, R89, R367; log 146). -/
def State.countSpur (s : State) (n kr : Nat) : State :=
  let all := s.spurLanes
  s.spurGroups.foldl (fun s g => s.countWork 8 g.1 (cdiv (n - g.2) all * kr) []) s

/-- The outputs of a product on the Spur, each with its row in the product: every one in its own lane (R88). -/
def State.spurOuts (s : State) (c : Cmd) (p : Prod) : List (Nat × OutVal) :=
  let m := s.spurSrc c
  (List.range p.mo).flatMap fun r => (List.range p.no).map fun k => (r, ⟨p.rowOf r, k, m.spurVal p r k, 0, 0, XVal.one, false, 0, 0⟩)

/-- A product on the Spur: its outputs are stored as sums of neither Fair nor integer accumulation (R88). -/
def State.spurProd (c : Cmd) (s : State) (p : Prod) : State :=
  (s.countSpur (p.mo * p.no) p.kr).storeOuts c { p with fair := false, int := false } (s.spurOuts c p)

/-- A Spur operation: its products one after the other. -/
def State.runSpur (s : State) (c : Cmd) : State :=
  let s := s.feedRest c.id
  ((s.cmdProds c).foldl (State.spurProd c) s).finishRun c.id

/-! ## Drains in their order (R61) -/

/-- The elements of a region that a block drains into, by their addresses in the first copy. -/
def State.blkAddrs (s : State) (w : Work) (n : Nat) : List Nat :=
  match w.blk n with
  | some (b, p) =>
    match p.dst with
    | .region t i =>
      let eb := if (s.region w.cmd.ctx i).long then 128 else 32
      (b.outs p).map fun o => t.bitAt eb (p.rowOf o.1) o.2 / 8
    | _ => []
  | none => []

/-- The drains under way: the sheets in DRAINING that hold a whole block, and the joined values of split sheets, each as the sheet it
stands for. The drain of one part ends in the steal buffer (R61, R212). -/
def State.drains (s : State) : List Sheet :=
  let whole := fun (sh : Sheet) => match sh.cmd.bind s.cmd with
    | some c => let w := s.work c; (w.bs[sh.blk]?).all fun b => decide ((w.unit b).length ≤ 1)
    | none => true
  (s.tiles.flatMap fun u => u.sheets.filter fun sh => sh.st == .draining && whole sh)
    ++ s.arrs.flatMap fun a => a.joins.map fun j => { Sheet.init with st := .draining, cmd := a.op, blk := j.1, order := j.2 }

/-- A drain that has come before drains into one of the addresses: a drain of its context waits for it (R61). -/
def State.drainsFirst (s : State) (ctx : Nat) (mine : Sheet → Bool) (addrs : List Nat) : Bool :=
  !addrs.isEmpty && s.drains.any fun sh =>
    !mine sh &&
    match sh.cmd.bind s.cmd with
    | some c => c.ctx == ctx && (s.blkAddrs (s.work c) sh.blk).any addrs.contains
    | none => false

/-- Blocks of a command that have not drained wait for a drain of another command that came first (R61). -/
def State.drainHeld (s : State) (w : Work) : Bool :=
  s.drainsFirst w.cmd.ctx (fun sh => sh.cmd == some w.cmd.id)
    (((List.range w.bs.length).filter fun n => !w.cmd.drained.contains n).flatMap (s.blkAddrs w))

/-- An array or Spur operation other than GP_GROUPED runs to its end. -/
def State.runArray (s : State) (c : Cmd) : State :=
  if c.run.spur then s.runSpur c
  else
    let w := s.work c
    if s.held c || s.drainHeld w then s
    else
      let s := State.runBlks w (w.runOrder (List.range w.bs.length)) (s.feedRest c.id)
      match s.cmd c.id with
      | some x => if x.phase == .begun then s.finishRun c.id else s
      | none => s

/-- GP_PAIR: dX = dY·Wᵀ and dW = Xᵀ·dY (R35, R42). -/
def execGpPair (c : CmdId) (s : State) : Host.Outcome State Fault Refusal := .next (s.runOp c 0x01 s.runArray)

/-- GP_DATA: dX = dY·Wᵀ (R35). -/
def execGpData (c : CmdId) (s : State) : Host.Outcome State Fault Refusal := .next (s.runOp c 0x02 s.runArray)

/-- GP_WEIGHT: dW = Xᵀ·dY into a region (R35). -/
def execGpWeight (c : CmdId) (s : State) : Host.Outcome State Fault Refusal := .next (s.runOp c 0x03 s.runArray)

/-- MM: C = A·B (R35). -/
def execMm (c : CmdId) (s : State) : Host.Outcome State Fault Refusal := .next (s.runOp c 0x04 s.runArray)

/-- CONV_DATA: the phases of a convolution's data gradient (R67, R81). -/
def execConvData (c : CmdId) (s : State) : Host.Outcome State Fault Refusal := .next (s.runOp c 0x06 s.runArray)

/-- CONV_WEIGHT: a convolution's weight gradient (R66). -/
def execConvWeight (c : CmdId) (s : State) : Host.Outcome State Fault Refusal := .next (s.runOp c 0x07 s.runArray)

/-- MATVEC: the product on the Spur (R87, R88). -/
def execMatvec (c : CmdId) (s : State) : Host.Outcome State Fault Refusal := .next (s.runOp c 0x08 s.runArray)

/-! ## GP_GROUPED -/

/-- A group without accepted rows whose region is FRESH writes +0 over its range, while its command runs (R196, R197). -/
def State.zeroGroup (s : State) (id : CmdId) (g : GEntry) : State :=
  match s.cmd id with
  | none => s
  | some c =>
    match if g.acc ≠ 0 || c.products < 2 || c.phase != .begun then none else s.groupRegion c g with
    | none => s
    | some r =>
      if !s.firstInto c r then s
      else
        let t := s.groupDesc c 4 g
        let eb := if r.long then 128 else 32
        let cells := (List.range t.e1).flatMap fun i => (List.range t.e0).map fun j => (r.writeAt (t.bitAt eb i j / 8) * 8, eb, 0)
        (s.putFields c.id cells).updCmd c.id fun x => x.touch r.idx true

/-- The order in which contributions reach an element of the merge slab: ascending group, then row, under ORDERED and where the
order makes no difference; else the order of arrival, which is free (R193, R194). DEDUCED (log 147): two rows of one group that
name one token are added in ascending row. -/
def contribLe (c : Cmd) (ordered : Bool) (row col : Nat) (a b : Contrib) : Bool :=
  if ordered || c.fair then decide (a.grp < b.grp) || (a.grp == b.grp && decide (a.row ≤ b.row))
  else decide (Config.arrival c.run.free [row, col, a.grp, a.row] ≤ Config.arrival c.run.free [row, col, b.grp, b.row])

/-- One element of the merge slab from its contributions (R193, R194). The second component says that a long sum saturated. -/
def mergeElem (c : Cmd) (ordered : Bool) (row col : Nat) (cs : List Contrib) : XVal × Bool :=
  let cs := sortBy (contribLe c ordered row col) cs
  if c.fair then
    let v := cs.foldl (fun v x => longAdd v x.long) 0
    if isMarker v then (.nan, true) else (longVal v c.anchor, false)
  else (cs.foldl (fun v x => sr32 (draw c.key row col kgDrain 0 x.grp) (v.add x.val)) XVal.zero, false)

/-- Convert the merge slab into dX (R193): rows without contributions are +0. -/
def State.mergeSlab (s : State) (c : Cmd) : State :=
  let t := s.opd c 0 3
  let cs := ((s.arrs.find? fun a => a.op == some c.id).map (·.contrib)).getD []
  let els := (List.range c.tokens).flatMap fun r => (List.range t.e0).map fun k =>
    (r, k, mergeElem c t.ordered r k (cs.filter fun x => x.tok == r && x.col == k))
  let st := s.convertAll t (t.given (c.switch 7)) ⟨c.key, 0, 0, c.run.free⟩ (els.map fun e => (e.1, e.2.1, e.2.2.1))
  (s.putFields c.id st.fields).count c.id fun k =>
    let k := k.tally st.tally t.watch
    { k with satOut := k.satOut + (els.filter fun e => e.2.2.2).length }

/-- The routing outputs (R192): ROWMAP, TOKSTAT and LOADREC. -/
def State.routing (s : State) (c : Cmd) : State :=
  let gs := s.gentries c
  let rows := gs.flatMap fun g => (List.range g.rows).map fun i => (s.rowTok c g i, decide (g.acc ≤ i))
  let bitsOf := fun (l : List Bool) => l.foldr (fun b n => n * 2 + (if b then 1 else 0)) 0
  let map := leBytes (cdiv (cdiv rows.length 8) 64 * 64) (bitsOf (rows.map (·.2)))
  let stat := fun t =>
    let mine := rows.filter fun r => r.1 == t
    if mine.isEmpty then 3 else if mine.all fun r => !r.2 then 0 else if mine.all fun r => r.2 then 2 else 1
  let tok := leBytes (cdiv c.tokens 4) ((List.range c.tokens).foldr (fun t n => n * 4 + stat t) 0)
  let load := gs.flatMap fun g => leBytes 8 (g.acc + (g.rows - g.acc) * 4294967296)
  let put := fun (a : Nat) (bs : List Byte) => (List.range bs.length).map fun i => (a + i, bs.getD i 0)
  s.writeOwed c.id (put (ptrAt c.raw 0x50) map ++ put (ptrAt c.raw 0x58) tok ++ put (ptrAt c.raw 0x60) load)

/-- The blocks of one group's products, in visiting order. -/
def Work.groupBlks (w : Work) (e : Nat) : List Nat :=
  (List.range w.bs.length).filter fun n => match w.prod n with | some p => p.group == e | none => false

/-- One group in its turn: its products, or the zeros of an empty one (R196, R197). -/
def State.runGroup (w : Work) (s : State) (g : Nat × GEntry) : State :=
  (State.runBlks w (w.runOrder (w.groupBlks g.1)) s).zeroGroup w.cmd.id g.2

/-- GP_GROUPED runs its groups in order up to the first that faults; then the slab is converted and the routing outputs are
written (R187 to R197). DESIGN CHOICE (log 197): a command that ends with LONGSUM writes the routing outputs too, since R122 writes every
result there, though R192 writes them on no fault. -/
def State.runGrouped (s : State) (c : Cmd) : State :=
  let w := s.work c
  if s.held c || s.drainHeld w then s
  else
    let (gs, fault) := s.groupRun c
    let s := gs.foldl (State.runGroup w) (s.feedRest c.id)
    match s.cmd c.id with
    | none => s
    | some x =>
      if x.phase != .begun then s
      else
        match fault with
        | some f => s.abort c.id f
        | none =>
          let s := if c.products % 2 = 1 then s.mergeSlab c else s
          (s.routing c).finishRun c.id

/-- GP_GROUPED: the products of routed groups (R188). -/
def execGpGrouped (c : CmdId) (s : State) : Host.Outcome State Fault Refusal := .next (s.runOp c 0x05 s.runGrouped)

end Sys2Proof.Machine
end

