-- ==== Sys2Proof/Machine/Copying.lean ====
section
/-! DEFINITION. The commands of the channel drains: SURVEY, DERIV and FILL, and what COPY does (R133 to R142, R171 to R174, R236 class 4,
R317, R58, R62). -/

namespace Sys2Proof.Machine

open Sys2Proof

/-- The elements of a tensor as (row, column) pairs, row by row. -/
def TDesc.cells (d : TDesc) : List (Nat × Nat) := (List.range d.rows).flatMap fun r => (List.range d.e0).map fun c => (r, c)

/-- Convert and write exact values into a destination of a drain command (R135: row the flattened (b, i1), slot 0, group 0). -/
def State.storeTensor (s : State) (c : Cmd) (d : TDesc) (given : Bool) (xs : List (Nat × Nat × XVal)) : State :=
  let st := s.convertAll d given ⟨c.key, 0, 0, c.run.free⟩ xs
  (s.putFields c.id st.fields).count c.id fun k => k.tally st.tally d.watch

/-- The exponent map of a tensor as fields of bits at an address, in the G32B index order (R131, R142). -/
def State.expMap (s : State) (d : TDesc) (at_ : Nat) : List (Nat × Nat × Nat) :=
  let bc := cdiv d.e0 32
  let br := cdiv d.e1 32
  (List.range (d.e2 * d.e3)).flatMap fun b => (List.range br).flatMap fun i => (List.range bc).map fun j =>
    let xs := (span (32 * i) (min (32 * i + 32) d.e1)).flatMap fun r =>
      (span (32 * j) (min (32 * j + 32) d.e0)).map fun k => s.scaledVal d (b * d.e1 + r) k
    ((at_ + 2 * ((b * br + i) * bc + j)) * 8, 16, mapOf xs)

/-- SURVEY (R140): the quantised source, its sidecar where asked, and its exponent map. It keeps its own SCALE_SRC (R136). -/
def State.runSurvey (s : State) (c : Cmd) : State :=
  let src := s.opd c 0 0
  let d := s.opd c 0 3
  let map := ptrAt c.raw 0x40
  let s := s.readBytes (src.reads ++ if d.given false then [(d.sptr, d.scaleCount * d.scaleBytes)] else [])
  let fs := if map = 0 then [] else s.expMap src map
  let xs := src.cells.map fun x => (x.1, x.2, s.scaledVal src x.1 x.2)
  let s := s.storeTensor c d (d.given false) xs
  ((if map = 0 then s else s.putFields c.id fs)).finishRun c.id

/-- SURVEY (R140). -/
def execSurvey (c : CmdId) (s : State) : Host.Outcome State Fault Refusal := .next (s.runOp c 0x09 s.runSurvey)

/-- DERIV (R171 to R174): DY and SAVED converted to FP32, the factor, the exact product, one rounding. -/
def State.runDeriv (s : State) (c : Cmd) : State :=
  let dy := s.opd c 0 2
  let sv := s.opd c 0 6
  let d := s.opd c 0 3
  let s := s.readBytes (dy.reads ++ sv.reads)
  let xs := (List.range d.rows).flatMap fun r =>
    let cs := List.range d.e0
    let g := cs.map fun k => r32 (s.scaledVal dy r k)
    let y := cs.map fun k => r32 (s.scaledVal sv r k)
    let o := derivRow c.fn c.alpha g y
    cs.map fun k => (r, k, o.getD k XVal.zero)
  (s.storeTensor c d (d.given (c.switch 7)) xs).finishRun c.id

/-- DERIV (R171). -/
def execDeriv (c : CmdId) (s : State) : Host.Outcome State Fault Refusal := .next (s.runOp c 0x0A s.runDeriv)

/-- A COPY the Footpath carries: at most 4 KiB each way, one format, no scaling (R236). -/
def footCopy (a b : TDesc) : Bool :=
  a.fmt == b.fmt && a.mode == 0 && b.mode == 0 && decide (a.spanLen a.fmt.storeBits ≤ 4096)
    && decide (b.spanLen b.fmt.storeBits ≤ 4096)

/-- The command is a COPY that the Footpath carries; it runs on no array, Spur or drain (R236, R347, R348). -/
def State.onFoot (s : State) (c : Cmd) : Bool := c.op == 0x18 && footCopy (s.opd c 0 0) (s.opd c 0 3)

/-- Byte writes gathered into runs of consecutive addresses that cross no 4 KiB boundary (R236). -/
def byteRuns (ws : List (Nat × Byte)) : List (Nat × List Byte) :=
  ws.foldr (fun w rs =>
    match rs with
    | (a, bs) :: t => if w.1 + 1 = a && a % 4096 ≠ 0 then (w.1, w.2 :: bs) :: t else (w.1, [w.2]) :: rs
    | [] => [(w.1, [w.2])]) []

/-- COPY (R317): each element converted under R97 to R100, with a survey where the destination asks. A small plain one goes
through the Footpath, whose reads bypass the Atlas (R236) and have come before; its writes reach memory with their responses. -/
def State.runCopy (s : State) (c : Cmd) : State :=
  let src := s.opd c 0 0
  let d := s.opd c 0 3
  if footCopy src d then
    let m := s.listSrc c
    let xs := src.cells.map fun x => (x.1, x.2, m.scaledVal src x.1 x.2)
    let st := s.convertAll d false ⟨c.key, 0, 0, c.run.free⟩ xs
    let runs := byteRuns (s.packBits st.fields)
    let s := s.fpAdd (runs.map fun (r : Nat × List Byte) => (⟨.copyWrite c.id, false, r.1, r.2, r.2.length⟩ : FpReq))
    let s := s.updCmd c.id fun x => { x with fpOwed := x.fpOwed + runs.length }
    (s.count c.id fun k => k.tally st.tally d.watch).finishRun c.id
  else
    let s := s.readBytes src.reads
    let xs := src.cells.map fun x => (x.1, x.2, s.scaledVal src x.1 x.2)
    (s.storeTensor c d (d.given (c.switch 7)) xs).finishRun c.id

/-- The fields a FILL writes (R62, R314): in both copies of a SHADOW region it lies in. -/
def State.fillFields (s : State) (c : Cmd) : List (Nat × Nat × Nat) :=
  let d := s.opd c 0 3
  let r := s.regionOf c.ctx d.base (d.spanLen d.fmt.storeBits)
  let long := match r with | some r => r.long | none => false
  let eb := d.ebits long
  let v := if long then c.fld 0x40 0 128 else c.fld 0x40 0 d.fmt.storeBits
  let v := if long then v else if d.fmt == .fp19 then v / 8192 * 8192 else if d.fmt == .ue4m3 then v % 128 else v
  let one := d.cells.map fun x => (d.bitAt eb x.1 x.2, eb, v)
  match r with
  | some r => if r.shadow then one ++ one.map fun f => (f.1 - r.base * 8 + r.shBase * 8, f.2.1, f.2.2) else one
  | none => one

/-- The regions a FILL covers wholly, which it returns to FRESH (R58, R62). -/
def State.fillCovers (s : State) (c : Cmd) : List Nat :=
  let d := s.opd c 0 3
  let inside := s.regionOf c.ctx d.base (d.spanLen d.fmt.storeBits)
  let bytes := (s.fillFields c).flatMap fun f => span (f.1 / 8) (cdiv (f.1 + f.2.1) 8)
  ((List.range (s.ctx c.ctx).regionCount).map (s.region c.ctx)).filterMap fun r =>
    let mine := match inside with | some x => x.idx == r.idx | none => !r.shadow
    if mine && r.size != 0 && (span r.base (r.base + r.size)).all fun a => bytes.contains a then some r.idx else none

/-- FILL (R317): VALUE into every element of DST. -/
def State.runFill (s : State) (c : Cmd) : State :=
  let d := s.opd c 0 3
  let long := (s.regionOf c.ctx d.base (d.spanLen d.fmt.storeBits)).any (·.long)
  ((s.putFields c.id (s.fillFields c)).count c.id fun k =>
    if long then k else k.watching d ((s.fillFields c).map fun f => d.fmt.decode f.2.2)).finishRun c.id

/-- FILL (R317). -/
def execFill (c : CmdId) (s : State) : Host.Outcome State Fault Refusal := .next (s.runOp c 0x19 s.runFill)

end Sys2Proof.Machine
end

