-- ==== Sys2Proof/Machine/Crypto.lean ====
section
/-! DEFINITION. SHA-384 and ECDSA over P-384 as a Legend's signature uses them (R375). -/

namespace Sys2Proof.Machine

open Sys2Proof

/-! ## SHA-384 -/

/-- The round constants of SHA-384. -/
def shaK : List Nat :=
  [0x428A2F98D728AE22, 0x7137449123EF65CD, 0xB5C0FBCFEC4D3B2F, 0xE9B5DBA58189DBBC,
   0x3956C25BF348B538, 0x59F111F1B605D019, 0x923F82A4AF194F9B, 0xAB1C5ED5DA6D8118,
   0xD807AA98A3030242, 0x12835B0145706FBE, 0x243185BE4EE4B28C, 0x550C7DC3D5FFB4E2,
   0x72BE5D74F27B896F, 0x80DEB1FE3B1696B1, 0x9BDC06A725C71235, 0xC19BF174CF692694] ++
  [0xE49B69C19EF14AD2, 0xEFBE4786384F25E3, 0x0FC19DC68B8CD5B5, 0x240CA1CC77AC9C65,
   0x2DE92C6F592B0275, 0x4A7484AA6EA6E483, 0x5CB0A9DCBD41FBD4, 0x76F988DA831153B5,
   0x983E5152EE66DFAB, 0xA831C66D2DB43210, 0xB00327C898FB213F, 0xBF597FC7BEEF0EE4,
   0xC6E00BF33DA88FC2, 0xD5A79147930AA725, 0x06CA6351E003826F, 0x142929670A0E6E70] ++
  [0x27B70A8546D22FFC, 0x2E1B21385C26C926, 0x4D2C6DFC5AC42AED, 0x53380D139D95B3DF,
   0x650A73548BAF63DE, 0x766A0ABB3C77B2A8, 0x81C2C92E47EDAEE6, 0x92722C851482353B,
   0xA2BFE8A14CF10364, 0xA81A664BBC423001, 0xC24B8B70D0F89791, 0xC76C51A30654BE30,
   0xD192E819D6EF5218, 0xD69906245565A910, 0xF40E35855771202A, 0x106AA07032BBD1B8] ++
  [0x19A4C116B8D2D0C8, 0x1E376C085141AB53, 0x2748774CDF8EEB99, 0x34B0BCB5E19B48A8,
   0x391C0CB3C5C95A63, 0x4ED8AA4AE3418ACB, 0x5B9CCA4F7763E373, 0x682E6FF3D6B2B8A3,
   0x748F82EE5DEFB2FC, 0x78A5636F43172F60, 0x84C87814A1F0AB72, 0x8CC702081A6439EC,
   0x90BEFFFA23631E28, 0xA4506CEBDE82BDE9, 0xBEF9A3F7B2C67915, 0xC67178F2E372532B] ++
  [0xCA273ECEEA26619C, 0xD186B8C721C0C207, 0xEADA7DD6CDE0EB1E, 0xF57D4F7FEE6ED178,
   0x06F067AA72176FBA, 0x0A637DC5A2C898A6, 0x113F9804BEF90DAE, 0x1B710B35131C471B,
   0x28DB77F523047D84, 0x32CAAB7B40C72493, 0x3C9EBE0A15C9BEBC, 0x431D67C49C100D4C,
   0x4CC5D4BECB3E42B6, 0x597F299CFC657E2A, 0x5FCB6FAB3AD6FAEC, 0x6C44198C4A475817]

/-- The initial hash value of SHA-384. -/
def shaH : List Nat :=
  [0xCBBB9D5DC1059ED8, 0x629A292A367CD507, 0x9159015A3070DD17, 0x152FECD8F70E5939,
   0x67332667FFC00B31, 0x8EB44A8768581511, 0xDB0C2E0D64F98FA7, 0x47B5481DBEFA4FA4]

/-- Rotate a 64-bit word right. -/
def rotr64 (x : W64) (n : Nat) : W64 := x.rotateRight n

/-- The message padded to whole blocks of 128 bytes. -/
def shaPad (m : List Byte) : List Byte :=
  let n := m.length
  let z := (239 - n % 128) % 128
  m ++ [0x80#8] ++ List.replicate z (0 : Byte) ++ (leBytes 16 (8 * n)).reverse

/-- Extend the message schedule: words so far, newest first. -/
def shaSched : Nat → List W64 → List W64
  | 0, w => w
  | f + 1, w =>
    let w2 := w.getD 1 0
    let w7 := w.getD 6 0
    let w15 := w.getD 14 0
    let w16 := w.getD 15 0
    let s0 := rotr64 w15 1 ^^^ rotr64 w15 8 ^^^ (w15 >>> 7)
    let s1 := rotr64 w2 19 ^^^ rotr64 w2 61 ^^^ (w2 >>> 6)
    shaSched f ((w16 + s0 + w7 + s1) :: w)

/-- One round on the eight working words. -/
def shaRound (v : List W64) (kw : Nat × W64) : List W64 :=
  match v with
  | [a, b, c, d, e, f, g, h] =>
    let s1 := rotr64 e 14 ^^^ rotr64 e 18 ^^^ rotr64 e 41
    let ch := (e &&& f) ^^^ ((~~~e) &&& g)
    let t1 := h + s1 + ch + BitVec.ofNat 64 kw.1 + kw.2
    let s0 := rotr64 a 28 ^^^ rotr64 a 34 ^^^ rotr64 a 39
    let mj := (a &&& b) ^^^ (a &&& c) ^^^ (b &&& c)
    [t1 + s0 + mj, a, b, c, d + t1, e, f, g]
  | v => v

/-- One block. -/
def shaBlock (h : List W64) (blk : List Byte) : List W64 :=
  let w := (List.range 16).map fun i => BitVec.ofNat 64 (beNat ((blk.drop (8 * i)).take 8))
  let ws := (shaSched 64 w.reverse).reverse
  (List.zip h ((List.zip shaK ws).foldl shaRound h)).map fun p => p.1 + p.2

/-- All blocks. -/
def shaGo : Nat → List W64 → List Byte → List W64
  | 0, h, _ => h
  | f + 1, h, m => if m.isEmpty then h else shaGo f (shaBlock h (m.take 128)) (m.drop 128)

/-- SHA-384 as a 384-bit number, big-endian. -/
def sha384 (m : List Byte) : Nat :=
  let p := shaPad m
  let h := shaGo (p.length / 128) (shaH.map (BitVec.ofNat 64)) p
  (h.take 6).foldl (fun n w => n * 2 ^ 64 + w.toNat) 0

/-! ## P-384 -/

/-- The field prime. -/
def p384 : Nat := 2 ^ 384 - 2 ^ 128 - 2 ^ 96 + 2 ^ 32 - 1

/-- The coefficient b of the curve y² = x³ − 3x + b. -/
def p384b : Nat := 0xB3312FA7E23EE7E4988E056BE3F82D19181D9C6EFE8141120314088F5013875AC656398D8A2ED19D2A85C8EDD3EC2AEF

/-- The order of the base point. -/
def p384n : Nat := 0xFFFFFFFFFFFFFFFFFFFFFFFFFFFFFFFFFFFFFFFFFFFFFFFFC7634D81F4372DDF581A0DB248B0A77AECEC196ACCC52973

/-- The base point. -/
def p384g : Nat × Nat :=
  (0xAA87CA22BE8B05378EB1C71EF320AD746E1D3B628BA79B9859F741E082542A385502F25DBF55296C3A545E3872760AB7,
   0x3617DE4A96262C6F5D9E98BF9292DC29F8F41DBD289A147CE9DA3113B5F0B8C00A60B1CE1D7E819D7A431D7C90EA0E5F)

/-- Power modulo m, by squaring over f bits of the exponent from the least significant on. -/
def powMod (m : Nat) : Nat → Nat → Nat → Nat → Nat
  | 0, _, _, acc => acc
  | f + 1, b, e, acc => powMod m f (b * b % m) (e / 2) (if e % 2 = 1 then acc * b % m else acc)

/-- The inverse modulo a prime. -/
def invMod (m a : Nat) : Nat := powMod m 384 (a % m) (m - 2) 1

/-- A point in Jacobian coordinates; z = 0 is the point at infinity. -/
structure JPoint where
  x : Nat
  y : Nat
  z : Nat
  deriving DecidableEq, Repr, Inhabited

/-- Difference modulo the field prime. -/
def fsubP (a b : Nat) : Nat := (a + p384 - b % p384) % p384

/-- Double a point. -/
def jdbl (p : JPoint) : JPoint :=
  if p.z = 0 || p.y = 0 then ⟨1, 1, 0⟩
  else
    let yy := p.y * p.y % p384
    let s := 4 * p.x * yy % p384
    let z2 := p.z * p.z % p384
    let m := 3 * (fsubP p.x z2) * (p.x + z2) % p384
    let x := fsubP (m * m) (2 * s)
    ⟨x, fsubP (m * fsubP s x) (8 * yy * yy), 2 * p.y * p.z % p384⟩

/-- Add two points. -/
def jadd (p q : JPoint) : JPoint :=
  if p.z = 0 then q
  else if q.z = 0 then p
  else
    let z1 := p.z * p.z % p384
    let z2 := q.z * q.z % p384
    let u1 := p.x * z2 % p384
    let u2 := q.x * z1 % p384
    let s1 := p.y * q.z * z2 % p384
    let s2 := q.y * p.z * z1 % p384
    if u1 = u2 then (if s1 = s2 then jdbl p else ⟨1, 1, 0⟩)
    else
      let h := fsubP u2 u1
      let r := fsubP s2 s1
      let h2 := h * h % p384
      let h3 := h2 * h % p384
      let v := u1 * h2 % p384
      let x := fsubP (r * r) (h3 + 2 * v)
      ⟨x, fsubP (r * fsubP v x) (s1 * h3), p.z * q.z * h % p384⟩

/-- u1·G + u2·Q over the bits of both, from bit f − 1 down. -/
def jmul2 (q : JPoint) (u1 u2 : Nat) : Nat → JPoint → JPoint
  | 0, acc => acc
  | f + 1, acc =>
    let a := jdbl acc
    let a := if bits u1 f 1 = 1 then jadd a ⟨p384g.1, p384g.2, 1⟩ else a
    let a := if bits u2 f 1 = 1 then jadd a q else a
    jmul2 q u1 u2 f a

/-- The public key is a point of the curve. -/
def p384on (x y : Nat) : Bool :=
  decide (x < p384) && decide (y < p384) && y * y % p384 == (x * x * x + (p384 - 3) * x + p384b) % p384

/-- ECDSA verification (R375): digest, key and signature as numbers. -/
def ecdsaOk (digest qx qy r s : Nat) : Bool :=
  if !p384on qx qy || r = 0 || decide (p384n ≤ r) || s = 0 || decide (p384n ≤ s) then false
  else
    let w := invMod p384n s
    let pt := jmul2 ⟨qx, qy, 1⟩ (digest * w % p384n) (r * w % p384n) 384 ⟨1, 1, 0⟩
    if pt.z = 0 then false
    else
      let zi := invMod p384 pt.z
      pt.x * zi % p384 * zi % p384 % p384n == r

end Sys2Proof.Machine
end

