-- ==== Sys2Proof/Machine/Legend.lean ====
section
/-! DEFINITION. The Legend: its bit-stream, verification in the order of R381, loading, sealing and replacement
(17_legend_and_startup.md, R373 to R386, R412, R413). -/

namespace Sys2Proof.Machine

open Sys2Proof

/-! ## Framing (R373, R374) -/

/-- A number with bit fields (place, width) taken as zero: what is left is reserved. -/
def clearFields (v : Nat) (fs : List (Nat × Nat)) : Nat := fs.foldl (fun v f => putBits v f.1 f.2 0) v

/-- The number n bytes at an offset stand for. -/
def bytesAt (l : List Byte) (o n : Nat) : Nat := leNat ((l.drop o).take n)

/-- The fields of a section, and the bytes they reach (R376). QUEUES and ADDRESS are laid out by count. -/
def sectionFields : Nat → List (Nat × Nat)
  | 1 => [(0, 2), (4, 4)]
  | 2 => [(0, 8192)]
  | 4 => [(0, 4), (32, 16), (48, 16), (64, 16), (96, 32)]
  | 5 => [(0, 5), (8, 6), (32, 32)]
  | 6 => [(0, 32), (32, 32), (64, 16)]
  | 7 => [(0, 8), (8, 1), (9, 1), (10, 1)]
  | 8 => [(0, 8), (8, 8), (32, 32), (64, 32), (96, 8), (104, 8), (128, 24)]
  | 9 => [(0, 52), (64, 4), (96, 16), (128, 64)]
  | 10 => [(0, 13), (16, 12), (32, 4), (64, 64), (128, 32), (160, 32), (192, 8), (200, 3)]
  | _ => []

/-- Bytes the fields of a section reach. -/
def sectionMin : Nat → Nat
  | 1 => 1
  | 2 => 1024
  | 4 => 16
  | 5 => 8
  | 6 => 10
  | 7 => 2
  | 8 => 19
  | 9 => 24
  | 10 => 26
  | _ => 0

/-- The body of a section holds only zeros beside its fields (R374). -/
def sectionOk (id : Nat) (body : List Byte) : Bool :=
  if id = 3 then
    let n := bytesAt body 0 1 % 128
    let rngs := (List.range n).map fun i => leNat ((body.drop (16 + 32 * i)).take 32)
    decide (16 + 32 * n ≤ body.length)
      && clearFields (bytesAt body 0 16) [(0, 7)] == 0
      && rngs.all (fun r => clearFields r [(0, 54), (64, 52), (128, 20), (160, 32)] == 0)
      && leNat (body.drop (16 + 32 * n)) == 0
  else
    decide (1 ≤ id) && decide (id ≤ 10) && decide (sectionMin id ≤ body.length) && clearFields (leNat body) (sectionFields id) == 0

/-- Cut the sections out of the bytes between the header and the signature block: none where they break R374. -/
def sectionsOf : Nat → List Byte → Option (List (Nat × List Byte))
  | 0, l => if l.isEmpty then some [] else none
  | f + 1, l =>
    if l.isEmpty then some []
    else
      let id := bytesAt l 0 2
      let n := bytesAt l 4 4
      let ok := decide (16 + n ≤ l.length) && n % 16 == 0 && bytesAt l 2 2 == 0 && bytesAt l 8 8 == 0
        && sectionOk id ((l.drop 16).take n)
      if !ok then none
      else (sectionsOf f (l.drop (16 + n))).map fun t => (id, (l.drop 16).take n) :: t

/-- LENGTH as the header gives it. -/
def legendLength (l : List Byte) : Nat := bytesAt l 8 4

/-- LENGTH is one a Legend may have (R373). -/
def lengthOk (n : Nat) : Bool := n % 64 == 0 && decide (512 ≤ n) && decide (n ≤ 65536)

/-- The framing of R373 to R375 holds; the sections then. -/
def framing (l : List Byte) : Option (List (Nat × List Byte)) :=
  let n := legendLength l
  if !lengthOk n || l.length ≠ n then none
  else if bytesAt l 0 4 ≠ 0x4E564C47 || bytesAt l 4 1 ≠ 1 then none
  else if bytesAt l 6 2 / 16 ≠ 0 || bytesAt l 0xE 2 ≠ 0 || leNat ((l.drop 0x18).take 0x28) ≠ 0 then none
  else if leNat ((l.drop (n - 64)).take 64) ≠ 0 then none
  else
    match sectionsOf 12 ((l.drop 64).take (n - 320)) with
    | none => none
    | some secs =>
      let ids := secs.map (·.1)
      let asc := (List.zip ids ids.tail).all fun p => decide (p.1 < p.2)
      let need := [1, 3, 4, 6, 7, 9].all ids.contains
      let gang := match secs.find? fun x => x.1 == 1 with | some x => bytesAt x.2 0 1 % 4 | none => 0
      if ids.length = bytesAt l 0xC 2 && asc && need && (ids.contains 2 == (gang != 0)) then some secs else none

/-! ## Fields (R376, R377) -/

/-- A bit field of a section's body; the default where the section is absent. -/
def secField (secs : List (Nat × List Byte)) (id lo w dflt : Nat) : Nat :=
  match secs.find? fun x => x.1 == id with
  | some x => bits (leNat x.2) lo w
  | none => dflt

/-- Parse a framed Legend (R376). CTX_LOG2 is read with the five bits its values need (log 14). -/
def parseLegend (l : List Byte) (secs : List (Nat × List Byte)) : Legend :=
  let f := secField secs
  let addr := (secs.find? fun x => x.1 == 3).map (·.2) |>.getD []
  let que := (secs.find? fun x => x.1 == 2).map (·.2)
  { serial := BitVec.ofNat 64 (bytesAt l 0x10 8)
    gang := f 1 0 2 0, channels := f 1 4 4 0
    queues := match que with
      | some b => (List.range 4096).map fun q => bits (b.getD (q / 4) 0).toNat (2 * (q % 4)) 2
      | none => []
    ranges := (List.range (f 3 0 7 0)).map fun i =>
      let r := leNat ((addr.drop (16 + 32 * i)).take 32)
      ⟨bits r 0 52, bits r 64 52, bits r 52 2, bits r 128 16, bits r 144 4, bits r 160 32⟩
    scratchWays := f 4 0 4 0, pair := f 4 32 16 0, steal := f 4 48 16 0, map := f 4 64 16 0, laBudget := f 4 96 32 0
    ctxLog2 := f 5 0 5 16
    engineEvq := f 5 8 6 0, flagNs := f 5 32 32 2000
    datumKhz := f 6 0 32 0, nominalUs := f 6 32 32 0, fixedMhz := f 6 64 16 0
    switches := f 7 0 8 0, spill := f 7 8 1 0 == 1, wear := f 7 9 1 0 == 1, selftestFixed := f 7 10 1 0 == 1
    ctxLimit := f 8 0 8 3, engLimit := f 8 8 8 6, ctxWindow := f 8 32 32 60, engWindow := f 8 64 32 600
    rotation := f 8 96 8 100, forceAt := f 8 104 8 80, errThreshold := f 8 128 24 1024
    jbase := f 9 0 52 0, ckptI := f 9 64 4 0, ckptW := f 9 96 16 0, wearLife := f 9 128 64 0
    ranks := f 10 0 13 1, rank := f 10 16 12 0, lanes := f 10 32 4 1
    mseed := BitVec.ofNat 64 (f 10 64 64 0), graceUs := f 10 128 32 500, decideUs := f 10 160 32 5000
    gsRounds := f 10 192 8 16, gsRank := f 10 200 3 3 }

/-- A value lies in a range. -/
def within (v lo hi : Nat) : Bool := decide (lo ≤ v) && decide (v ≤ hi)

/-- Every field lies in its range (R376, R377, R388). -/
def fieldsOk (z : Size) (g : Legend) : Bool :=
  decide (g.gang < 3) && g.queues.all (fun q => g.gang != 1 || decide (q < 2))
    && within g.ranges.length 1 64
    && g.ranges.all (fun r => r.base % 4096 == 0 && within r.tier 1 2 && r.size % 4096 == 0 && decide (4096 ≤ r.size)
        && r.ports != 0 && decide (r.ports < 2 ^ z.ports) && decide (r.granule ≤ 8))
    && decide (g.scratchWays ≤ 14) && within g.ctxLog2 12 16 && within g.flagNs 100 1000000
    && within g.datumKhz 1000 250000 && within g.nominalUs 100 100000000 && within g.fixedMhz 2600 3300
    && within g.ctxLimit 1 255 && within g.engLimit 1 255 && within g.ctxWindow 1 86400 && within g.engWindow 1 86400
    && within g.rotation 10 100 && within g.forceAt 1 (g.rotation - 16)
    && g.jbase % 4096 == 0 && within g.ckptI 1 10 && decide (g.ckptW ≤ 500 * g.ckptI) && decide (1 ≤ g.wearLife)
    && within g.ranks 1 4096 && decide (g.rank < g.ranks) && g.lanes != 0 && decide (g.lanes < 2 ^ z.lanes)
    && within g.graceUs 1 10000 && within g.decideUs 100 100000 && within g.gsRounds 1 255 && within g.gsRank 1 5

/-! ## Consistency (R378) -/

/-- Channels that make an array of a ganging. -/
def gangChans (gang chans a : Nat) : List Nat :=
  match gang with
  | 0 => if a = 0 then List.range chans else []
  | 1 => if a = 0 then [0, 1] else if a = 1 then [2, 3] else []
  | _ => [a]

/-- All channels of a list are in a mask. -/
def allIn (mask : Nat) (l : List Nat) : Bool := l.all fun c => bits mask c 1 == 1

/-- Arrays in service under a Legend. -/
def Legend.arrayCount (g : Legend) : Nat :=
  match g.gang with
  | 0 => 1
  | 1 => ([[0, 1], [2, 3]].filter (allIn g.channels)).length
  | _ => (maskBits g.channels 4).length

/-- The CHANNELS mask fits the ganging. -/
def Legend.maskFits (z : Size) (g : Legend) : Bool :=
  match g.gang with
  | 0 => g.channels == 2 ^ z.channels - 1
  | 1 => g.channels == 3 || g.channels == 12 || g.channels == 15
  | _ => g.channels != 0

/-- A tile's maximum frequency in MHz: ⌊3,300 − 8.25·s⌋, or 3,300 with wear derating off (R85, R363, R424). -/
def fmaxOf (wear : Bool) (step : Nat) : Nat := if wear then (330000 - 825 * step) / 100 else 3300

/-- The lowest maximum among the tiles of a set of channels, for a wear switch (R378, R424). -/
def State.fmaxLow (s : State) (wear : Bool) (mask : Nat) : Nat :=
  (List.range s.build.size.tiles).foldl (fun m t =>
    let ch := s.build.size.chanOf t
    if bits mask ch 1 = 1 && bits s.flt.isolated ch 1 = 0 then min m (fmaxOf wear (s.alm.step.getD t 0)) else m) 3300

/-- Two ranges of addresses overlap. -/
def overlap (a n b m : Nat) : Bool := decide (a < b + m) && decide (b < a + n)

/-- No two of a list of ranges overlap. -/
def disjoint : List (Nat × Nat) → Bool
  | [] => true
  | r :: t => t.all (fun q => !overlap r.1 r.2 q.1 q.2) && disjoint t

/-- The cross-field rules of R378. -/
def State.consistent (s : State) (g : Legend) : Bool :=
  let z := s.build.size
  let mib := z.atlasMiB
  (g.gang == 0 || z.channels == 4) && g.maskFits z
    && g.queues.all (fun q => allIn g.channels (gangChans g.gang z.channels q))
    && decide ((g.pair + g.steal + g.map) * 16 ≤ g.scratchWays * mib)
    && g.pair % g.arrayCount == 0 && g.map % g.arrayCount == 0 && g.steal % (maskBits g.channels 4).length == 0
    && decide (g.laBudget * 16 ≤ (16 - g.scratchWays) * mib)
    && disjoint (g.ranges.map fun r => (r.base, r.size)) && g.ranges.all (fun r => decide (r.base + r.size ≤ 2 ^ 52))
    && g.ranges.any (fun r => decide (r.base ≤ g.jbase) && decide (g.jbase + 8192 ≤ r.base + r.size))
    && decide (g.fixedMhz ≤ s.fmaxLow g.wear g.channels)
    && !(g.ranks == 1 && decide (1 < (maskBits g.lanes 4).length))

/-- Unless every context is FREE, a replacement agrees with the Legend in force (R385). -/
def State.runningOk (s : State) (g : Legend) : Bool :=
  match s.lgd.inForce with
  | none => true
  | some f =>
    s.ctxs.all (fun e => e.2.state == .free)
      || (g.ctxLog2 == f.ctxLog2 && g.engineEvq == f.engineEvq && g.ranges == f.ranges && g.jbase == f.jbase
          && g.ranks == f.ranks && g.rank == f.rank && g.mseed == f.mseed)

/-! ## Verification (R375, R381) -/

/-- The key slot whose digest a public key matches (R375): a digest of all zeros never matches. -/
def State.keySlot (s : State) (l : List Byte) : Option Bool :=
  let n := legendLength l
  let d := BitVec.ofNat 384 (sha384 ((l.drop (n - 256)).take 96))
  if s.build.key0 ≠ 0 && s.build.key0 = d then some false
  else if s.build.key1 ≠ 0 && s.build.key1 = d then some true
  else none

/-- The signature over bytes 0 to LENGTH − 257 holds (R375). -/
def signatureOk (l : List Byte) : Bool :=
  let n := legendLength l
  let sg := l.drop (n - 256)
  ecdsaOk (sha384 (l.take (n - 256))) (beNat (sg.take 48)) (beNat ((sg.drop 48).take 48)) (beNat ((sg.drop 96).take 48))
    (beNat ((sg.drop 144).take 48))

/-- The outcome of verification: REASON with 0 for none, the parsed Legend, and the key slot (R381). A channel counts as ISOLATED from the
moment its isolation starts, so that no Legend names one that the BIST just failed (R383, log 171). -/
def State.verify (s : State) : Nat × Option Legend × Bool :=
  let l := s.lgd.bytes
  if s.lgd.fetchBad then (1, none, s.lgd.keyslot)
  else
    match framing l with
    | none => (2, none, s.lgd.keyslot)
    | some secs =>
      let g := parseLegend l secs
      if bytesAt l 5 1 % 16 ≠ 2 || 1 < bytesAt l 5 1 / 16 then (3, none, s.lgd.keyslot)
      else if bytesAt l 6 1 % 16 ≠ s.build.size.code then (4, none, s.lgd.keyslot)
      else if !fieldsOk s.build.size g then (5, none, s.lgd.keyslot)
      else if !s.consistent g then (6, none, s.lgd.keyslot)
      else if g.channels &&& s.chansOut ≠ 0 then (7, none, s.lgd.keyslot)
      else if !s.runningOk g then (8, none, s.lgd.keyslot)
      else
        match s.keySlot l with
        | none => (9, none, s.lgd.keyslot)
        | some k => if signatureOk l then (0, some g, k) else (10, none, s.lgd.keyslot)

/-- LEGEND_VERIFIED: verification of a loaded Legend ends (R380, R381); not before the power-on BIST has said which channels failed, so
that a Legend is sealed only over channels that it passed (R383, log 171). -/
def State.verified (s : State) : State :=
  if s.lgd.load != .verifying || !s.lgd.bistDone then s
  else
    let (r, g, k) := s.verify
    { s with lgd := { s.lgd with load := if r = 0 then .verified else .failed, reason := r, staged := g, keyslot := k, bytes := [] } }

/-- LEGEND_VERIFIED. -/
def execLegendVerified (s : State) : Host.Outcome State Fault Refusal :=
  .next (if s.pins.poreset || s.pins.sysreset || s.flt.out then s else s.verified)

/-! ## Loading (R380, R381, R412) -/

/-- An LGD_CTL or LGD_DATA write is ignored. -/
def State.badCmd (s : State) : State := { s with lgd := { s.lgd with badCmd := true } }

/-- A load is running. -/
def Lgd.busy (g : Lgd) : Bool := g.load == .loading || g.load == .verifying

/-- The last byte has arrived: LENGTH bytes, or a header whose LENGTH is none. -/
def loadEnds (l : List Byte) : Bool :=
  decide (64 ≤ l.length) && (!lengthOk (legendLength l) || decide (legendLength l ≤ l.length))

/-- Start a load. -/
def State.startLoad (s : State) (viaCfg : Bool) : State :=
  { s with lgd := { s.lgd with load := .loading, viaCfg := viaCfg, bytes := [], fetchBad := false, staged := none, reason := 0 } }

/-- BEGIN (R380). -/
def State.lgdBegin (s : State) : State := if s.lgd.busy then s.badCmd else s.startLoad true

/-- BEGIN: LGD_CTL.BEGIN. -/
def execLgdBegin (s : State) : Host.Outcome State Fault Refusal := .next (s.cfgWrite fun s => s.lgdBegin)

/-- The next 8 B of a CFG load (R412). -/
def State.lgdData (s : State) (v : W64) : State :=
  if s.lgd.load == .loading && s.lgd.viaCfg then
    let l := s.lgd.bytes ++ leBytes 8 v.toNat
    { s with lgd := { s.lgd with bytes := l, load := if loadEnds l then .verifying else .loading } }
  else s.badCmd

/-- LGD_DATA. -/
def execLgdData (v : W64) (s : State) : Host.Outcome State Fault Refusal := .next (s.cfgWrite fun s => s.lgdData v)

/-- Fetch the next 4 KiB piece, or fail with FETCH where it would pass 2^52 (R380). -/
def State.fetchPiece (s : State) : State :=
  let a := s.lgd.fetchAddr + s.lgd.bytes.length
  if 2 ^ 52 ≤ a then { s with lgd := { s.lgd with load := .verifying, fetchBad := true } }
  else s.fpAdd [⟨.legend, false, a, [], 4096⟩]

/-- FETCH (R380, R412). -/
def State.fetchLegend (s : State) : State :=
  if s.lgd.busy || s.lgd.fetchAddr % 4096 ≠ 0 || s.pins.testMode then s.badCmd else (s.startLoad false).fetchPiece

/-- FETCH: LGD_CTL.FETCH. -/
def execFetch (s : State) : Host.Outcome State Fault Refusal := .next (s.cfgWrite fun s => if s.flt.out then s else s.fetchLegend)

/-- The response to a piece of a fetch (R380, R393). -/
def State.fetchResponse (s : State) (bad : Bool) : State :=
  if s.lgd.load != .loading || s.lgd.viaCfg then s
  else if bad then { s with lgd := { s.lgd with load := .verifying, fetchBad := true } }
  else
    let a := s.lgd.fetchAddr + s.lgd.bytes.length
    let l := s.lgd.bytes ++ s.memBytes a 4096
    let n := if lengthOk (legendLength l) then legendLength l else 64
    let s := { s with lgd := { s.lgd with bytes := l.take n } }
    if n ≤ l.length then { s with lgd := { s.lgd with load := .verifying, fetchBad := decide (2 ^ 52 < s.lgd.fetchAddr + n) } }
    else s.fetchPiece

/-- A fetch is given up: a piece that FP0 has not sent is not read, the response to one it has is discarded. -/
def State.dropFetch (s : State) : State :=
  let u := fun (u : FpUse) => if u = .legend then FpUse.dropped else u
  { s with
    fp := (fpKeepSent (· == .legend) s.fp s.fpOut).map fun r => { r with use := u r.use }
    fpOut := s.fpOut.map u }

/-- DISCARD (R381): a Legend that is loading, verified or pending is dropped; the one in force is unaffected. -/
def State.lgdDiscard (s : State) : State :=
  if s.lgd.load == .loading || s.lgd.load == .verified then
    { s.dropFetch with lgd := { s.lgd with load := .idle, bytes := [], staged := none, reason := 0 } }
  else s

/-- DISCARD: LGD_CTL.DISCARD. -/
def execDiscard (s : State) : Host.Outcome State Fault Refusal := .next (s.cfgWrite fun s => s.lgdDiscard)

/-! ## Sealing and replacement -/

/-- The Legend's mirror registers (R413). -/
def Lgd.mirror (d : Lgd) (g : Legend) : Lgd :=
  { d with
    rStruct := g.gang + g.channels * 16
    rAtlas := g.scratchWays + g.pair * 2 ^ 16 + g.steal * 2 ^ 32 + g.map * 2 ^ 48
    rClocks := g.fixedMhz + g.datumKhz * 2 ^ 16 }

/-- An error counter takes its THRESHOLD from the Legend (R376, R408). -/
def ErrCtr.take (c : ErrCtr) (t : Nat) : ErrCtr := { c with threshold := t }

/-- Every error counter takes its THRESHOLD from the Legend (R408). -/
def State.takeThresholds (s : State) (t : Nat) : State :=
  { s with
    flt := { s.flt with lockedWrite := s.flt.lockedWrite.take t, suppressed := s.flt.suppressed.take t,
                        specError := s.flt.specError.take t }
    mos := { s.mos with drops := s.mos.drops.map fun c => c.take t }
    dat := { s.dat with reject := s.dat.reject.take t }
    evqs := (List.range 64).foldl (fun e q => e.upd EvQueue.init q fun x => { x with lost := x.lost.take t }) s.evqs
    headOverrun := s.headOverrun.take t
    stl := { s.stl with laSkip := s.stl.laSkip.take t }
    badDoorbell := s.badDoorbell.take t }

/-- The nominal period in datum clock cycles (R290). -/
def Legend.nominal (g : Legend) : Nat := g.nominalUs * g.datumKhz / 1000

/-- The mode set a tile works under: that of the operation on its array until its last command of an earlier epoch has completed,
else the one in force (R301). -/
def State.tileMode (s : State) (t : Nat) : Nat :=
  match (s.opOfTile t).bind s.cmd with
  | some c => c.run.mode
  | none => s.mode.set

/-- The array test of a diagnostic BIST run covers the tile: its channel is built and LGD_STRUCT.CHANNELS names it (R413, R425). -/
def State.diagTile (s : State) (t : Nat) : Bool :=
  s.tst.busy && s.tst.diag && bits s.lgd.rStruct (4 + s.build.size.chanOf t) 1 == 1

/-- A tile's present clock (R29, R85, R86, R378, R386, R424): stopped in a channel out of service or gated; FIXED_MHZ under
DROOP = FIXED but never above the tile's maximum; the maximum otherwise. Before a Legend is sealed only the tiles that a diagnostic
run tests are clocked, at LGD_CLOCKS.FIXED_MHZ (R413, R425). -/
def State.tileClock (s : State) (t : Nat) : Nat :=
  match s.lgd.inForce with
  | none => if s.diagTile t then bits s.lgd.rClocks 0 16 else 0
  | some g =>
    let m := fmaxOf g.wear (s.alm.step.getD t 0)
    if !s.chOn (s.build.size.chanOf t) then 0
    else if bits (s.tileMode t) 5 1 = 1 then min g.fixedMhz m else m

/-- A tile's clock while it rides a droop or not (R85, R424). -/
def State.presentClock (s : State) (t : Nat) : Nat :=
  let u := s.tiles.getD t Tile.init
  if s.build.size.tiles ≤ t then 0
  else if u.drooping && bits (s.tileMode t) 5 1 == 0 then min u.freq (s.tileClock t)
  else s.tileClock t

/-- A droop is ridden only by a running tile under ADAPT (R86). -/
def State.setClocks (s : State) : State :=
  { s with tiles := (List.range s.tiles.length).map fun t =>
      let u := s.tiles.getD t Tile.init
      { u with drooping := u.drooping && s.chOn (s.build.size.chanOf t) && bits (s.tileMode t) 5 1 == 0 } }

/-- Self-test batches built: one for each 16 tiles (R354). -/
def Size.batches (z : Size) : Nat := cdiv z.tiles 16

/-- Every queue DISABLED; what its registers hold stays (R384). -/
def disableAll (t : Tab CmQueue) : Tab CmQueue :=
  t.foldl (fun u e => Tab.set CmQueue.init u e.1 { e.2 with state := .disabled, nums := [], slot := none, pub := e.2.head }) t

/-- SEAL (R384, R299, R354, R371, R413): every effect of sealing at once. -/
def State.sealLegend (s : State) (g : Legend) : State :=
  let s := { s with
    lgd := { (s.lgd.mirror g) with inForce := some g, staged := none, load := .idle, standalone := false }
    mode := { s.mode with stage := putBits s.mode.stage 0 8 g.switches, requested := 1, applied := 1, pending := false, force := false,
                          chApplied := List.replicate 4 1, set := putBits (s.mode.stage % 512) 0 8 g.switches }
    flt := { s.flt with escLimit := g.engLimit, degraded := false }
    ctxs := [], rts := [], cmqs := disableAll s.cmqs, cmds := []
    dat := { s.dat with tracker := .wait, acc := 0, history := [], first := true, period := g.nominal, inc := 2 ^ 56 / g.nominal }
    alm := if s.alm.restore == RestoreState.open then { s.alm with ckptOn := false } else s.alm.ckptStart s.pins.now
    tst := { s.tst with batches := s.tst.batches.map fun _ => ⟨s.pins.now, false, false, false⟩, rotFrom := s.pins.now,
                        rotRun := 0, rotForced := false, rotFail := none } }
  let s := (s.takeThresholds g.errThreshold).setClocks
  if s.alm.restore == RestoreState.open then s.almRec 8 0 else s

/-- A write of LGD_CTL.SEAL (R381). -/
def State.lgdSeal (s : State) : State :=
  match s.lgd.staged with
  | some g => if s.lgd.load == .verified && s.lgd.standalone && !s.pins.testMode && !s.flt.out then s.sealLegend g else s.badCmd
  | none => s.badCmd

/-- LGD_SEAL: LGD_CTL.SEAL. -/
def execLgdSeal (s : State) : Host.Outcome State Fault Refusal := .next (s.cfgWrite fun s => s.lgdSeal)

/-- The held bytes stay within the budget: of what exceeds it the lines are held no longer, and the fills on their way will not be
(R231; log 159). -/
def State.trimBudget (s : State) : State :=
  let n := s.legendOr (·.laBudget) 0 * 4096
  let room := fun k => decide (k < n)
  let a := s.feed.atlas.foldl (fun (a : Nat × Tab (Option ALine)) e =>
    match e.2 with
    | some x => if x.held.isSome then (a.1 + 1, a.2 ++ [(e.1, some (if room a.1 then x else { x with held := none }))]) else (a.1, a.2 ++ [e])
    | none => (a.1, a.2 ++ [e])) (0, [])
  let f := s.feed.fills.foldl (fun (b : Nat × List Fill) (f : Fill) =>
    match f.kind with
    | .look _ => (b.1 + 1, b.2 ++ [if room b.1 then f else { f with kind := .ahead }])
    | _ => (b.1, b.2 ++ [f])) (a.1, [])
  { s with feed := { s.feed with atlas := a.2, fills := f.2 } }

/-- No set has more held lines than half its cache ways: what exceeds that is held no longer (R231; log 159). -/
def State.trimHolds (s : State) : State :=
  let tooMany := fun (e : Nat × Option ALine) =>
    let same := s.setLines (s.build.size.bank e.1) (s.build.size.set e.1)
    decide (max 1 (s.cacheWays / 2) ≤ (same.filter fun x => x.2.held.isSome && decide (x.1 < e.1)).length)
  { s with feed := { s.feed with atlas := s.feed.atlas.map fun e =>
      (e.1, e.2.map fun x => if x.held.isSome && tooMany e then { x with held := none } else x) } }

/-- Drop the lines of ways that become scratch (R386). -/
def State.dropScratchWays (s : State) (ways : Nat) : State :=
  { s with feed := (s.feed.atlas.filterMap fun e => match e.2 with
      | some ln => if ways ≤ ln.way then some e.1 else none
      | none => none).foldl (fun f l => f.dropLine l) s.feed }

/-- Apply a pending Legend at the end of a compute reset, or discard it with its REASON where a check fails there (R386).
While the history is empty the tracked period is the new nominal one (R290); the rate of the Bearing changes at the next pulse (R291). -/
def State.applyLegend (s : State) : State :=
  match s.lgd.staged with
  | none => s
  | some g =>
    if s.lgd.load != .verified || s.lgd.standalone then s
    else if !s.consistent g then { s with lgd := { s.lgd with load := .failed, staged := none, reason := 6 } }
    else if g.channels &&& s.chansOut ≠ 0 then { s with lgd := { s.lgd with load := .failed, staged := none, reason := 7 } }
    else if !s.runningOk g then { s with lgd := { s.lgd with load := .failed, staged := none, reason := 8 } }
    else
      let back := fun ch => if bits g.channels ch 1 = 1 && !s.chOn ch then s.mode.applied else s.mode.chApplied.getD ch 1
      let s := { s with
        lgd := { (s.lgd.mirror g) with inForce := some g, staged := none, load := .idle }
        mode := { s.mode with chApplied := (List.range 4).map back, stage := putBits s.mode.stage 0 8 g.switches }
        dat := { s.dat with period := if s.dat.history.isEmpty && s.dat.tracker != Tracker.free then g.nominal else s.dat.period }
        flt := { s.flt with escLimit := g.engLimit, degraded := false } }
      (((s.takeThresholds g.errThreshold).dropScratchWays (16 - g.scratchWays)).trimHolds).trimBudget.setClocks

end Sys2Proof.Machine
end

