-- ==== Sys2Proof/Machine/Faults.lean ====
section
/-! DEFINITION. Detections and their first actions: what an abort leaves, tile and link faults, sequencers, supplies, channel
isolation, the compute reset and the reset ladder (R63, R239, R335 to R350, R353). -/

namespace Sys2Proof.Machine

open Sys2Proof

/-! ## What an aborted command leaves (R239, R63) -/

/-- The bytes the elements of a tensor occupy. -/
def TDesc.elemBytes (d : TDesc) (eb : Nat) : List Nat :=
  d.cells.flatMap fun x => span (d.bitAt eb x.1 x.2 / 8) (cdiv (d.bitAt eb x.1 x.2 + eb) 8)

/-- The bytes of a tensor: elements, scale array, zero points (R131, R144). -/
def TDesc.bytes (d : TDesc) (long : Bool) : List Nat :=
  d.elemBytes (d.ebits long)
    ++ (if d.mode = 0 then [] else span d.sptr (d.sptr + d.scaleCount * d.scaleBytes))
    ++ (if d.zpCount = 0 then [] else span d.zp (d.zp + d.zpCount))

/-- A bit of the selector word of an update record (R275). -/
def State.recBit (s : State) (rec_ i : Nat) : Nat := bits (s.memByte (rec_ + 0x10)).toNat i 1

/-- The pending copy of a two-copy operand (R274). -/
def TDesc.pending (d : TDesc) (sel : Nat) : TDesc :=
  let c := d.copyOf (1 - sel)
  { c with sptr := d.sptr + (1 - sel) * ({ d with e3 := 1 } : TDesc).scaleCount * d.scaleBytes }

/-- RANKS. -/
def State.ranks (s : State) : Nat := match s.lgd.inForce with | some l => max 1 l.ranks | none => 1

/-- RANK. -/
def State.rank (s : State) : Nat := match s.lgd.inForce with | some l => l.rank | none => 0

/-- The rows a rank owns of a region of that many rows, first and past the last (R244). -/
def shardRows (r p rows : Nat) : Nat × Nat :=
  let bn := cdiv rows 32
  (min rows (32 * (r * bn / p)), min rows (32 * ((r + 1) * bn / p)))

/-- A copy of a two-copy working weight, with its own scales (R274). -/
def TDesc.copyAt (d : TDesc) (k : Nat) : TDesc := d.pending (1 - k)

/-- An element of the weight in its twin: the twin has unit stride along the weight's rows (R36, R56). A twin named with
UNIT_DIM 1 keeps the weight's extents; any other is described transposed, each matrix of a weight with EXT2 above 1 by itself (log
20). -/
def TDesc.twinAt (w d : TDesc) (row col : Nat) : Nat × Nat :=
  if d.unit = 1 then (row, col) else (row / w.e1 * w.e0 + col, row % w.e1)

/-- Rows of one copy of a two-copy weight (R274, R315). -/
def TDesc.copyRows (d : TDesc) : Nat := d.e1 * d.e2

/-- The row of 32×32 blocks a row of a weight lies in (R131). -/
def TDesc.bandOf (d : TDesc) (row : Nat) : Nat := row / d.e1 * cdiv d.e1 32 + row % d.e1 / 32

/-- The first row of a row of blocks. -/
def TDesc.bandRow (d : TDesc) (k : Nat) : Nat := k / cdiv d.e1 32 * d.e1 + k % cdiv d.e1 32 * 32

/-- Bytes of one element of a working weight. -/
def TDesc.esz (d : TDesc) : Nat := d.fmt.storeBits / 8

/-- Bytes of a shard's elements and of its scales in a working weight (R263). -/
def TDesc.shardBytes (d : TDesc) (r p : Nat) : Nat × Nat :=
  let (a, b) := shardRows r p d.copyRows
  ((b - a) * d.e0 * d.esz,
    if d.mode = 0 || b ≤ a then 0 else (d.bandOf (b - 1) + 1 - d.bandOf a) * cdiv d.e0 32 * d.scaleBytes)

/-- The address of byte o of a shard's elements or scales in a copy of a weight. -/
def TDesc.shardAt (d : TDesc) (r p part o : Nat) : Nat :=
  let a := (shardRows r p d.copyRows).1
  if part = 0 then d.bitAt (8 * d.esz) (a + o / (d.e0 * d.esz)) (o % (d.e0 * d.esz) / d.esz) / 8 + o % d.esz
  else d.sptr + d.bandOf a * cdiv d.e0 32 * d.scaleBytes + o

/-- The address of the same byte in a copy of the twin. DESIGN CHOICE (logs 20, 196): R131 calls the twin's scale grid the transpose of its
weight's, while its index formula uses D0 and D1 alone; a twin that is the weight's tensor with UNIT_DIM 1 keeps the weight's own grid. -/
def TDesc.twinShardAt (w d : TDesc) (r p part o : Nat) : Nat :=
  let a := (shardRows r p w.copyRows).1
  if part = 0 then
    let x := w.twinAt d (a + o / (w.e0 * w.esz)) (o % (w.e0 * w.esz) / w.esz)
    d.bitAt (8 * w.esz) x.1 x.2 / 8 + o % w.esz
  else
    let i := o / w.scaleBytes
    let x := w.twinAt d (w.bandRow (w.bandOf a + i / cdiv w.e0 32)) (i % cdiv w.e0 32 * 32)
    d.sptr + d.scaleIdx x.1 x.2 * d.scaleBytes + o % w.scaleBytes

/-- The bytes of a weight, or of its twin, that a gather receives: every shard but the rank's own (R263). -/
def State.gathered (s : State) (w d : TDesc) (twin : Bool) : List Nat :=
  ((List.range s.ranks).filter fun r => r != s.rank).flatMap fun r =>
    let n := w.shardBytes r s.ranks
    let at_ := fun part o => if twin then TDesc.twinShardAt w d r s.ranks part o else d.shardAt r s.ranks part o
    (List.range n.1).map (at_ 0) ++ (List.range n.2).map (at_ 1)

/-- The rank owns none of so many rows (R244, R427). -/
def State.ownsNo (s : State) (rows : Nat) : Bool := let (a, b) := shardRows s.rank s.ranks rows; b ≤ a

/-- The bytes that an abort leaves undefined (R239, step 4): plain destinations, workspace, routing outputs and exponent
maps of an array command or a drain command, whose DST is no drain into a region even where it lies in one; the pending copies and NORM of an update; the flag a SIGNAL_FLAG has sent
(R238); DST, and the non-committed copies of RESIDUAL and FACTORS, of a Mosaic step; the shards a gather receives, but not
the rank's own, which its update wrote. A workspace that no slab uses is ignored (R46), and nothing is written to a DST, MASTER or
moment of a rank that owns no rows (R427). Regions are not among them: they follow R63. -/
def State.destBytes (s : State) (c : Cmd) : List Nat :=
  let plain := fun p i =>
    if !c.has p i then []
    else
      let d := s.opd c p i
      match s.regionOf c.ctx d.base (d.spanLen d.fmt.storeBits) with
      | some _ => []
      | none => d.bytes (c.long && c.fair && i == 3 && (c.op = 2 || c.op = 4 || c.op = 6))
  let probs := List.range (max 1 c.probs.length)
  let pend := fun i bit =>
    if c.has 0 i then ((s.opd c 0 i).pending (s.recBit (ptrAt c.raw 0x60) bit)).bytes false else []
  match c.op with
  | 1 | 2 | 3 | 4 | 6 | 7 | 8 => probs.flatMap fun p => plain p 3 ++ (if s.usesWs c p then plain p 5 else [])
  | 5 =>
    let gs := s.gentries c
    let rows := (gs.map (·.rows)).foldl (· + ·) 0
    let a := ptrAt c.raw 0x50
    let b := ptrAt c.raw 0x58
    let l := ptrAt c.raw 0x60
    plain 0 3 ++ plain 0 5 ++ span a (a + cdiv (cdiv rows 8) 64 * 64) ++ span b (b + cdiv c.tokens 4) ++ span l (l + 8 * gs.length)
  | 9 =>
    let m := ptrAt c.raw 0x40
    (s.opd c 0 3).bytes false ++ (if m = 0 then [] else span m (m + 2 * (s.opd c 0 0).mapCount))
  | 10 | 0x18 => (s.opd c 0 3).bytes false
  | 0x19 => (s.fillFields c).flatMap fun f => span (f.1 / 8) (cdiv (f.1 + f.2.1) 8)
  | 0x10 =>
    let other := fun i =>
      if !c.has 0 i then []
      else
        let d := s.opd c 0 i
        match s.regionOf c.ctx d.base (d.spanLen d.fmt.storeBits) with
        | some r => (d.elemBytes 32).map r.writeAt
        | none => []
    let src := s.opd c 0 0
    let long := match s.regionOf c.ctx src.base 1 with | some r => r.long | none => false
    let none_ := c.fld 0x40 0 2 = 0 && s.ownsNo src.rows
    (if c.has 0 3 && !none_ then (s.opd c 0 3).elemBytes (if long && c.fld 0x40 0 2 = 0 then 128 else 32) else []) ++ other 4 ++ other 5
  | 0x11 =>
    let st := ptrAt c.raw 0x48
    let sel := if c.fld 0x40 0 1 = 1 && s.recBit st 4 = 0 then 1 - s.recBit st 2 else s.recBit st 2
    let w := (s.opd c 0 3).pending sel
    s.gathered w w false ++ (if c.has 0 4 then s.gathered w ((s.opd c 0 4).pending sel) true else [])
  | 0x12 =>
    if c.fld 0x40 2 1 = 1 then plain 0 6
    else (if s.ownsNo (s.opd c 0 4).copyRows then [] else pend 1 0 ++ pend 2 1 ++ pend 3 1) ++ pend 4 2 ++ pend 5 2
  | 0x22 => if c.placed then span (c.fld 0x48 0 52) (c.fld 0x48 0 52 + 8) else []
  | _ => []

/-- Make a list of bytes undefined. -/
def State.undefineList (s : State) (l : List Nat) : State :=
  { s with
    undef := l.foldl (fun u a => Tab.set none u a (some s.free)) s.undef
    mem := l.foldl (fun m a => Tab.set (0 : BitVec 8) m a 0) s.mem
    free := s.free + 1 }

/-- Nothing the command has sent waits for its response (R239, step 2). -/
def State.quiet (s : State) (c : Cmd) : Bool :=
  c.owed.isEmpty && c.reads.isEmpty && s.fp.all fun r => fpOwner r.use != some c.id

/-- Regions the aborted command had begun to drain into (R58, R63): without SHADOW a region is TORN and its contents are
undefined; with it the copy the command wrote is undefined and the region keeps its state. The first component counts the regions
made TORN, one that is TORN already not among them (R346). -/
def State.tearRegions (s : State) (c : Cmd) : Nat × State :=
  c.touched.foldl (fun x k =>
    let r := x.2.region c.ctx k
    if r.shadow then (x.1, x.2.undefine (r.writeAt r.base) r.size)
    else (x.1 + (if r.torn then 0 else 1), (x.2.undefine r.base r.size).setRState c.ctx k 2)) (0, s)

/-- The cause as its record carries it: where the command had begun to drain into a region, the record names the region's slot
(R63, R239 step 6; log 17). -/
def Cmd.namedCause (c : Cmd) (f : Cause) : Cause :=
  if c.touched.isEmpty then f else { f with slot := if c.op = 2 || c.op = 4 || c.op = 6 || c.op = 8 then 3 else 4 }

/-- What an abort leaves once nothing more is awaited (R239, steps 3 to 6): regions and destinations, the pins, and the one fault
record. -/
def State.endAbort (s : State) (c : Cmd) (f : Cause) : State :=
  let dests := s.destBytes c
  let (torn, s1) := s.tearRegions c
  let s2 := s1.undefineList dests
  let s3 := s2.updRt c.ctx fun r => { r with resetting := r.resetting.map fun x => { x with torn := x.torn + torn } }
  s3.closeCmd c.id 0x02 (c.namedCause f).payload

/-- An abort ends once every response of the command has returned (R239). -/
def State.finishAbort (s : State) (id : CmdId) : State :=
  match s.cmd id with
  | none => s
  | some c =>
    match c.cause with
    | none => s
    | some f => if c.phase == .aborting && s.quiet c then s.endAbort c f else s

/-- ABORT_DONE: the last response of an aborted command has returned (R239). -/
def execAbortDone (c : CmdId) (s : State) : Host.Outcome State Fault Refusal :=
  .next (if s.alive then s.finishAbort c else s)

/-! ## Tiles and links (R336, R337) -/

/-- A built tile of a channel in service. -/
def State.tileOn (s : State) (t : Nat) : Bool := decide (t < s.build.size.tiles) && s.chOn (s.build.size.chanOf t)

/-- CLOCK_MONITOR: a tile clock outside its limits (R336). -/
def execClockMonitor (t mhz : Nat) (s : State) : Host.Outcome State Fault Refusal :=
  .next (if s.alive && s.tileOn t then (s.tileFault t 0x0603 (t + mhz % 65536 * 65536)).queueTile t else s)

/-- A level lies in the range of a rail (R27), which the supply monitors act on (R336), with the tolerances of R403; in mV: VDD_CORE,
VDD_SRAM, VDD_AON, VDD_AON_B. -/
def railOk (rail mv : Nat) : Bool :=
  match rail with
  | 0 => decide (650 ≤ mv) && decide (mv ≤ 850)
  | 1 => decide (710 ≤ mv) && decide (mv ≤ 790)
  | _ => decide (700 ≤ mv)

/-- SUPPLY: a supply monitor reads a rail. Of VDD_CORE, VDD_SRAM and VDD_AON, rails 0 to 2, one outside its range takes the engine
out of service (R27, R335, R336, R343, R403), and VDD_CORE then stops the count of POWER_ON_SECONDS (R360). VDD_AON_B, rail 3, decides
BACKUP_OK alone (R359, R403; log 173). -/
def execSupply (rail mv : Nat) (s : State) : Host.Outcome State Fault Refusal :=
  if rail % 4 = 3 then (if railOk 3 mv then execVddAonBReturn s else execBackupLow s)
  else .next (
    if s.pins.poreset || railOk (rail % 4) mv then s
    else State.leaveService (if rail % 4 = 0 then { s with pins := { s.pins with coreOut := true } } else s) 0x0608 none none
      (rail % 4 + mv % 65536 * 65536))

/-! ## Droop (R85, R86, R424) -/

/-- DROOP: a supply sensor reports a droop; under ADAPT the tile's clock is lowered, never below 2.6 GHz. DESIGN CHOICE (log
148): a report while the tile already rides a droop changes nothing; R85 does not say what a further one does. -/
def execDroop (t mhz : Nat) (s : State) : Host.Outcome State Fault Refusal :=
  .next (
    if s.alive && s.tileOn t && bits (s.tileMode t) 5 1 == 0 && !(s.tiles.getD t Tile.init).drooping then
      State.addPerf { s with tiles := updAt s.tiles t fun u => { u with drooping := true, freq := max 2600 mhz } }
        .droops 1
    else s)

/-- DROOP_CLEAR: the droop is over and the clock returns to the tile's maximum. -/
def execDroopClear (t : Nat) (s : State) : Host.Outcome State Fault Refusal :=
  .next (
    if s.alive && s.tileOn t && (s.tiles.getD t Tile.init).drooping then
      { s with tiles := updAt s.tiles t fun u => { u with drooping := false } }
    else s)

/-! ## Channel isolation (R348, R349) -/

/-- The command runs on a channel: its array holds the channel, or it runs on the Spur or the drains, which span every
channel in service (R22, R89, R174); a COPY that the Footpath carries runs on none (R236). -/
def State.runsOn (s : State) (ch : Nat) (c : Cmd) : Bool :=
  c.phase == .begun && !s.onFoot c &&
  match c.run.arr with
  | some a => (s.arrChans a).contains ch
  | none => c.run.spur || (c.op = 9 || c.op = 10 || c.op = 0x18 || c.op = 0x19)

/-- The channel is built and neither isolated nor being isolated; its clocks may be gated (R386, R410). -/
def State.chThere (s : State) (ch : Nat) : Bool :=
  decide (ch < s.build.size.channels) && bits s.flt.isolated ch 1 == 0 && bits s.flt.isoBusy ch 1 == 0

/-- Start the isolation of a channel for a cause; code and detail are what the SAFETY record carries (R348). The last
channel in service takes the engine out of service, and its isolation counts like any other (R343, R349, R353). -/
def State.isolate (s : State) (ch : Nat) (cause : Cause) (code detail : Nat) (tile : Option Nat) : State :=
  if !s.chThere ch || s.flt.out then s
  else if (List.range 4).all fun c => c = ch || !s.chOn c then
    let s := { s with flt := { s.flt with isolated := putBits s.flt.isolated ch 1 1 } }
    ((s.addLife 8 1).leaveService code (some ch) tile detail).countEsc code detail
  else
    let victims := (s.cmds.filter (s.runsOn ch)).map (·.id)
    let s := { s with flt := { s.flt with isoBusy := putBits s.flt.isoBusy ch 1 1, isoAt := s.flt.isoAt ++ [(ch, s.pins.now)] } }
    let s := (s.addLife 8 1).safety code (some ch) tile 2 detail
    let s := victims.foldl (fun s id => s.abort id cause) s
    s.countEsc code detail

/-- Isolation for a request or a ladder step: the commands yield CHANNEL_ISOLATED (R348). -/
def State.isolateAs (s : State) (ch code detail : Nat) : State :=
  s.isolate ch (Cause.own 0x0704 (putBits s.chansOut ch 1 1)) code detail none

/-- The channel alone has asked for the line that a command reads. -/
def State.readBy (s : State) (ch l : Nat) : Bool :=
  s.feed.fills.any fun f => f.line == l && !f.asked.isEmpty && f.asked.all (· == ch)

/-- Drains of the channel's tiles alone have written the line for the command. -/
def Cmd.wroteBy (c : Cmd) (ch l : Nat) : Bool :=
  let w := c.wrote.filter fun x => x.1 == l
  !w.isEmpty && w.all fun x => x.2 == ch

/-- The channel's requests of aborted commands are handed to their ports, which count them and discard their responses, and its
feeder stops; what other channels have requested is awaited as before (R348, step 4). -/
def State.handOver (s : State) (ch : Nat) : State :=
  let gone := fun (c : Cmd) => c.phase == .aborting
  let back := fun (c : Cmd) => c.owed.filter (c.wroteBy ch)
  State.endConvoys { s with
    cmds := s.cmds.map fun c => if gone c then
      { c with reads := c.reads.filter fun l => !s.readBy ch l, owed := c.owed.filter fun l => !c.wroteBy ch l } else c
    memq := s.memq.map fun e => if s.cmds.any fun c => gone c && e.owner == .cmd c.id && c.wroteBy ch e.line then { e with owner := .port } else e
    feed := { s.feed with
      handed := s.feed.handed ++ (s.cmds.filter gone).flatMap back
      threads := setAt s.feed.threads ch (List.replicate 32 Thread.init)
      queue := setAt s.feed.queue ch []
      proj := setAt s.feed.proj ch []
      spur := setAt s.feed.spur ch []
      cch := setAt s.feed.cch ch []
      refetch := s.feed.refetch.filter fun l => (setAt s.feed.threads ch []).any fun ths => ths.any fun th => th.outst.contains (l, false)
      fills := s.feed.fills.map fun f => { f with waiters := f.waiters.filter fun w => w.1 != ch } } }

/-- ISOLATION_DONE: the clamps are confirmed; the channel is out of service and the engine DEGRADED (R348, R349). -/
def execIsolationDone (ch : Nat) (s : State) : Host.Outcome State Fault Refusal :=
  .next (
    if s.cfgOpen && !s.flt.out && bits s.flt.isoBusy ch 1 == 1 then
      let s := { s with flt := { s.flt with
        isoBusy := putBits s.flt.isoBusy ch 1 0, isoAt := s.flt.isoAt.filter fun x => x.1 != ch
        isolated := putBits s.flt.isolated ch 1 1, degraded := true, resetting := putBits s.flt.resetting ch 1 0 } }
      (s.handOver ch).setClocks
    else s)

/-- SEQUENCER_MISMATCH: a channel's sequencer isolates it; any other takes the engine out of service (R336, R343). -/
def execSequencerMismatch (u : SeqUnit) (s : State) : Host.Outcome State Fault Refusal :=
  .next (
    if !s.alive then s
    else match u with
      | .channel ch => s.isolate ch (Cause.own 0x0602 ch) 0x0602 ch none
      | .command => s.leaveService 0x0602 none none 4
      | .context => s.leaveService 0x0602 none none 5
      | .traverse => s.leaveService 0x0602 none none 6
      | .mosaic => s.leaveService 0x0602 none none 7
      | .safety => s.leaveService 0x0602 none none 8)

/-! ## Leaving service (R343) -/

/-- SAFE_STATE is asserted, with the ports that still have requests where it was forced. -/
def State.enterSafe (s : State) (ports : Nat) : State :=
  { s with flt := { s.flt with safe := true, portsOpen := ports }, pins := { s.pins with safeAt := some s.pins.now } }

/-- SAFE_STATE: no request is outstanding on any manager port after the engine has left service, or while SYSRESET_N
quiesces it (R343, R401). -/
def execSafeState (s : State) : Host.Outcome State Fault Refusal :=
  .next (if (s.flt.out || s.pins.sysreset) && !s.flt.safe && s.openPorts == 0 then s.enterSafe 0 else s)

/-- The Mosaic lanes on which a frame of the engine's is still held back: any of those that are built, named by the Legend in force and
have been given a frame. What a lane's neighbour does with TREADY is not the engine's, and no row tells it: the choice is free (R254, R344,
R388; log 172). -/
def State.openLanes (s : State) : List Nat :=
  (List.range s.build.size.lanes).filter fun l =>
    Config.freeNat s.free l % 2 == 1 && bits (s.legendOr (·.lanes) 0) l 1 == 1 && s.mos.out.any fun f => f.lane == l

/-- PORTS_OPEN when SAFE_STATE is forced: the memory and Footpath ports with a request outstanding, and the lanes (R344). -/
def State.forcedPorts (s : State) : Nat := s.openLanes.foldl (fun m l => putBits m (17 + l) 1 1) s.openPorts

/-- SAFE_STATE_TIMEOUT: 2 ms after ALERT_N, or after SYSRESET_N, it is asserted anyway, and PORTS_OPEN names the ports that still
have a request outstanding (R343, R344, R401). -/
def execSafeStateTimeout (s : State) : Host.Outcome State Fault Refusal :=
  .next (if ((s.flt.out && s.elapsed s.flt.outAt 2000000) || (s.pins.sysreset && s.elapsed s.pins.sysAt 2000000)) && !s.flt.safe
    then { s.enterSafe s.forcedPorts with free := s.free + 1 } else s)

/-! ## The compute reset (R347) -/

/-- The channels an operation can be reset in. -/
def State.chMask (s : State) : Nat := (List.range 4).foldl (fun m c => if s.chOn c then putBits m c 1 1 else m) 0

/-- The command's work lies on an array, the Spur or the drains; that of a COPY which the Footpath carries does not (R236, R347). -/
def State.onChannels (s : State) (c : Cmd) : Bool :=
  !s.onFoot c && (c.isArrayOp || c.op = 9 || c.op = 10 || c.op = 0x18 || c.op = 0x19)

/-- A command runs on an array, the Spur or the drains. -/
def State.onCompute (s : State) (c : Cmd) : Bool := c.phase == .begun && s.onChannels c

/-- A tile after a compute reset: sheets FREE, buffers and links empty. -/
def Tile.computeReset (t : Tile) : Tile := { Tile.init with freq := t.freq, drooping := t.drooping, temp := t.temp, queued := t.queued }

/-- An array after a compute reset: its scratch is released. -/
def Arr.computeReset (a : Arr) : Arr := { a with shares := [], skewed := false, fed := false, slab := [], held := [], contrib := [], anchors := [], edge := [], joins := [] }

/-- The feeders after a compute reset: every thread FREE and every channel cache empty; fills in flight go on. -/
def Feed.computeReset (f : Feed) : Feed :=
  { f with threads := f.threads.map (fun l => l.map (fun _ => Thread.init)), cch := f.cch.map (fun _ => [])
           queue := f.queue.map (fun _ => []), proj := f.proj.map (fun _ => []), spur := f.spur.map (fun _ => [])
           convoy := f.convoy.map (fun _ => none), refetch := [], asked := [], fills := f.fills.map (fun x => { x with waiters := [] }) }

/-- Start a compute reset: every command on an array, the Spur or the drains is aborted; the array, the feeders and the
channel caches are reset (R347). -/
def State.startComputeReset (s : State) : State :=
  if s.flt.busy then s
  else
    let victims := (s.cmds.filter s.onCompute).map (·.id)
    let s := { s with flt := { s.flt with busy := true, busyAt := s.pins.now, resetting := s.chMask } }
    let s := victims.foldl (fun s id => s.abort id (Cause.own 0x0703 0)) (s.addLife 7 1)
    let s := { s with
      tiles := s.tiles.map Tile.computeReset
      arrs := s.arrs.map Arr.computeReset
      feed := s.feed.computeReset }
    s.countEsc 0x0703 0

/-- A write to GPE_RESET (R347, R348, R410): the isolations first, then the compute reset over the channels still in
service. -/
def State.writeReset (s : State) (v : W64) : State :=
  if s.flt.out then s
  else
    let s := (maskBits (bits v.toNat 4 4) 4).foldl (fun s ch => s.isolateAs ch 0x0704 (putBits s.chansOut ch 1 1)) s
    if bits v.toNat 0 1 = 1 && !s.flt.out then s.startComputeReset else s

/-- COMPUTE_RESET: a write to GPE_RESET that sets COMPUTE. -/
def execComputeReset (v : W64) (s : State) : Host.Outcome State Fault Refusal :=
  .next (s.cfgWrite fun s => s.writeReset (v ||| 1#64))

/-- ISOLATE: a write to GPE_RESET that names channels. -/
def execIsolate (v : W64) (s : State) : Host.Outcome State Fault Refusal :=
  .next (s.cfgWrite fun s => s.writeReset v)

/-- The channels have acknowledged a context reset that runs (R350). -/
def CtxRt.ack (r : CtxRt) : CtxRt := { r with resetting := r.resetting.map fun x => { x with acked := true } }

/-- COMPUTE_RESET_DONE: every channel has finished, which acknowledges a context reset that runs (R350); a pending Legend takes effect
in the last cycle (R347, R386). -/
def execComputeResetDone (s : State) : Host.Outcome State Fault Refusal :=
  .next (
    if s.cfgOpen && !s.flt.out && s.flt.busy then
      State.applyLegend { s with flt := { s.flt with busy := false, resetting := 0 }, rts := s.rts.map fun e => (e.1, e.2.ack) }
    else s)

/-! ## The ladder (R350) -/

/-- RESET_HANG: a step of the ladder has not ended within its bound: 5 ms for a context reset, 8 ms for a compute reset, 1 ms for
an isolation. -/
def execResetHang (h : Hang) (s : State) : Host.Outcome State Fault Refusal :=
  .next (
    if !s.cfgOpen || s.flt.out then s
    else match h with
      | .context ctx chans unit =>
        match (s.rt ctx).resetting with
        | none => s
        | some r =>
          if !s.elapsed r.since 5000000 then s else
          let d := chans % 16 * 16 + unit % 16 * 256
          if 4 ≤ unit then s.leaveService 0x0705 none none d
          else
            let on := (maskBits chans 4).filter s.chOn
            let s := s.updRt ctx fun r => { r with resetting := r.resetting.map fun x =>
              { x with escalated := x.escalated || !on.isEmpty, channels := on.foldl (fun m c => putBits m c 1 1) x.channels } }
            on.foldl (fun s ch => s.isolateAs ch 0x0705 d) s
      | .compute chans =>
        if s.flt.busy && s.elapsed s.flt.busyAt 8000000 then
          ((maskBits chans 4).filter s.chOn).foldl (fun s ch =>
            State.isolateAs { s with flt := { s.flt with resetting := putBits s.flt.resetting ch 1 0 } } ch 0x0705 (1 + chans % 16 * 16)) s
        else s
      | .isolation chans =>
        if s.flt.isoAt.any (fun x => bits (s.flt.isoBusy &&& (chans % 16)) x.1 1 == 1 && s.elapsed x.2 1000000) then s.leaveService 0x0705 none none (2 + chans % 16 * 16) else s)

end Sys2Proof.Machine
end

