-- ==== Sys2Proof/Machine/Round.lean ====
section
/-! DEFINITION. Rounds: the update record and its commits, the seal and the void of a round, UNDECIDED and the queues'
resumption (R255, R260 to R265, R268, R270, R272, R275, R282, R283). -/

namespace Sys2Proof.Machine

open Sys2Proof

/-! ## The update record (R275, R282) -/

/-- Rewrite the selector word of an update record. -/
def State.setRecWord (s : State) (ctx rec_ : Nat) (f : Nat → Nat) : State :=
  s.ownWrite ctx (rec_ + 0x10) (leBytes 4 (f (s.memLE (rec_ + 0x10) 4)))

/-- A bit inverted. -/
def flipBit (v i : Nat) : Nat := putBits v i 1 (1 - bits v i 1)

/-- The state of an update commits, in one write of its record (R282). -/
def State.commitRec (s : State) (ctx : Nat) (u : UpdRec) : State :=
  let w := s.memLE (u.state + 0x10) 4
  let w := putBits (putBits (flipBit (flipBit w 0) 1) 3 1 0) 4 1 1
  let old := s.memBytes u.state 16
  let head := if u.skipped then old else leBytes 8 (leNat (old.take 8) + 1) ++ leBytes 4 u.p1 ++ leBytes 4 u.p2
  let s := s.ownWrite ctx u.state (head ++ leBytes 4 w ++ s.memBytes (u.state + 0x14) 4 ++ leBytes 8 u.round.toNat)
  s.addPerf (if u.skipped then .skips else .commits) 1

/-- The working copies flip, in a second write of the record (R282). -/
def State.flipWork (s : State) (ctx rec_ : Nat) : State := s.setRecWord ctx rec_ fun w => putBits (flipBit w 2) 4 1 0

/-- Commit every completed update of a sealed round (R282). -/
def State.commitUpdates (s : State) (ctx : Nat) : State :=
  let us := (s.rt ctx).stream.updates
  let due := fun (u : UpdRec) => u.complete && !u.committed && u.round != (s.ctx ctx).round
  let s1 := (us.filter due).foldl (fun s u => s.commitRec ctx u) s
  s1.updStream ctx fun x => { x with updates := x.updates.map fun u => if due u then { u with committed := true } else u }

/-- A gather may flip its working copies: every shard is here, and its update has committed, or it is a REPLAY (R264, R265,
R282). -/
def Stream.gatherDue (x : Stream) (g : GatherRec) : Bool :=
  g.full && (g.replay || x.updates.any fun u => u.idx == g.idx && u.committed)

/-- Flip the working copies of the gathers that are due; their commands are done (R264). A REPLAY on a rank whose copies
had already flipped rewrites the committed copy and flips nothing (R265; log 18). -/
def State.settleGathers (s : State) (ctx : Nat) : State :=
  let x := (s.rt ctx).stream
  (x.gathers.filter x.gatherDue).foldl (fun s g =>
    let s := if s.recBit g.state 4 = 1 then s.flipWork ctx g.state else s
    let s := s.updCmd g.cmd fun c => { c with phase := if c.phase == .begun then .done else c.phase }
    s.updStream ctx fun y => { y with gathers := y.gathers.filter fun h => h.cmd != g.cmd }) s

/-! ## Seal -/

/-- Write zeros over a region's committed copy (R270); the responses of these writes are the ports' own. -/
def State.zeroRegion (s : State) (ctx k : Nat) : State :=
  let r := s.region ctx k
  let ws := (List.range r.size).map fun i => (r.readAt (r.base + i), (0 : Byte))
  let s := s.bulkWrite ws
  State.memAdd { s with feed := { s.feed with handed := s.feed.handed ++ linesOfWrites ws } } (wrsOf .port ws)

/-- Flip a region's selector. -/
def State.flipSel (s : State) (ctx k : Nat) : State := s.setSel ctx k (1 - (s.region ctx k).sel)

/-- What the seal does with the residual and factors of one step: a generalised step's copies flip, a full step's residual
becomes zero (R269, R270). -/
def State.sealStep (s : State) (ctx : Nat) (t : StepRec) : State :=
  if t.gen then
    let s := match t.res with | some k => s.flipSel ctx k | none => s
    let s := match t.fac with | some k => s.flipSel ctx k | none => s
    s.updStream ctx fun x => { x with
      factors := (x.factors.filter fun f => f.1 != t.idx) ++ [(t.idx, t.rho)]
      residual := if x.residual.contains t.idx then x.residual else x.residual ++ [t.idx] }
  else if t.addRes then
    let s := match t.res with | some k => s.zeroRegion ctx k | none => s
    s.updStream ctx fun x => { x with residual := x.residual.filter (· != t.idx) }
  else s

/-- The stream with its round decided: nothing of the round is placed any more. -/
def Stream.decide_ (x : Stream) (sealed : Bool) : Stream :=
  { x with steps := [], past := if sealed then x.steps else x.past, prev := false, ready := false, closeIn := none
           closeOut := none, deadline := false, gen := x.genNext
           early := sealed && !x.prev }

/-- The deadline's Bearing of a context in this pass (R258, R321). -/
def State.deadlineBearing (s : State) (ctx : Nat) : Nat := (s.rt ctx).oldDeadline.getD (s.ctx ctx).mosDeadline

/-- A deadline that falls due with its Bearing behind it does not fire in this pass (R292). -/
def State.markLate (s : State) (ctx : Nat) : State :=
  s.updRt ctx fun r => { r with late := s.dat.tracker == .track && decide (s.deadlineBearing ctx < s.bearing) }

/-- Apply SEAL (R255, R264, R268, R282): the counter advances, the round is OPEN, updates commit and gathers flip. -/
def State.sealRound (s : State) (ctx : Nat) : State :=
  let x := (s.rt ctx).stream
  let s := x.steps.foldl (fun s t => s.sealStep ctx t) s
  let s := s.updCtx ctx fun c => { c with round := c.round + 1#64, voidRun := 0, roundState := .idle,
                                          gsLeft := if x.gen then c.gsLeft - 1 else c.gsLeft }
  let s := s.updStream ctx fun y => { (y.decide_ true) with sealSeq := (s.ctx ctx).seq }
  ((s.markLate ctx).commitUpdates ctx).settleGathers ctx

/-! ## Void -/

/-- The updates of the round that have not committed are discarded (R283): their pending bits clear and their pending copies
hold undefined values. One that was aborted in an earlier round is none of this round's. -/
def State.discardUpdates (s : State) (ctx : Nat) : State :=
  let mine := fun (u : UpdRec) => !u.committed && u.round == (s.ctx ctx).round
  let us := (s.rt ctx).stream.updates.filter mine
  let s1 := us.foldl (fun s u =>
    let s := s.setRecWord ctx u.state fun w => putBits (putBits w 3 1 0) 4 1 0
    s.undefineList (u.pend.flatMap fun p => ((TDesc.ofNat p.1).pending p.2).bytes false)) s
  s1.updStream ctx fun x => { x with updates := x.updates.filter fun u => !mine u }

/-- GS_ROUNDS and the thinning switch at the second void in a row (R268). DESIGN CHOICE (log 205): a count that reached 2 under OFF counts as
having reached it at the next void under AUTO. -/
def State.countVoid (s : State) (ctx : Nat) : State :=
  let gs := match s.lgd.inForce with | some l => l.gsRounds | none => 16
  s.updCtx ctx fun c =>
    let n := min 3 (c.voidRun + 1)
    if bits s.mode.set 6 1 = 1 && decide (2 ≤ n) then { c with voidRun := 0, gsLeft := gs } else { c with voidRun := n }

/-- Drop what the lanes hold of a stream (R254, R272): received frames that wait and frames held by a send window. -/
def State.dropFrames (s : State) (ctx : Nat) : State :=
  let m := (s.ctx ctx).msid
  { s with mos := { s.mos with
      hold := s.mos.hold.filter fun f => leNat ((f.bytes.drop 2).take 2) != m
      held := s.mos.held.filter fun f => f.1 != ctx } }

/-- The ROUND_VOID event, and the life counter (R261 step 1, R360). -/
def State.voidRecord (s : State) (ctx flushed : Nat) : State :=
  (s.emitCtx ctx 0x10 0 ((s.ctx ctx).round.toNat + flushed * 2 ^ 64)).addLife 12 1

/-- Pause the context's queues (R260, R261 step 6). -/
def State.pauseQueues (s : State) (ctx : Nat) : State :=
  let qs := (s.cmqs.filter fun e => e.2.ctx == ctx && e.2.state == .active).map (·.1)
  qs.foldl (fun s q => s.updCmq q fun e => { e with state := .paused }) s

/-- Every region of the context returns to FRESH (R58, R261 step 3). -/
def State.freshRegions (s : State) (ctx : Nat) : State :=
  (List.range (s.ctx ctx).regionCount).foldl (fun s k => s.setRState ctx k 0) s

/-- The regions of a void round are FRESH whatever the commands it flushes had drained into them: their aborts leave them so
(R34, R58, R261 step 3). -/
def State.forgetDrains (s : State) (ctx : Nat) : State :=
  { s with cmds := s.cmds.map fun c => if c.ctx = ctx && c.phase == .aborting then { c with touched := [], firsts := [] } else c }

/-- Apply VOID (R261), its steps in order. -/
def State.voidRound (s : State) (ctx : Nat) : State :=
  let mine := s.cmds.filter fun c => c.ctx == ctx && c.phase != .aborting
  let round := (s.ctx ctx).round
  let s := s.voidRecord ctx mine.length
  let s := mine.foldl (fun s c => s.abort c.id (Cause.own 0x0501 round.toNat)) s
  let s := (s.freshRegions ctx).forgetDrains ctx
  let s := (s.discardUpdates ctx).updStream ctx fun x => { (x.decide_ false) with gathers := [], vec := none }
  let s := (s.dropFrames ctx).countVoid ctx
  let s := s.updCtx ctx fun c => { c with roundState := .voidHold }
  s.pauseQueues ctx

/-- What a context reset does to the round (R272): steps 1, 4 and 5 of R261. A round in VOID_HOLD is void already. -/
def State.voidByReset (s : State) (ctx : Nat) : State :=
  if (s.ctx ctx).sendEvery = 0 then s
  else if (s.ctx ctx).roundState == .voidHold then s.dropFrames ctx
  else
    let s := s.voidRecord ctx 0
    let s := (s.discardUpdates ctx).updStream ctx fun x => { (x.decide_ false) with gathers := [], vec := none }
    (s.dropFrames ctx).countVoid ctx

/-- Enter UNDECIDED (R260): a fault record of the context, and its queues pause. -/
def State.undecide (s : State) (ctx : Nat) : State :=
  let s := s.emitCtx ctx 0x02 0 (Cause.own 0x0502 (s.ctx ctx).round.toNat).payload
  (s.updCtx ctx fun c => { c with roundState := .undecided }).pauseQueues ctx

/-- PAUSED queues of a context become ACTIVE. -/
def State.resumeQueues (s : State) (ctx : Nat) : State :=
  let qs := (s.cmqs.filter fun e => e.2.ctx == ctx && e.2.state == .paused).map (·.1)
  qs.foldl (fun s q => s.updCmq q fun e => { e with state := .active }) s

end Sys2Proof.Machine
end

