-- ==== Sys2Proof/Machine/Traverse.lean ====
section
/-! DEFINITION. The Traverse: the stack of frames and marks, pushes on TRV0 and TRV1, pops, marks and discards (R151 to
R170). -/

namespace Sys2Proof.Machine

open Sys2Proof

/-! ## Space (R151 to R154) -/

/-- Records of a context in a tier: those of entries not yet freed and those reserved by frames being received. -/
def State.trvRecords (s : State) (ctx : Nat) (tier2 : Bool) : List (Nat × Nat) :=
  ((s.rt ctx).stack.filter fun e => e.tier2 == tier2).map (fun e => (e.addr, e.size))
    ++ (((s.trv.rx0 ++ s.trv.rx1).filter fun x => x.ctx = ctx && x.tier2 == tier2).map fun x => (x.addr, x.size))

/-- Base of a context's range in a tier. -/
def State.trvBase (s : State) (ctx : Nat) (tier2 : Bool) : Nat :=
  4096 * (if tier2 then (s.ctx ctx).trvBase2 else (s.ctx ctx).trvBase1)

/-- Bytes of a context's range in a tier. -/
def State.trvSize (s : State) (ctx : Nat) (tier2 : Bool) : Nat :=
  4096 * (if tier2 then (s.ctx ctx).trvSize2 else (s.ctx ctx).trvSize1)

/-- Bytes in use in a range: those of its records, TOP1 and TOP2 of the entry (R152). -/
def State.trvUsed (s : State) (ctx : Nat) (tier2 : Bool) : Nat := ((s.trvRecords ctx tier2).map (·.2)).foldl (· + ·) 0

/-- The Traverse spill switch of the Legend in force is ON (R154). -/
def State.spillOn (s : State) : Bool := match s.lgd.inForce with | some g => g.spill | none => false

/-- The first free byte above a context's records in a tier, from the range's base. -/
def State.trvTop (s : State) (ctx : Nat) (tier2 : Bool) : Nat :=
  (s.trvRecords ctx tier2).foldl (fun m r => max m (r.1 + r.2 - s.trvBase ctx tier2)) 0

/-- Free bytes above the records of a tier. -/
def State.trvFree (s : State) (ctx : Nat) (tier2 : Bool) : Nat := s.trvSize ctx tier2 - s.trvTop ctx tier2

/-- Where a record goes (R154): its tier and its address; none where it fits neither range, the spill range only while spill is
enabled, or DEPTH would pass 65,535. -/
def State.trvPlace (s : State) (ctx size : Nat) : Option (Bool × Nat) :=
  let depth := (s.trvRecords ctx false).length + (s.trvRecords ctx true).length
  if 65535 ≤ depth then none
  else if (s.trvRecords ctx true).isEmpty && decide (size ≤ s.trvFree ctx false) then
    some (false, s.trvBase ctx false + s.trvTop ctx false)
  else if s.spillOn && decide (size ≤ s.trvFree ctx true) then some (true, s.trvBase ctx true + s.trvTop ctx true)
  else none

/-- The detail of TRAVERSE_FULL (R339), in units of 4 KiB. DESIGN CHOICE (log 151): a record size that is no multiple is rounded up
and free bytes down; R339 does not say. -/
def State.trvFullDetail (s : State) (ctx size : Nat) : Nat :=
  let sat := fun n => min n 2097151
  sat (cdiv size 4096) + sat (s.trvFree ctx false / 4096) * 2 ^ 21 + sat (s.trvFree ctx true / 4096) * 2 ^ 42

/-! ## Frame headers (R156 to R158) -/

/-- The header of a frame. -/
structure TrvHead where
  kind : Nat
  ctx : Nat
  tag : Nat
  sfmt : Nat
  dfmt : Nat
  mode : Nat
  scaleFmt : Nat
  src : Nat
  round : Nat
  ovf : Bool
  rows : Nat
  cols : Nat
  resv : Bool
  deriving DecidableEq, Repr, Inhabited

/-- The header of the first beat (R157). -/
def TrvHead.of (l : List Byte) : TrvHead :=
  let b := fun o n => leNat ((l.drop o).take n)
  { kind := b 0 1, ctx := b 2 2, tag := b 4 4, sfmt := bits (b 8 1) 0 4, dfmt := bits (b 8 1) 4 4, mode := bits (b 9 1) 0 3
    scaleFmt := bits (b 9 1) 3 2, src := bits (b 9 1) 5 2, round := bits (b 10 1) 0 2, ovf := bits (b 10 1) 2 1 == 1
    rows := b 12 4, cols := b 16 4
    resv := b 1 1 != 0 || bits (b 9 1) 7 1 != 0 || bits (b 10 1) 3 5 != 0 || b 11 1 != 0 || ((l.take 128).drop 0x14).any (· != 0#8) }

/-- The stored tensor of a frame at a record address (R153). -/
def TrvHead.tensor (h : TrvHead) (addr : Nat) : TDesc :=
  { TDesc.ofFrame ⟨0, false, h.tag, h.rows, h.cols, h.dfmt, h.mode, h.scaleFmt, addr, 0, false, false, none⟩ with
    src := h.src, round := h.round, ovf := h.ovf }

/-- The frame is sent converted (R158). -/
def TrvHead.converted (h : TrvHead) : Bool := h.sfmt != h.dfmt

/-- A form of R158, with the row limit of R138; R157 makes a sidecar malformed and R130 rejects SCALE_FMT 3 whatever the mode, while
SCALE_SRC is not looked at under SCALE_MODE NONE (log 176). Rows
follow each other without padding, so any number of columns has its place (R158); a packed dimension that is not whole is judged
of a resolved frame (R164). -/
def TrvHead.formOk (h : TrvHead) : Bool :=
  let float := fun c => (Fmt.ofCode c).isFloat
  decide (1 ≤ h.dfmt) && decide (h.dfmt ≤ 8) && decide (h.sfmt ≤ 8) && float h.sfmt && h.round != 3
    && decide (h.mode ≤ 4) && decide (h.scaleFmt ≤ 1) &&
  if h.converted then
    decide (h.sfmt ≤ 3) && (h.mode == 0 || decide (h.src ≤ 1))
      && !(h.mode == 1 && decide (65536 < cdiv (h.cols * (Fmt.ofCode h.sfmt).storeBits) 8))
  else h.mode == 0 || h.src == 2

/-- The header is well formed (R157, R158, R161). -/
def TrvHead.ok (h : TrvHead) : Bool :=
  !h.resv && (h.kind == 2 || (h.kind == 1 && h.rows != 0 && h.cols != 0 && h.formOk))

/-- Bytes of a run of elements packed under R91. -/
def packedBytes (fmt n : Nat) : Nat := cdiv (n * (Fmt.ofCode fmt).storeBits) 8

/-- Bytes of the frame's elements as sent. -/
def TrvHead.elemBytes (h : TrvHead) : Nat := packedBytes h.sfmt (h.rows * h.cols)

/-- Bytes of the frame's stored scale array. -/
def TrvHead.scaleBytes (h : TrvHead) : Nat := (h.tensor 0).scaleCount * (h.tensor 0).scaleBytes

/-- Beats of 128 B the header implies, itself included (R156, R158). -/
def TrvHead.beats (h : TrvHead) : Nat :=
  if h.kind = 2 then 1
  else 1 + cdiv h.elemBytes 128 + (if h.converted then 0 else cdiv h.scaleBytes 128)

/-- The size of the stored record (R153). -/
def TrvHead.recordSize (h : TrvHead) : Nat :=
  if h.kind = 2 then 256
  else 256 + cdiv (packedBytes h.dfmt (h.rows * h.cols)) 256 * 256 + cdiv h.scaleBytes 256 * 256

/-! ## Pushes (R160, R161) -/

/-- A frame is dropped: counted; the stack becomes BROKEN where the cause says so; with a fault record where it has one. -/
def State.trvDrop (s : State) (ctx tag : Nat) (broken : Bool) (fault : Option Cause) (engine : Bool) : State :=
  let s := s.addPerf .drops 1
  let s := if broken then s.updCtx ctx fun c => { c with broken := true } else s
  match fault with
  | none => s
  | some f =>
    let who := if s.ctxExists ctx then ctx else 0xFFFF
    s.emit (if engine then s.engineEvq else s.ctxEvq ctx) ⟨0x02, who, 0xFFFF, tag, f.payload⟩

/-- The frames received on a port that have not committed. -/
def State.trvRx (s : State) (port : Nat) : List TrvRx := if port = 0 then s.trv.rx0 else s.trv.rx1

/-- KiB of a port's 1 MiB of staging that hold no frame (R162). -/
def State.trvStagingFree (s : State) (port : Nat) : Nat :=
  1024 - cdiv (((s.trvRx port).map (·.staged)).foldl (· + ·) 0) 1024

/-- Set the frames received on a port. -/
def State.setRx (s : State) (port : Nat) (r : List TrvRx) : State :=
  { s with trv := if port = 0 then { s.trv with rx0 := r } else { s.trv with rx1 := r } }

/-- The key of a frame's survey conversion (R159). -/
def State.frameKey (s : State) (h : TrvHead) : Key :=
  let c := s.ctx h.ctx
  commandKey c.seed (if c.sendEvery = 0 then 0 else c.round) c.passInRound (BitVec.ofNat 32 h.tag)

/-- The bytes of a DATA frame's elements and scales, as fields of bits in its record (R153, R158). -/
def State.framePayload (s : State) (h : TrvHead) (addr : Nat) (body : List Byte) : List (Nat × Nat × Nat) :=
  let d := h.tensor addr
  if h.converted then
    let f := Fmt.ofCode h.sfmt
    let w := f.storeBits
    let v := leNat body
    let xs := (List.range h.rows).flatMap fun r => (List.range h.cols).map fun c =>
      let code := bits v ((r * h.cols + c) * w) w
      (r, c, f.decode (if f == .fp19 then code / 8192 else code))
    (s.convertAll d false ⟨s.frameKey h, 0, 0, s.free⟩ xs).fields
  else
    let n := h.elemBytes
    let put := fun (a : Nat) (l : List Byte) => (List.range l.length).map fun i => (((a + i) * 8, 8, (l.getD i 0).toNat) : Nat × Nat × Nat)
    put (addr + 256) (body.take n) ++ put d.sptr ((body.drop (cdiv n 128 * 128)).take h.scaleBytes)

/-- Take a frame (R153, R160): its record is written, and the commit waits for the write responses. The bookkeeping bytes
of the head are the engine's own, free values. -/
def State.takeFrame (s : State) (port : Nat) (h : TrvHead) (place : Bool × Nat) (bytes : List Byte) : State :=
  let addr := place.2
  let head := (List.range 128).map fun i => (addr + i, bytes.getD i 0)
  let fs := if h.kind = 2 then [] else s.framePayload h addr (bytes.drop 128)
  let s1 := s.undefine (addr + 128) 128
  let ws := head ++ s1.packBits fs
  let s2 := (s1.bulkWrite ws).setRx port (s.trvRx port ++ [⟨s.trv.nextId, h.ctx, h.tag, h.kind == 2, h.rows, h.cols, h.dfmt, h.mode,
    h.scaleFmt, addr, h.recordSize, place.1, bytes.length, linesOfWrites ws⟩])
  State.memAdd { s2 with trv := { s2.trv with nextId := s2.trv.nextId + 1 } } (wrsOf (.frame s.trv.nextId) ws)

/-- A frame arrives on a port (R156 to R161): the causes of a drop in their order, else its reservation and its writes. -/
def State.trvPush (s : State) (port : Nat) (bytes : List Byte) : State :=
  let h := TrvHead.of bytes
  let c := s.ctx h.ctx
  let own := fun code detail => some (Cause.own code detail)
  if !s.ctxExists h.ctx || c.trvSize1 == 0 || c.state == .quarantined then
    s.trvDrop h.ctx h.tag false (own 0x0401 (port + h.ctx * 65536)) true
  else if c.state == .resetting then s.trvDrop h.ctx h.tag false none false
  else if c.broken then s.trvDrop h.ctx h.tag false none false
  else if !h.ok then s.trvDrop h.ctx h.tag true (own 0x0402 port) false
  else
    match s.trvPlace h.ctx h.recordSize with
    | none => s.trvDrop h.ctx h.tag true (own 0x0403 (s.trvFullDetail h.ctx h.recordSize)) false
    | some p =>
      let beats := bytes.length / 128
      if beats ≠ h.beats then s.trvDrop h.ctx h.tag true (own 0x0402 (port + (min beats h.beats - 1) * 2 ^ 32)) false
      else s.takeFrame port h p bytes

/-- TRAVERSE_PUSH: a whole frame on TRV0 or TRV1, from its header beat to TLAST, every beat a full one of 128 B (R156, R396). A port whose
staging is full holds its beats back (R162). -/
def execTraversePush (port : Nat) (bytes : List Byte) (s : State) : Host.Outcome State Fault Refusal :=
  .next (
    if !s.alive || decide (s.build.size.trvPorts ≤ port) || s.trvStagingFree port == 0 || bytes.isEmpty
        || bytes.length % 128 != 0 then s
    else s.trvPush port bytes)

/-- A frame commits (R160): it becomes the top entry, and a push unless it is a mark (R170). The port's oldest frame whose
responses have all returned is the one. One of TRV0 goes below those TRV1 committed in the same control clock cycle (R160). -/
def State.trvCommit (s : State) (port : Nat) : State :=
  match (s.trvRx port).find? fun r => r.owed.isEmpty with
  | none => s
  | some r =>
    let e : TrvEntry := ⟨r.id, r.mark, r.tag, r.rows, r.cols, r.fmt, r.scaleMode, r.scaleFmt, r.addr, r.size, r.tier2, false,
      if port = 0 then none else some s.pins.now⟩
    let s := s.setRx port ((s.trvRx port).filter fun x => x.id != r.id)
    let s := s.updRt r.ctx fun x =>
      let k := if port = 0 then x.stack.findIdx fun y => y.trv1 == some s.pins.now else x.stack.length
      { x with stack := x.stack.take k ++ [e] ++ x.stack.drop k }
    if r.mark then s else s.addPerf .pushes 1

/-- TRAVERSE_COMMIT: the last byte is written and every write response has returned. -/
def execTraverseCommit (port : Nat) (s : State) : Host.Outcome State Fault Refusal :=
  .next (if s.alive then s.trvCommit port else s)

/-- The write responses still owed for a frame that is dropped: a reset of its context awaits them (R345 step 4), else their ports do.
Writes of it not yet sent are made no more. -/
def State.leaveOwed (s : State) (r : TrvRx) : State :=
  let x := s.memStop (.frame r.id) r.owed
  let s := x.2.memLeave (.frame r.id) fun _ => true
  match (s.rt r.ctx).resetting with
  | some _ => s.updRt r.ctx fun y => { y with resetting := y.resetting.map fun z => { z with owed := z.owed ++ x.1 } }
  | none => { s with feed := { s.feed with handed := s.feed.handed ++ x.1 } }

/-- A frame being received is dropped for a cause met in its course (R161): its reservation is released. -/
def State.trvFail (s : State) (port id : Nat) (f : Cause) : State :=
  match (s.trvRx port).find? fun r => r.id == id with
  | none => s
  | some r => ((s.leaveOwed r).setRx port ((s.trvRx port).filter fun x => x.id != id)).trvDrop r.ctx r.tag true (some f) false

/-! ## Pops and discards (R165 to R170) -/

/-- Remove entries from the stack for resolution; each frame counts as a discard, but for those that are popped. Their
freeing follows one by one (R165, R168). -/
def State.trvRemove (s : State) (ctx : Nat) (ids popped : List Nat) : State :=
  let es := (s.rt ctx).live.filter fun e => ids.contains e.id
  let frames := es.filter fun e => !e.mark
  let pops := frames.filter fun e => popped.contains e.id
  let s := s.updRt ctx fun r => { r with stack := r.stack.map fun e => if ids.contains e.id then { e with removed := true } else e }
  (s.addPerf .pops pops.length).addPerf .discards (frames.length - pops.length)

/-- The pops of a completed command (R165): each frame it named with READ_POP, and every entry above it. -/
def State.popFrames (s : State) (c : Cmd) : State :=
  let live := (s.rt c.ctx).live
  let names := (c.frames.filter (·.pop)).map (·.entry)
  match (List.range live.length).find? fun i => names.contains (live.getD i default).id with
  | none => s
  | some i => s.trvRemove c.ctx ((live.drop i).map (·.id)) names

/-- A discard whose last entry has been freed is done (R168). -/
def State.settleDiscard (s : State) (ctx entry : Nat) : State :=
  { s with cmds := s.cmds.map fun c =>
      if c.ctx = ctx && c.op == 0x0B && c.removes.contains entry then
        let l := c.removes.filter (· != entry)
        { c with removes := l, phase := if l.isEmpty && c.phase == .begun then .done else c.phase }
      else c }

/-- TRAVERSE_ENTRY_FREE: the topmost removed entry is freed once nothing pins it; its bytes return (R165). DESIGN CHOICE (log 174):
entries above a pinned one of the same removal are freed at once. -/
def execTraverseEntryFree (ctx : Nat) (s : State) : Host.Outcome State Fault Refusal :=
  .next (
    if !s.alive then s
    else match ((s.rt ctx).stack.filter (·.removed)).getLast? with
      | none => s
      | some e =>
        if s.pinned ctx e.id then s
        else (s.updRt ctx fun r => { r with stack := r.stack.filter fun x => x.id != e.id }).settleDiscard ctx e.id)

/-! ## TRAVERSE_MARK (R167, R168) -/

/-- Whether a mark command carries an operation. -/
def Cmd.markOp (c : Cmd) : Nat := c.fld 0x40 0 2

/-- Start a discard of the entries given. -/
def State.startDiscard (s : State) (c : Cmd) (ids : List Nat) : State :=
  if c.placed then s
  else
    let s := s.trvRemove c.ctx ids []
    s.updCmd c.id fun x => { x with placed := true, removes := ids, phase := if ids.isEmpty then .done else x.phase }

/-- PUSH_MARK: a mark at the top; the bytes of its record are the engine's own. DESIGN CHOICE (log 175): a context with a spill range
and no tier-1 range takes it there. -/
def State.pushMark (s : State) (c : Cmd) : State :=
  let id := c.fld 0x44 0 32
  if c.markOp ≠ 0 then s
  else
    match s.trvPlace c.ctx 256 with
    | none => s.abort c.id (Cause.own 0x0403 (s.trvFullDetail c.ctx 256))
    | some p =>
      let e : TrvEntry := ⟨s.trv.nextId, true, id, 0, 0, 0, 0, 0, p.2, 256, p.1, false, none⟩
      let s := { (s.undefine p.2 256) with trv := { s.trv with nextId := s.trv.nextId + 1 } }
      let s := s.updRt c.ctx fun x => { x with stack := x.stack ++ [e] }
      (s.updCmd c.id fun x => { x with phase := .done, owed := x.owed ++ [lineOf p.2] }).memAdd [⟨.cmd c.id, lineOf p.2, p.2, p.2 + 256, false⟩]

/-- PUSH_MARK (R167). -/
def execPushMark (c : CmdId) (s : State) : Host.Outcome State Fault Refusal := .next (s.runOp c 0x0B s.pushMark)

/-- DISCARD_TO_MARK: every entry above the topmost mark with MARK_ID, and that mark (R168). -/
def State.discardToMark (s : State) (c : Cmd) : State :=
  if c.markOp ≠ 1 || c.placed then s
  else
    let live := (s.rt c.ctx).live
    let hit := fun (i : Nat) => let e := live.getD i default; e.mark && e.tag == c.fld 0x44 0 32
    match ((List.range live.length).filter hit).getLast? with
    | none => s.abort c.id (Cause.own 0x0406 (c.fld 0x44 0 32))
    | some i => s.startDiscard c ((live.drop i).map (·.id))

/-- DISCARD_TO_MARK (R167). -/
def execDiscardToMark (c : CmdId) (s : State) : Host.Outcome State Fault Refusal := .next (s.runOp c 0x0B s.discardToMark)

/-- DISCARD_ALL: every entry. -/
def State.discardEvery (s : State) (c : Cmd) : State :=
  if c.markOp ≠ 2 then s else s.startDiscard c ((s.rt c.ctx).live.map (·.id))

/-- DISCARD_ALL (R167). -/
def execDiscardAll (c : CmdId) (s : State) : Host.Outcome State Fault Refusal := .next (s.runOp c 0x0B s.discardEvery)

/-! ## Context reset (R169) -/

/-- The Traverse of a context under a reset: every frame counts as a discard; frames being received are dropped. -/
def State.trvReset (s : State) (ctx : Nat) : State :=
  let s := s.trvRemove ctx ((s.rt ctx).live.map (·.id)) []
  let s := ((s.trv.rx0 ++ s.trv.rx1).filter fun r => r.ctx == ctx).foldl State.leaveOwed s
  [0, 1].foldl (fun s p =>
    let mine := (s.trvRx p).filter fun r => r.ctx == ctx
    (s.setRx p ((s.trvRx p).filter fun r => r.ctx != ctx)).addPerf .drops mine.length) s

/-- The Traverse of a context that is destroyed: its frames count as discards, so that R170 holds, and leave at once, nothing
pinning them; frames being received are dropped. DESIGN CHOICE (log 152): no rule says what becomes of them. -/
def State.trvDestroy (s : State) (ctx : Nat) : State := (s.trvReset ctx).updRt ctx fun r => { r with stack := [] }

end Sys2Proof.Machine
end

