-- ==== Sys2Proof/Machine/Mosaic.lean ====
section
/-! DEFINITION. The Mosaic: shards, frames and their drops, the reduce-scatter, the exact and the generalised exchange, the
vector all-reduce and the gather (R241 to R254, R263 to R271). -/

namespace Sys2Proof.Machine

open Sys2Proof

/-! ## Lanes (R241, R243) -/

/-- The lanes in service. -/
def State.lanesOn (s : State) : List Nat :=
  match s.lgd.inForce with | some l => (maskBits l.lanes 4).filter (· < s.build.size.lanes) | none => []

/-- The lane of row ρ of a shard (R243). -/
def State.laneOf (s : State) (row : Nat) : Nat := s.lanesOn.getD (row % max 1 s.lanesOn.length) 0

/-! ## Frames (R252) -/

/-- A frame header. -/
structure MosHead where
  kind : Nat
  efmt : Nat
  long : Bool
  sfmt : Nat
  gen : Bool
  msid : Nat
  src : Nat
  dst : Nat
  round : Nat
  step : Nat
  lane : Nat
  flags : Nat
  shard : Nat
  count : Nat
  row : Nat
  col : Nat
  scale : Nat
  part : Nat
  resv : Bool
  deriving DecidableEq, Repr, Inhabited

/-- The 64 bytes of a header. -/
def MosHead.bytes (h : MosHead) : List Byte :=
  leBytes 1 h.kind ++ leBytes 1 (h.efmt + (if h.long then 16 else 0) + h.sfmt * 32 + (if h.gen then 128 else 0))
    ++ leBytes 2 h.msid ++ leBytes 2 h.src ++ leBytes 2 h.dst ++ leBytes 8 h.round ++ leBytes 2 h.step ++ leBytes 1 h.lane
    ++ leBytes 1 h.flags ++ leBytes 2 h.shard ++ leBytes 2 h.count ++ leBytes 4 h.row ++ leBytes 4 h.col
    ++ leBytes 1 h.scale ++ leBytes 1 h.part ++ List.replicate 30 (0 : Byte)

/-- The header of a frame's first beat. -/
def MosHead.of (l : List Byte) : MosHead :=
  let b := fun o n => leNat ((l.drop o).take n)
  { kind := b 0 1, efmt := bits (b 1 1) 0 4, long := bits (b 1 1) 4 1 == 1, sfmt := bits (b 1 1) 5 2, gen := bits (b 1 1) 7 1 == 1
    msid := b 2 2, src := bits (b 4 2) 0 12, dst := bits (b 6 2) 0 12, round := b 8 8, step := b 0x10 2
    lane := bits (b 0x12 1) 0 2, flags := b 0x13 1, shard := b 0x14 2, count := b 0x16 2, row := b 0x18 4, col := b 0x1C 4
    scale := b 0x20 1, part := b 0x21 1
    resv := bits (b 4 2) 12 4 != 0 || bits (b 6 2) 12 4 != 0 || bits (b 0x12 1) 2 6 != 0
      || ((l.take 64).drop 0x22).any (· != 0#8) }

/-- The payload length a header implies (R252). -/
def MosHead.length (h : MosHead) : Nat :=
  match h.kind with
  | 1 => if h.long then 16 * h.count else cdiv (h.count * (Fmt.ofCode h.efmt).storeBits) 8
  | 2 => h.count
  | 3 => 4 * h.count
  | _ => 0

/-- KIND names a frame. -/
def MosHead.kindOk (h : MosHead) : Bool := h.kind == 1 || h.kind == 2 || h.kind == 3 || h.kind == 0x10 || h.kind == 0x11

/-- A token. -/
def MosHead.token (h : MosHead) : Bool := h.kind == 0x10 || h.kind == 0x11

/-- The bytes of a frame: header, payload, CRC, zeros to the end of the beat. -/
def mosBytes (h : MosHead) (payload : List Byte) : List Byte :=
  let l := h.bytes ++ payload
  let n := l.length + 4
  l ++ leBytes 4 (crc32c l) ++ List.replicate (cdiv n 64 * 64 - n) (0 : Byte)

/-- A header of this rank to its successor. -/
def State.mosHead (s : State) (ctx kind : Nat) : MosHead :=
  { kind := kind, efmt := 0, long := false, sfmt := 0, gen := false, msid := (s.ctx ctx).msid, src := s.rank
    dst := (s.rank + 1) % s.ranks, round := (s.ctx ctx).round.toNat, step := 0, lane := 0, flags := 0, shard := 0, count := 0
    row := 0, col := 0, scale := 0, part := 0, resv := false }

/-- Hand a frame to its lane; a REDUCE or GATHER frame waits while the context's send window is closed (R295). -/
def State.mosSend (s : State) (ctx lane : Nat) (h : MosHead) (payload : List Byte) : State :=
  let f : MosFrame := ⟨lane, mosBytes { h with lane := lane } payload⟩
  let waits := (h.kind == 1 || h.kind == 2) && (!(s.rt ctx).window || s.mos.held.any fun x => x.1 == ctx)
  if waits then { s with mos := { s.mos with held := s.mos.held ++ [(ctx, f)] } }
  else { s with mos := { s.mos with out := s.mos.out ++ [f] } }

/-- Send a token on every lane in service (R243). -/
def State.sendToken (s : State) (ctx kind flags : Nat) : State :=
  s.lanesOn.foldl (fun s l => s.mosSend ctx l { (s.mosHead ctx kind) with flags := flags } []) s

/-- A frame of a context's step, or of its gather, waits for the send window. -/
def State.framesHeld (s : State) (ctx kind idx : Nat) : Bool :=
  s.mos.held.any fun x => x.1 == ctx && (MosHead.of x.2.bytes).kind == kind && (MosHead.of x.2.bytes).step == idx

/-! ## The reduce-scatter (R245 to R251) -/

/-- A step of a stream. -/
def Stream.step (x : Stream) (idx : Nat) : Option StepRec := x.steps.find? fun t => t.idx == idx

/-- Change a step of a context's stream. -/
def State.updStep (s : State) (ctx idx : Nat) (f : StepRec → StepRec) : State :=
  s.updStream ctx fun x => { x with steps := x.steps.map fun t => if t.idx = idx then f t else t }

/-- An element of the committed copy of a region, through a tensor that names it (R62). -/
def State.regElem (s : State) (ctx k : Nat) (d : TDesc) (row col : Nat) : XVal :=
  Fmt.fp32.decode (s.bulkLE ((s.region ctx k).readAt (d.bitAt 32 row col / 8)) 4)

/-- The region a slot of a command lies in. -/
def State.slotRegion (s : State) (c : Cmd) (slot : Nat) : Option Region :=
  if c.has 0 slot then let d := s.opd c 0 slot; s.regionOf c.ctx d.base (d.spanLen 32) else none

/-- This rank's contribution to an element: its committed region element, with its residual where R270 applies (R248). -/
def State.ownElem (s : State) (c : Cmd) (t : StepRec) (row col : Nat) : XVal :=
  let g := match s.slotRegion c 0 with | some r => s.regElem c.ctx r.idx (s.opd c 0 0) row col | none => XVal.zero
  match t.addRes, t.res with
  | true, some k => g.add (s.regElem c.ctx k (s.opd c 0 4) row col)
  | _, _ => g

/-- This rank's long element (R251). -/
def State.ownLong (s : State) (c : Cmd) (row col : Nat) : Int :=
  match s.slotRegion c 0 with
  | some r => signed 128 (s.bulkLE (r.readAt ((s.opd c 0 0).bitAt 128 row col / 8)) 16)
  | none => 0

/-- The Mosaic reads elements of a region's committed copy through a tensor that names it, row by row (R62, R219). -/
def State.readRows (s : State) (ctx k : Nat) (d : TDesc) (eb : Nat) (rows : List Nat) (cols : Nat) : State :=
  let r := s.region ctx k
  s.readBytes (rows.flatMap fun i => (List.range cols).map fun j => (r.readAt (d.bitAt eb i j / 8), eb / 8))

/-- This rank reads its contribution to rows of a step: its region, and its residual where R270 adds it or the generalised send
does (R219, R248, R269). -/
def State.readOwn (s : State) (c : Cmd) (t : StepRec) (rows : List Nat) : State :=
  let s := match s.slotRegion c 0 with
    | some r => s.readRows c.ctx r.idx (s.opd c 0 0) (if t.long then 128 else 32) rows t.cols
    | none => s
  match t.res with
  | some k => if t.addRes || t.gen then s.readRows c.ctx k (s.opd c 0 4) 32 rows t.cols else s
  | none => s

/-- Send a row's segments, each of at most 8,192 B (R252): codes of eb bits, with the row's scale. -/
def State.sendSegs (s : State) (ctx : Nat) (h : MosHead) (lane eb : Nat) (codes : List Nat) : State :=
  let per := 65536 / eb
  (List.range (cdiv codes.length per)).foldl (fun s i =>
    let seg := (codes.drop (i * per)).take per
    let n := seg.foldr (fun c n => n * 2 ^ eb + c % 2 ^ eb) 0
    s.mosSend ctx lane { h with count := seg.length, col := i * per } (leBytes (cdiv (seg.length * eb) 8) n)) s

/-- Send a row of a partial at step t of R245, rounded once into the carrier with its surveyed scale (R248). -/
def State.sendRow (s : State) (c : Cmd) (st : StepRec) (shard row : Nat) (xs : List XVal) : State :=
  let d := s.opd c 0 1
  let t := (s.rank + 2 * s.ranks - shard - 1) % s.ranks
  let g := if d.mode = 0 then ⟨0, 0, false, false⟩ else surveyGroup d xs
  let out := (List.range xs.length).map fun i =>
    convAt d g (draw c.key row i t 5 0) (Config.freeNat c.run.free (row * 4294967296 + i)) (xs.getD i XVal.zero)
  let tally := out.foldl (fun a x => a.add x.2) ⟨0, 0, 0⟩
  let h := { (s.mosHead c.ctx 1) with
    efmt := d.fmt.code, sfmt := if d.mode = 0 then 0 else d.sfmt + 1, step := st.idx, shard := shard, row := row
    scale := if d.mode = 0 then 0 else g.code }
  let s := s.count c.id fun k => k.tally tally false
  s.sendSegs c.ctx h (s.laneOf (row - (shardRows shard s.ranks st.rows).1)) d.fmt.storeBits (out.map (·.1))

/-- Send a row of long values (R251). -/
def State.sendLong (s : State) (c : Cmd) (st : StepRec) (shard row : Nat) (xs : List Int) : State :=
  let h := { (s.mosHead c.ctx 1) with long := true, step := st.idx, shard := shard, row := row }
  s.sendSegs c.ctx h (s.laneOf (row - (shardRows shard s.ranks st.rows).1)) 128 (xs.map (unsigned 128))

/-- The owner writes a row of its shard (R250, R251): one FP32 rounding with SR16 and DST's
OVF (R98), or the long sums with their markers. -/
def State.ownerRow (s : State) (c : Cmd) (st : StepRec) (row : Nat) (xs : List XVal) (ls : List Int) : State :=
  let d := s.opd c 0 3
  let r0 := (shardRows s.rank s.ranks st.rows).1
  if st.long then
    let fs := (List.range ls.length).map fun i => (d.bitAt 128 (row - r0) i, 128, unsigned 128 (ls.getD i 0))
    (s.putFields c.id fs).count c.id fun k => { k with satOut := k.satOut + (ls.filter isMarker).length }
  else
    let out := (List.range xs.length).map fun i =>
      let r := Fmt.fp32.convFloat .sr16 d.ovf (draw c.key row i kgFinal 5 0) (xs.getD i XVal.zero)
      (i, r)
    let s := s.putFields c.id (out.map fun x => (d.bitAt 32 (row - r0) x.1, 32, x.2.code))
    let vals := out.map fun x => Fmt.fp32.decode x.2.code
    let n := (out.filter fun x => x.2.ovf).length
    s.count c.id fun k => ({ k with ovf := k.ovf + n } : Counts).watching d vals

/-- Combine a whole row of a received partial with this rank's contribution, and forward it or, on the owner, write it
(R245, R248, R250, R251). -/
def State.combineRow (s : State) (c : Cmd) (st : StepRec) (shard row : Nat) (xs : List XVal) (ls : List Int) : State :=
  let cs := List.range st.cols
  let s := s.readOwn c st [row]
  if st.long then
    let v := cs.map fun k => longAdd (ls.getD k 0) (s.ownLong c row k)
    if shard = s.rank then s.ownerRow c st row [] v else s.sendLong c st shard row v
  else
    let v := cs.map fun k => (xs.getD k XVal.zero).add (s.ownElem c st row k)
    if shard = s.rank then s.ownerRow c st row v [] else s.sendRow c st shard row v

/-- Columns of a row received so far. -/
def StepRec.has (t : StepRec) (shard row col : Nat) : Bool :=
  t.got.any fun g => g.1 == shard && g.2.1 == row && decide (g.2.2.1 ≤ col) && decide (col < g.2.2.1 + g.2.2.2)

/-- A whole row has been received. -/
def StepRec.rowDone (t : StepRec) (shard row : Nat) : Bool := (List.range t.cols).all (t.has shard row)

/-- The elements a REDUCE frame carries, as exact values or long values. -/
def MosHead.elems (h : MosHead) (payload : List Byte) : List XVal × List Int :=
  let v := leNat payload
  if h.long then ([], (List.range h.count).map fun i => signed 128 (bits v (128 * i) 128))
  else
    let f := Fmt.ofCode h.efmt
    let sc := match h.sfmt with
      | 1 => Fmt.e8m0.decode h.scale
      | 2 => Fmt.ue4m3.decode h.scale
      | _ => XVal.one
    ((List.range h.count).map fun i => (f.decode (bits v (i * f.storeBits) f.storeBits)).mul sc, [])

/-- The payload of a received frame. -/
def MosFrame.payload (f : MosFrame) : List Byte := (f.bytes.drop 64).take (MosHead.of f.bytes).length

/-- The step's reduce-scatter has completed on this rank (R256): every row of every shard it receives is here, and every
frame it sends has left. -/
def State.stepDone (s : State) (ctx : Nat) (t : StepRec) : Bool :=
  let p := s.ranks
  !s.framesHeld ctx 1 t.idx &&
  if t.gen then t.gsPhase == 2
  else (List.range p).all fun r => r == (s.rank + p - 1) % p ||
    (span (shardRows r p t.rows).1 (shardRows r p t.rows).2).all (t.rowDone r)

/-- A step whose reduce-scatter has completed ends its command's work. -/
def State.settleStep (s : State) (ctx idx : Nat) : State :=
  match (s.rt ctx).stream.step idx with
  | none => s
  | some t =>
    if s.stepDone ctx t then s.updCmd t.cmd fun c => { c with phase := if c.phase == .begun then .done else c.phase } else s

/-- A REDUCE frame that has passed every check (R245): its segment is kept until the row is whole. -/
def State.takeReduce (s : State) (ctx : Nat) (f : MosFrame) : State :=
  let h := MosHead.of f.bytes
  match (s.rt ctx).stream.step h.step with
  | none => s
  | some t0 =>
    match s.cmd t0.cmd with
    | none => s
    | some c =>
      let t := { t0 with got := t0.got ++ [(h.shard, h.row, h.col, h.count)], parts := t0.parts ++ [f] }
      if t.rowDone h.shard h.row then
        let mine := t.parts.filter fun g => let k := MosHead.of g.bytes; k.shard == h.shard && k.row == h.row
        let vals := (List.range t.cols).map fun col =>
          match mine.find? fun g => let k := MosHead.of g.bytes; decide (k.col ≤ col) && decide (col < k.col + k.count) with
          | some g =>
            let k := MosHead.of g.bytes
            let e := k.elems g.payload
            (e.1.getD (col - k.col) XVal.zero, e.2.getD (col - k.col) 0)
          | none => (XVal.zero, 0)
        let s := s.updStep ctx h.step fun _ => { t with
          parts := t.parts.filter fun g => let k := MosHead.of g.bytes; !(k.shard == h.shard && k.row == h.row) }
        (s.combineRow c t h.shard h.row (vals.map (·.1)) (vals.map (·.2))).settleStep ctx h.step
      else s.updStep ctx h.step fun _ => t

/-! ## The generalised send (R267 to R271) -/

/-- The rank ρ of GS_RANK (R247, R376). -/
def State.gsRank (s : State) (c : Cmd) : Nat :=
  let k := c.fld 0x40 4 3
  let dflt := match s.lgd.inForce with | some l => l.gsRank | none => 1
  2 ^ ((if k = 0 then dflt else k) + 1)

/-- A fused multiply-add chain from +0 in ascending index (R88, R269). -/
def dotChain (xs : List (XVal × XVal)) : XVal := xs.foldl (fun a x => ffma x.1 x.2 a) XVal.zero

/-- m = g + e, elementwise (R269). -/
def State.gsM (s : State) (c : Cmd) (t : StepRec) (row col : Nat) : XVal :=
  let g := match s.slotRegion c 0 with | some r => s.regElem c.ctx r.idx (s.opd c 0 0) row col | none => XVal.zero
  let e := match t.res with | some k => s.regElem c.ctx k (s.opd c 0 4) row col | none => XVal.zero
  fadd g e

/-- An entry of the factor for the first generalised round of a layer (R270). -/
def State.gsDraw (s : State) (idx row col : Nat) : XVal :=
  let seed : W64 := match s.lgd.inForce with | some l => l.mseed | none => 0
  let w := philox ⟨BitVec.ofNat 32 row, BitVec.ofNat 32 col, BitVec.ofNat 32 idx, 0x50000000#32⟩
    (seed.setWidth 32) ((seed >>> 32).setWidth 32)
  (XVal.ofInt ((w.c0.toNat % 16777216 : Nat) - 8388608)).mul (XVal.pow2 (-23))

/-- The warm-start factor q: the factor store's committed copy, or the draw of R270. Its rows follow those of p (log 19). -/
def State.gsQ (s : State) (c : Cmd) (t : StepRec) (col j : Nat) : XVal :=
  if (s.rt c.ctx).stream.factors.contains (t.idx, t.rho) then
    match t.fac with
    | some k => s.regElem c.ctx k (s.opd c 0 5) (t.rows + col) j
    | none => XVal.zero
  else s.gsDraw t.idx col j

/-- A row of codes as values. -/
def fpRow (l : List Nat) : List XVal := l.map Fmt.fp32.decode

/-- Row i of a row-major list of rho columns. -/
def rowOfList (l : List Nat) (rho i : Nat) : List Nat := (l.drop (i * rho)).take rho

/-- Rows of the factor whose sum is in progress. -/
def StepRec.gsCount (t : StepRec) : Nat := if t.gsPhase = 0 then t.rows else t.cols

/-- Send a row of a factor (R269, R252): PART 1 for p, 2 for q2; the gather phase by FLAGS. DESIGN CHOICE (log 204): one frame carries one whole
row of a factor, or the whole of a VECTOR's vector; a received frame of another COL or COUNT is dropped with reason 8. -/
def State.sendFactor (s : State) (c : Cmd) (t : StepRec) (gather : Bool) (shard row : Nat) (codes : List Nat) : State :=
  let h := { (s.mosHead c.ctx 3) with
    gen := true, step := t.idx, flags := if gather then 1 else 0, shard := shard, row := row, part := t.gsPhase + 1 }
  s.sendSegs c.ctx h (s.laneOf (row - (shardRows shard s.ranks t.gsCount).1)) 32 codes

/-- Start the sum of a factor: this rank sends its own rows of its predecessor's shard (R245). -/
def State.gsStart (s : State) (c : Cmd) (t : StepRec) : State :=
  let sh := (s.rank + s.ranks - 1) % s.ranks
  let (a, b) := shardRows sh s.ranks t.gsCount
  (span a b).foldl (fun s i => s.sendFactor c t false sh i (rowOfList t.gsOwn t.rho i)) s

/-- Modified Gram-Schmidt over the columns of p (R269). -/
def gramSchmidt (rows rho : Nat) (p : List (List XVal)) : List (List XVal) :=
  (List.range rho).foldl (fun cols j =>
    let pj := (List.range j).foldl (fun v i =>
      let pi := cols.getD i []
      let d := dotChain (List.zip pi v)
      (List.zip v pi).map fun x => fsub x.1 (fmul d x.2)) (cols.getD j [])
    let n := fsqrt (dotChain (List.zip pj pj))
    let pj := if XVal.zero.lt n then pj.map fun x => fdiv x n else pj
    setAt cols j pj) ((List.range rho).map fun j => (List.range rows).map fun r => (p.getD r []).getD j XVal.zero)

/-- p and q2 are summed: the step's results are written (R269). The Spur lanes form this product, as they form those of p, of its
orthogonalisation and of q2 (R271). DESIGN CHOICE (log 146): their cycles count as each product is formed. -/
def State.gsFinish (s : State) (c : Cmd) (t : StepRec) : State :=
  let p := fun r => fpRow (rowOfList t.gsP t.rho r)
  let q2 := fun k => fpRow (((t.gsRows.find? fun x => x.1 == k).map (·.2)).getD [])
  let prod := fun r k => dotChain (List.zip (p r) (q2 k))
  let (a, b) := shardRows s.rank s.ranks t.rows
  let d := s.opd c 0 3
  let dst := (span a b).flatMap fun r => (List.range t.cols).map fun k => (d.bitAt 32 (r - a) k, 32, fp32Code (prod r k))
  let w := fdiv XVal.one (XVal.ofInt s.ranks)
  let e := s.opd c 0 4
  let res := match t.res with
    | none => []
    | some i => (List.range t.rows).flatMap fun r => (List.range t.cols).map fun k =>
        ((s.region c.ctx i).writeAt (e.bitAt 32 r k / 8) * 8, 32, fp32Code (ffma w.neg (prod r k) (s.gsM c t r k)))
  let f := s.opd c 0 5
  let fac := match t.fac with
    | none => []
    | some i => (List.range t.cols).flatMap fun k => (List.range t.rho).map fun j =>
        ((s.region c.ctx i).writeAt (f.bitAt 32 (t.rows + k) j / 8) * 8, 32, fp32Code ((q2 k).getD j XVal.zero))
  let vals := fun (fs : List (Nat × Nat × Nat)) => fs.map fun f => Fmt.fp32.decode f.2.2
  let s := (s.countSpur (t.rows * t.cols) t.rho).putFields c.id (dst ++ res ++ fac)
  let s := s.count c.id fun k => ((k.watching d (vals dst)).watching e (vals res)).watching f (vals fac)
  s.updStep c.ctx t.idx fun _ => { t with gsPhase := 2 }

/-- Every row of the sum in progress is known: go on to the next phase (R269). -/
def State.gsAdvance (s : State) (c : Cmd) (t : StepRec) : State :=
  if !((List.range t.gsCount).all fun i => t.gsRows.any fun x => x.1 == i) then s.updStep c.ctx t.idx fun _ => t
  else if t.gsPhase = 0 then
    let s := s.readOwn c t (List.range t.rows)
    let p := (List.range t.rows).map fun r => fpRow (((t.gsRows.find? fun x => x.1 == r).map (·.2)).getD [])
    let cols := gramSchmidt t.rows t.rho p
    let q2 := (List.range t.cols).flatMap fun k => cols.map fun pj =>
      fp32Code (dotChain ((List.range t.rows).map fun r => (s.gsM c t r k, pj.getD r XVal.zero)))
    let gsP := (List.range t.rows).flatMap fun r => cols.map fun pj => fp32Code (pj.getD r XVal.zero)
    let t := { t with gsPhase := 1, gsP := gsP, gsOwn := q2, gsRows := [] }
    let s := (s.countSpur 1 (t.rho * (t.rho + 1) / 2 * t.rows)).countSpur (t.cols * t.rho) t.rows
    (s.updStep c.ctx t.idx fun _ => t).gsStart c t
  else s.gsFinish c t

/-- A VECTOR frame of a generalised step that has passed every check (R245, R269). -/
def State.takeFactor (s : State) (ctx : Nat) (f : MosFrame) : State :=
  let h := MosHead.of f.bytes
  match (s.rt ctx).stream.step h.step with
  | none => s
  | some t0 =>
    match s.cmd t0.cmd with
    | none => s
    | some c =>
      let gather := bits h.flags 0 1 == 1
      let codes := (List.range h.count).map fun i => leNat ((f.payload.drop (4 * i)).take 4)
      let t := { t0 with got := t0.got ++ [(h.shard + 4096 * (2 * t0.gsPhase + (if gather then 1 else 0)), h.row, h.col, h.count)] }
      let t1 := fun (row : List Nat) => { t with gsRows := t.gsRows ++ [(h.row, row)] }
      let s := if gather then
          let s := if (s.rank + 1) % s.ranks = h.shard then s else s.sendFactor c t true h.shard h.row codes
          s.gsAdvance c (t1 codes)
        else
          let sum := (List.zip (fpRow codes) (fpRow (rowOfList t.gsOwn t.rho h.row))).map fun x => fp32Code (fadd x.1 x.2)
          if h.shard = s.rank then (s.sendFactor c t true h.shard h.row sum).gsAdvance c (t1 sum)
          else (s.sendFactor c t false h.shard h.row sum).updStep ctx h.step fun _ => t
      s.settleStep ctx h.step

/-! ## MOSAIC_STEP (R246, R247, R266) -/

/-- The mode a REDUCE_SCATTER takes (R267). -/
def State.stepGen (s : State) (c : Cmd) (long : Bool) : Bool :=
  let send := c.fld 0x40 2 2
  !long && c.has 0 4 && c.has 0 5 && s.ranks != 1 && (send == 2 || (send == 0 && (s.rt c.ctx).stream.gen))

/-- REDUCE_SCATTER: place the step on the stream and send this rank's first shard (R245 to R251, R269). -/
def State.startStep (s : State) (c : Cmd) : State :=
  if c.fld 0x40 0 2 ≠ 0 || c.placed then s
  else
    match s.slotRegion c 0 with
    | none => s
    | some r =>
      let d := s.opd c 0 0
      let idx := c.fld 0x42 0 16
      let gen := s.stepGen c r.long
      let res := (s.slotRegion c 4).map (·.idx)
      let t : StepRec :=
        { idx := idx, cmd := c.id, gen := gen, base := d.base, rows := d.rows, cols := d.e0, long := r.long, anchor := r.anchor
          complete := false, got := [], parts := [], gsPhase := 0, gsP := [], gsOwn := [], gsRows := [], rho := s.gsRank c
          res := res, fac := (s.slotRegion c 5).map (·.idx)
          addRes := !gen && res.isSome && (s.rt c.ctx).stream.residual.contains idx
          round := (s.ctx c.ctx).round, seq := c.seq }
      let sh := (s.rank + s.ranks - 1) % s.ranks
      let rows := if s.ranks = 1 || gen then List.range t.rows else span (shardRows sh s.ranks t.rows).1 (shardRows sh s.ranks t.rows).2
      let s := s.readOwn c t rows
      let s : State := match gen && (s.rt c.ctx).stream.factors.contains (idx, t.rho), t.fac with
        | true, some k => s.readRows c.ctx k (s.opd c 0 5) 32 (span t.rows (t.rows + t.cols)) t.rho
        | _, _ => s
      let own := if gen then
          (List.range t.rows).flatMap fun i => (List.range t.rho).map fun j =>
            fp32Code (dotChain ((List.range t.cols).map fun k => (s.gsM c t i k, s.gsQ c t k j)))
        else []
      let t := { t with gsOwn := own }
      let s := if gen then s.countSpur (t.rows * t.rho) t.cols else s
      let s := s.updCmd c.id fun x => { x with placed := true }
      let s := s.updStream c.ctx fun x => { x with steps := (x.steps.filter fun y => y.idx != idx) ++ [t] }
      let p := s.ranks
      let cs := List.range t.cols
      let s :=
        if p = 1 then
          (List.range t.rows).foldl (fun s i =>
            if t.long then s.ownerRow c t i [] (cs.map (s.ownLong c i)) else s.ownerRow c t i (cs.map (s.ownElem c t i)) []) s
        else if gen then s.gsStart c t
        else
          -- the incoming partial is 0 at the first step, so that a −0 of the region leaves as +0 (R96, R248)
          rows.foldl (fun s i =>
            if t.long then s.sendLong c t sh i (cs.map (s.ownLong c i))
            else s.sendRow c t sh i (cs.map fun k => XVal.zero.add (s.ownElem c t i k))) s
      let s := if p = 1 then s.updStep c.ctx idx fun t => { t with got := (List.range t.rows).map fun i => (0, i, 0, t.cols) } else s
      s.settleStep c.ctx idx

/-- The vector of a VECTOR step: the elements of SRC in order, as they stand when its addition is formed (R266). -/
def State.vecSrc (s : State) (c : Cmd) : List XVal :=
  let d := s.opd c 0 0
  d.cells.map fun x => s.elemVal d x.1 x.2

/-- Send the partial sum, or the total in the gather phase (R266). -/
def State.sendVec (s : State) (c : Cmd) (gather : Bool) (v : List XVal) : State :=
  let h := { (s.mosHead c.ctx 3) with flags := if gather then 1 else 0 }
  s.sendSegs c.ctx h (s.laneOf 0) 32 (v.map fp32Code)

/-- Write the result of a vector all-reduce; the command's work is done. -/
def State.writeVec (s : State) (c : Cmd) (v : List XVal) : State :=
  let d := s.opd c 0 3
  let fs := (List.range d.cells.length).map fun i =>
    let x := d.cells.getD i (0, 0)
    (d.bitAt 32 x.1 x.2, 32, fp32Code (v.getD i XVal.zero))
  let s := (s.putFields c.id fs).count c.id fun k => k.watching d (fs.map fun f => Fmt.fp32.decode f.2.2)
  let s := s.updStream c.ctx fun x => { x with vec := none }
  s.updCmd c.id fun x => { x with phase := if x.phase == .begun then .done else x.phase }

/-- VECTOR: rank 0 starts the sum; with one rank it is the vector itself (R266). -/
def State.startVec (s : State) (c : Cmd) : State :=
  if c.fld 0x40 0 2 ≠ 1 || c.placed then s
  else
    let s := s.updCmd c.id fun x => { x with placed := true }
    let s := s.updStream c.ctx fun x => { x with vec := some ⟨c.id, false⟩ }
    let s := if s.ranks = 1 || s.rank = 0 then s.readBytes (s.opd c 0 0).reads else s
    if s.ranks = 1 then s.writeVec c (s.vecSrc c)
    else if s.rank = 0 then
      (s.sendVec c false (s.vecSrc c)).updStream c.ctx fun x => { x with vec := some ⟨c.id, true⟩ }
    else s

/-- A VECTOR frame of a vector all-reduce (R266): each rank adds its vector; the last one sends the sum round. -/
def State.takeVec (s : State) (ctx : Nat) (f : MosFrame) (v : VecRec) : State :=
  let h := MosHead.of f.bytes
  match s.cmd v.cmd with
  | none => s
  | some c =>
    let xs := fpRow ((List.range h.count).map fun i => leNat ((f.payload.drop (4 * i)).take 4))
    if bits h.flags 0 1 = 1 then
      let s := if s.rank + 2 = s.ranks then s else s.sendVec c true xs
      s.writeVec c xs
    else
      let s := s.readBytes (s.opd c 0 0).reads
      let sum := (List.zip xs (s.vecSrc c)).map fun x => fadd x.1 x.2
      if s.rank + 1 = s.ranks then (s.sendVec c true sum).writeVec c sum
      else (s.sendVec c false sum).updStream ctx fun x => { x with vec := some { v with sent := true } }

/-! ## MOSAIC_GATHER (R263 to R265) -/

/-- A row of a weight that byte o of a part belongs to, counted within its shard. -/
def TDesc.shardRow (d : TDesc) (part o : Nat) : Nat :=
  if part = 0 then o / (d.e0 * d.esz) else o / (cdiv d.e0 32 * d.scaleBytes) * 32

/-- Send bytes of a shard that lie together (R263): pieces of at most 8,192 B, each on the lane of its row (R243). -/
def State.sendPieces (s : State) (ctx idx shard part : Nat) (w : TDesc) (off : Nat) (l : List Byte) : State :=
  (List.range (cdiv l.length 8192)).foldl (fun s i =>
    let o := off + 8192 * i
    let data := (l.drop (8192 * i)).take 8192
    s.mosSend ctx (s.laneOf (w.shardRow part o)) { (s.mosHead ctx 2) with
      step := idx, shard := shard, part := part, count := data.length, row := o % 2 ^ 32, col := o / 2 ^ 32 } data) s

/-- Send a rank's own shard (R263): its elements row by row, since the lanes are striped by row (R243), then its
scales. -/
def State.sendShard (s : State) (ctx idx : Nat) (w : TDesc) : State :=
  let n := w.shardBytes s.rank s.ranks
  let at_ : Nat → Nat → List (Nat × Nat) := fun part k => (List.range k).map fun o => (w.shardAt s.rank s.ranks part o, 1)
  let s := s.readBytes (at_ 0 n.1 ++ at_ 1 n.2)
  let own := fun (part off k : Nat) => (List.range k).map fun o => s.bulkByte (w.shardAt s.rank s.ranks part (off + o))
  let row := w.e0 * w.esz
  let t := (List.range (if row = 0 then 0 else n.1 / row)).foldl (fun (t : State) i =>
    t.sendPieces ctx idx s.rank 0 w (i * row) (own 0 (i * row) row)) s
  t.sendPieces ctx idx s.rank 1 w 0 (own 1 0 n.2)

/-- The elements that lie wholly in bytes of a shard from an offset on. -/
def TDesc.wholeElems (d : TDesc) (off : Nat) (l : List Byte) : List XVal :=
  let skip := (d.esz - off % d.esz) % d.esz
  (List.range ((l.length - skip) / d.esz)).map fun i => d.fmt.decode (leNat ((l.drop (skip + i * d.esz)).take d.esz))

/-- Change a gather of a context's stream. -/
def State.updGather (s : State) (ctx idx : Nat) (f : GatherRec → GatherRec) : State :=
  s.updStream ctx fun x => { x with gathers := x.gathers.map fun g => if g.idx = idx then f g else g }

/-- A byte of a shard has been received. -/
def GatherRec.has (g : GatherRec) (shard part o : Nat) : Bool :=
  g.got.any fun x => x.1 == shard && x.2.1 == part && decide (x.2.2.1 ≤ o) && decide (o < x.2.2.1 + x.2.2.2)

/-- The first source rank whose shard is not wholly here (R265); none when the transfer has finished. -/
def State.gatherMissing (s : State) (w : TDesc) (g : GatherRec) : Option Nat :=
  (List.range s.ranks).find? fun r =>
    r != s.rank && !((List.range (w.shardBytes r s.ranks).1).all (g.has r 0) && (List.range (w.shardBytes r s.ranks).2).all (g.has r 1))

/-- Note that every shard is here, and flip what is due (R264, R282). -/
def State.settleGather (s : State) (c : Cmd) (g : GatherRec) : State :=
  if (s.gatherMissing (s.opd c 0 3) g).isSome || s.framesHeld c.ctx 2 g.idx then s
  else (s.updGather c.ctx g.idx fun g => { g with full := true }).settleGathers c.ctx

/-- The frames a gather still lacks can come no more: the round whose update it carries has sealed, or, of a REPLAY, the round it
was begun in; a later frame of theirs names an earlier round and is dropped (R253, R265). -/
def State.gatherOver (s : State) (ctx : Nat) (g : GatherRec) : Bool :=
  if g.replay then g.round != (s.ctx ctx).round
  else (s.rt ctx).stream.updates.any fun u => u.idx == g.idx && u.round != (s.ctx ctx).round

/-- A gather begins: the owner sends its shard (R263). The command's row given again once the seal has passed, while a shard is
missing, ends it with GATHER_INCOMPLETE (R265; log 21). -/
def State.startGather (s : State) (c : Cmd) (replay : Bool) : State :=
  if (c.fld 0x40 0 1 == 1) != replay then s
  else
    let w0 := s.opd c 0 3
    let idx := c.fld 0x42 0 16
    match (s.rt c.ctx).stream.gathers.find? fun g => g.cmd == c.id with
    | some g =>
      match s.gatherMissing w0 g with
      | some r =>
        if s.gatherOver c.ctx g then
          (s.updStream c.ctx fun x => { x with gathers := x.gathers.filter fun h => h.cmd != c.id }).abort c.id
            (Cause.own 0x0503 (r + idx * 65536))
        else s
      | none => s.settleGather c g
    | none =>
      let st := ptrAt c.raw 0x48
      let sel := s.recBit st 2
      let copy := if replay && s.recBit st 4 = 0 then sel else 1 - sel
      let g : GatherRec := ⟨c.id, idx, st, replay, (s.ctx c.ctx).round, copy, [], false⟩
      let w := w0.copyAt copy
      let s := s.updCmd c.id fun x => { x with placed := true }
      let s := s.updStream c.ctx fun x => { x with gathers := x.gathers ++ [g] }
      let s := if s.ranks = 1 then s else s.sendShard c.ctx idx w
      s.settleGather c g

/-- A GATHER frame that has passed every check: its bytes are written to the weight and its twin, and forwarded unchanged
(R263). -/
def State.takeGather (s : State) (ctx : Nat) (f : MosFrame) : State :=
  let h := MosHead.of f.bytes
  match (s.rt ctx).stream.gathers.find? fun g => g.idx == h.step with
  | none => s
  | some g =>
    match s.cmd g.cmd with
    | none => s
    | some c =>
      let w := (s.opd c 0 3).copyAt g.sel
      let off := h.row + h.col * 4294967296
      let ix := List.range h.count
      let work := ix.map fun i => (w.shardAt h.shard s.ranks h.part (off + i), f.payload.getD i 0)
      let twin := if c.has 0 4 then
          let d := (s.opd c 0 4).copyAt g.sel
          ix.map fun i => (w.twinShardAt d h.shard s.ranks h.part (off + i), f.payload.getD i 0)
        else []
      let s := s.writeOwed c.id (work ++ twin)
      let vals := if h.part = 0 then w.wholeElems off f.payload else []
      let s := s.count c.id fun k => (k.watching w vals).watching (if c.has 0 4 then s.opd c 0 4 else w) vals
      let g := { g with got := g.got ++ [(h.shard, h.part, off, h.count)] }
      let s := s.updGather ctx g.idx fun _ => g
      let s := if (s.rank + 1) % s.ranks = h.shard then s else s.sendPieces ctx h.step h.shard h.part w off f.payload
      s.settleGather c g

/-! ## Receiving (R253, R254) -/

/-- The context a stream identifier names (R242). -/
def State.ctxOfMsid (s : State) (m : Nat) : Option Nat :=
  (s.ctxs.find? fun e => e.2.state != .free && e.2.sendEvery != 0 && e.2.msid == m).map (·.1)

/-- The header's fields are well formed (R252, R253). DESIGN CHOICE (log 203): a FLAGS bit that R252 gives as 0 makes the frame malformed, though
R253's list of malformed fields does not name FLAGS. -/
def MosHead.fieldsOk (h : MosHead) : Bool :=
  let carrier := let f := Fmt.ofCode h.efmt; f == .bf16 || f == .e4m3 || f == .e5m2
  h.kindOk && !h.resv && h.sfmt != 3 && decide (h.length ≤ 8192) &&
  (match h.kind with
    | 1 => if h.long then h.efmt == 0 && h.sfmt == 0 else carrier
    | _ => h.efmt == 0 && !h.long && h.sfmt == 0) &&
  (match h.kind with
    | 2 => decide (h.part ≤ 1) && h.flags == 0
    | 3 => decide (h.part ≤ 2) && decide (h.flags ≤ 1)
    | 1 => h.part == 0 && h.flags == 0
    | _ => h.part == 0 && decide (h.flags ≤ 1))

/-- The frame's CRC, and its end where the header places it (R253). -/
def mosCrcOk (h : MosHead) (l : List Byte) : Bool :=
  let n := 64 + h.length
  l.length == cdiv (n + 4) 64 * 64 && leNat ((l.drop n).take 4) == crc32c (l.take n)

/-- The checks of a header that need no step, with the reason of a drop (R253, R419). The frames of a context in reset are
dropped as frames of an unbound MSID (R272); a step the round does not have runs no generalised send (R267). -/
def State.mosCheck (s : State) (l : List Byte) : Option Nat :=
  let h := MosHead.of l
  if h.kindOk && decide (h.length ≤ 8192) && !mosCrcOk h l then some 0
  else if !h.fieldsOk then some 1
  else if h.dst ≠ s.rank then some 2
  else if h.src ≠ (s.rank + s.ranks - 1) % s.ranks then some 3
  else
    match s.ctxOfMsid h.msid with
    | none => some 4
    | some c =>
      let e := s.ctx c
      if e.state == .resetting then some 4
      else if h.token then none
      else if h.round ≠ e.round.toNat || e.roundState == .voidHold then some 5
      else if h.gen && (h.kind = 2 || decide (e.roundSteps ≤ h.step)) then some 6
      else if e.roundSteps ≤ h.step then some 7
      else none

/-- A frame is dropped for a reason: counted, with a MOSAIC_FRAME record at most once in 10 ms on a lane (R253). -/
def State.mosDrop (s : State) (lane reason : Nat) (l : List Byte) : State :=
  let h := MosHead.of l
  let s := s.bumpErr (.mosDrop reason)
  let quiet := match s.mos.recAt.getD lane none with
    | some t => decide (s.pins.now - t < 10000000)
    | none => false
  if quiet then { s with mos := { s.mos with recSince := updAt s.mos.recSince lane (· + 1) } }
  else
    let n := min 65535 (s.mos.recSince.getD lane 0)
    let s := { s with mos := { s.mos with recAt := setAt s.mos.recAt lane (some s.pins.now), recSince := setAt s.mos.recSince lane 0 } }
    s.emitEngine 0x11 (lane + reason * 16 + n * 65536 + h.msid * 2 ^ 32 + h.src * 2 ^ 48 + h.round % 2 ^ 32 * 2 ^ 64)

/-- Keep a frame in its lane's receive buffer until what it belongs to begins (R254). -/
def State.mosHold (s : State) (f : MosFrame) : State := { s with mos := { s.mos with hold := s.mos.hold ++ [f] } }

/-- A REDUCE, GATHER or VECTOR frame whose header has passed: act on it, keep it, or drop it (R253). A frame of no step, gather or
vector sum in progress waits (R254), also one of a sum or a REPLAY that has ended: it may be the next one's (log 164). In the sum of
a factor a rank receives every shard but its predecessor's, in the gather every one but its own (R245). DESIGN CHOICE (log 202): a REDUCE or
GATHER frame with COUNT 0 names no element and is dropped as outside its shard, reason 8. -/
def State.mosAct (s : State) (ctx : Nat) (f : MosFrame) : State :=
  let h := MosHead.of f.bytes
  let x := (s.rt ctx).stream
  let p := s.ranks
  match h.kind with
  | 1 =>
    match x.step h.step with
    | none => s.mosHold f
    | some t =>
      let (a, b) := shardRows h.shard p t.rows
      if h.gen != t.gen then s.mosDrop f.lane 6 f.bytes
      else if t.gen || p ≤ h.shard || h.shard == (s.rank + p - 1) % p || decide (h.row < a) || decide (b ≤ h.row) || decide (t.cols < h.col + h.count)
          || h.long != t.long || h.count == 0 then s.mosDrop f.lane 8 f.bytes
      else if (List.range h.count).all fun i => t.has h.shard h.row (h.col + i) then s.mosDrop f.lane 9 f.bytes
      else s.takeReduce ctx f
  | 2 =>
    match x.gathers.find? fun g => g.idx == h.step with
    | none => s.mosHold f
    | some g =>
      match s.cmd g.cmd with
      | none => s.mosHold f
      | some c =>
        let w := s.opd c 0 3
        let off := h.row + h.col * 4294967296
        let n := if h.part = 0 then (w.shardBytes h.shard p).1 else (w.shardBytes h.shard p).2
        if p ≤ h.shard || h.shard == s.rank || decide (n < off + h.count) || h.count == 0 then s.mosDrop f.lane 8 f.bytes
        else if (List.range h.count).all fun i => g.has h.shard h.part (off + i) then s.mosDrop f.lane 9 f.bytes
        else s.takeGather ctx f
  | _ =>
    if h.part = 0 then
      match x.vec with
      | none => if h.gen then s.mosDrop f.lane 6 f.bytes else s.mosHold f
      | some v =>
        let n := match s.cmd v.cmd with | some c => (s.opd c 0 0).cells.length | none => 0
        if h.gen then s.mosDrop f.lane 6 f.bytes
        else if h.row != 0 || h.col != 0 || h.count != n then s.mosDrop f.lane 8 f.bytes
        else if (bits h.flags 0 1 == 0 && (v.sent || s.rank == 0)) then s.mosDrop f.lane 9 f.bytes
        else s.takeVec ctx f v
    else
      match x.step h.step with
      | none => s.mosHold f
      | some t =>
        let ph := h.part - 1
        let (a, b) := shardRows h.shard p (if ph = 0 then t.rows else t.cols)
        if h.gen != t.gen then s.mosDrop f.lane 6 f.bytes
        else if !t.gen then s.mosDrop f.lane 8 f.bytes
        else if t.gsPhase < ph then s.mosHold f
        else if p ≤ h.shard || decide (h.row < a) || decide (b ≤ h.row) || h.col != 0 || h.count != t.rho
            || (bits h.flags 0 1 == 1 && h.shard == s.rank) || (bits h.flags 0 1 == 0 && h.shard == (s.rank + p - 1) % p) then s.mosDrop f.lane 8 f.bytes
        else if ph < t.gsPhase || t.got.any fun g => g.1 == h.shard + 4096 * (2 * ph + bits h.flags 0 1) && g.2.1 == h.row
          then s.mosDrop f.lane 9 f.bytes
        else s.takeFactor ctx f

/-- A frame that carries data arrives on a lane. -/
def State.mosData (s : State) (f : MosFrame) : State :=
  match s.mosCheck f.bytes with
  | some r => s.mosDrop f.lane r f.bytes
  | none =>
    match s.ctxOfMsid (MosHead.of f.bytes).msid with
    | none => s
    | some c => s.mosAct c f

/-- Offer the receive buffers' frames again, after something has begun or gone on (R254). -/
def State.mosOffer (s : State) : State :=
  let go := fun (s : State) => s.mos.hold.foldl (fun s f => s.mosData f) { s with mos := { s.mos with hold := [] } }
  go (go s)

/-- A lane that takes frames: built, in service, and the engine alive (R241). -/
def State.laneOpen (s : State) (lane : Nat) : Bool := s.alive && s.lanesOn.contains lane

/-- A data frame of a kind, with what waited for it. -/
def State.mosReceive (s : State) (lane kind : Nat) (l : List Byte) : State :=
  if !s.laneOpen lane then s
  else if leNat (l.take 1) ≠ kind && ((MosHead.of l).kindOk) then s
  else (s.mosData ⟨lane, l⟩).mosOffer

/-- REDUCE: a REDUCE frame is received. -/
def execReduce (lane : Nat) (bytes : List Byte) (s : State) : Host.Outcome State Fault Refusal := .next (s.mosReceive lane 1 bytes)

/-- GATHER: a GATHER frame is received. -/
def execGather (lane : Nat) (bytes : List Byte) (s : State) : Host.Outcome State Fault Refusal := .next (s.mosReceive lane 2 bytes)

/-- VECTOR_FRAME: a VECTOR frame is received. -/
def execVectorFrame (lane : Nat) (bytes : List Byte) (s : State) : Host.Outcome State Fault Refusal :=
  .next (s.mosReceive lane 3 bytes)

/-- REDUCE_SCATTER: a MOSAIC_STEP with OP = 0 (R247). -/
def execReduceScatter (c : CmdId) (s : State) : Host.Outcome State Fault Refusal :=
  .next (s.runOp c 0x10 fun x => (s.startStep x).mosOffer)

/-- VECTOR: a MOSAIC_STEP with OP = 1 (R266). -/
def execVector (c : CmdId) (s : State) : Host.Outcome State Fault Refusal :=
  .next (s.runOp c 0x10 fun x => (s.startVec x).mosOffer)

/-- MOSAIC_GATHER with REPLAY = 0 (R263). -/
def execMosaicGather (c : CmdId) (s : State) : Host.Outcome State Fault Refusal :=
  .next (s.runOp c 0x11 fun x => (s.startGather x false).mosOffer)

/-- MOSAIC_GATHER with REPLAY = 1 (R265). -/
def execReplay (c : CmdId) (s : State) : Host.Outcome State Fault Refusal :=
  .next (s.runOp c 0x11 fun x => (s.startGather x true).mosOffer)

end Sys2Proof.Machine
end

