-- ==== Sys2Proof/Machine/Closing.lean ====
section
/-! DEFINITION. Closing a round: readiness, the CLOSE and DECIDE tokens, the deadline and the waits after it, and the round control of
the driver (R255 to R260, R420). -/

namespace Sys2Proof.Machine

open Sys2Proof

/-- The rank is ready for its round (R256): every step has completed, been received and been sent. -/
def State.roundReady (s : State) (ctx : Nat) : Bool :=
  let x := (s.rt ctx).stream
  (s.ctx ctx).roundState == .exchange
    && (List.range (s.ctx ctx).roundSteps).all (fun i => x.steps.any fun t => t.idx == i && s.stepDone ctx t)

/-- Send or forward CLOSE once for the round. -/
def State.sendClose (s : State) (ctx : Nat) (ok : Bool) : State :=
  match (s.rt ctx).stream.closeOut with
  | some _ => s
  | none => (s.sendToken ctx 0x10 (if ok then 1 else 0)).updStream ctx fun x => { x with closeOut := some ok }

/-- The chair decides: it applies the decision and sends DECIDE, which carries the round it decides (R257, R258). -/
def State.chairDecide (s : State) (ctx : Nat) (ok : Bool) : State :=
  let s := if s.ranks = 1 then s else s.sendToken ctx 0x11 (if ok then 1 else 0)
  let round := (s.ctx ctx).round
  let s := if ok then s.sealRound ctx else s.voidRound ctx
  s.updStream ctx fun x => { x with decideOut := some round }

/-- The rank becomes ready (R256, R257): CLOSING; the chair sends CLOSE with OK = 1, or seals a ring of one; another rank
forwards the CLOSE it holds. -/
def State.becomeReady (s : State) (ctx : Nat) : State :=
  let s := (s.updCtx ctx fun c => { c with roundState := .closing }).updStream ctx fun x => { x with ready := true }
  if s.rank = 0 then (if s.ranks = 1 then s.chairDecide ctx true else s.sendClose ctx true)
  else if (s.rt ctx).stream.closeIn = some true then s.sendClose ctx true
  else s

/-- A live context that takes part in rounds. -/
def State.inRounds (s : State) (ctx : Nat) : Bool :=
  s.alive && s.ctxExists ctx && (s.ctx ctx).sendEvery != 0 && (s.ctx ctx).state != .resetting

/-- RANK_READY: all the round's steps have completed, been received and been sent. -/
def execRankReady (ctx : Nat) (s : State) : Host.Outcome State Fault Refusal :=
  .next (if s.inRounds ctx && s.roundReady ctx then s.becomeReady ctx else s)

/-- The round a token concerns is still undecided here (R253): it is the context's, and no void of it stands. -/
def State.tokenLive (s : State) (ctx : Nat) (h : MosHead) : Bool :=
  h.round == (s.ctx ctx).round.toNat && (s.ctx ctx).roundState != .voidHold

/-- A token for a round decided before (R253): one below the counter after a seal, or the round of a standing void. -/
def State.tokenPast (s : State) (ctx : Nat) (h : MosHead) : Bool :=
  (s.ctx ctx).round == BitVec.ofNat 64 h.round + 1#64
    || (h.round == (s.ctx ctx).round.toNat && (s.ctx ctx).roundState == .voidHold)

/-- A CLOSE for the round in progress (R257): only the first copy acts (R243). -/
def State.takeClose (s : State) (ctx : Nat) (ok : Bool) : State :=
  match (s.rt ctx).stream.closeIn with
  | some _ => s
  | none =>
    let s := s.updStream ctx fun x => { x with closeIn := some ok }
    if s.rank = 0 then s.chairDecide ctx ok
    else if !ok then s.sendClose ctx false
    else if (s.rt ctx).stream.ready then s.sendClose ctx true
    else if (s.rt ctx).stream.deadline then s.sendClose ctx false
    else s

/-- A DECIDE (R258, R420): applied and forwarded once; forwarded only, where the driver has decided the round already;
absorbed by the chair. -/
def State.takeDecide (s : State) (ctx : Nat) (h : MosHead) : State :=
  let ok := bits h.flags 0 1 == 1
  let fwd := fun (s : State) =>
    s.lanesOn.foldl (fun s l => s.mosSend ctx l { (s.mosHead ctx 0x11) with round := h.round, flags := h.flags } []) s
  if s.rank = 0 then s
  else if (s.rt ctx).stream.decideOut = some (BitVec.ofNat 64 h.round) then s
  else
    let s := (fwd s).updStream ctx fun x => { x with decideOut := some (BitVec.ofNat 64 h.round) }
    if !s.tokenLive ctx h then s
    else if ok then
      let s := if (s.ctx ctx).roundState == .undecided then s.resumeQueues ctx else s
      s.sealRound ctx
    else s.voidRound ctx

/-- A token frame arrives (R243, R253): other copies are discarded without a count. -/
def State.mosToken (s : State) (lane kind : Nat) (l : List Byte) : State :=
  let h := MosHead.of l
  if !s.laneOpen lane then s
  else if h.kind ≠ kind && h.kindOk then s
  else
    match s.mosCheck l with
    | some r => s.mosDrop lane r l
    | none =>
      match s.ctxOfMsid h.msid with
      | none => s
      | some c =>
        if !s.tokenLive c h && !s.tokenPast c h then s.mosDrop lane 5 l
        else if h.gen then s.mosDrop lane 6 l
        else if (s.ctx c).roundSteps ≤ h.step then s.mosDrop lane 7 l
        else if kind = 0x10 then (if s.tokenLive c h then s.takeClose c (bits h.flags 0 1 == 1) else s)
        else s.takeDecide c h

/-- CLOSE: a CLOSE token is received. -/
def execClose (lane : Nat) (bytes : List Byte) (s : State) : Host.Outcome State Fault Refusal := .next (s.mosToken lane 0x10 bytes)

/-- DECIDE: a DECIDE token is received. -/
def execDecide (lane : Nat) (bytes : List Byte) (s : State) : Host.Outcome State Fault Refusal := .next (s.mosToken lane 0x11 bytes)

/-! ## Deadlines (R257, R258, R260) -/

/-- The round may still miss its deadline: it is neither sealed nor voided here. -/
def State.roundOpen (s : State) (ctx : Nat) : Bool :=
  let r := (s.ctx ctx).roundState
  r == .idle || r == .exchange || r == .closing

/-- The round's deadline is due in this pass: its last pass, the round neither decided nor past its deadline, not sealed
before its last pass ended, due in time (R292), and not waiting for the pulse that starts it again (R258, R262). -/
def State.deadlineDue (s : State) (ctx : Nat) : Bool :=
  let x := (s.rt ctx).stream
  s.roundOpen ctx && !x.deadline && !x.early && !(s.rt ctx).late && !(s.rt ctx).waitPulse && (s.ctx ctx).passInRound + 1 == (s.ctx ctx).sendEvery

/-- The round's deadline fires, in its last pass (R257, R258). A round that never entered EXCHANGE takes the bounds of the Legend in
force. -/
def State.fireDeadline (s : State) (ctx : Nat) : State :=
  if !s.deadlineDue ctx then s
  else
    let s := { s with dat := { s.dat with firedMos := s.dat.firedMos ++ [ctx] } }
    let idle := (s.ctx ctx).roundState == .idle
    let s := s.updStream ctx fun x => { x with
      deadline := true, deadlineAt := s.pins.now, grace := if idle then s.waits.1 else x.grace
      decideWait := if idle then s.waits.2 else x.decideWait }
    if (s.rt ctx).stream.ready then s
    else if s.rank = 0 then s.chairDecide ctx false
    else s.sendClose ctx false

/-- MOS_GRACE: the chair has waited for a CLOSE for MOS_GRACE since its deadline (R257). -/
def execMosGrace (ctx : Nat) (s : State) : Host.Outcome State Fault Refusal :=
  .next (
    if s.inRounds ctx && s.rank == 0 && (s.rt ctx).stream.deadline && s.roundOpen ctx && (s.rt ctx).stream.closeIn.isNone
        && s.elapsed (s.rt ctx).stream.deadlineAt ((s.rt ctx).stream.grace * 1000)
    then s.chairDecide ctx false else s)

/-- MOS_DECIDE_WAIT: no DECIDE came (R260): a local void, or UNDECIDED where CLOSE with OK = 1 had been forwarded. -/
def execMosDecideWait (ctx : Nat) (s : State) : Host.Outcome State Fault Refusal :=
  .next (
    if s.inRounds ctx && s.rank != 0 && (s.rt ctx).stream.deadline && s.roundOpen ctx
        && s.elapsed (s.rt ctx).stream.deadlineAt (((s.rt ctx).stream.grace + (s.rt ctx).stream.decideWait) * 1000) then
      if (s.rt ctx).stream.closeOut = some true then s.undecide ctx else s.voidRound ctx
    else s)

/-! ## MOS_ROUND_CTL (R260, R262, R420) -/

/-- A DECIDE waits in the queue that will decide the context's round in this same cycle (log 165): a write that would decide it
too is refused (R420). -/
def State.decidePending (s : State) (ctx : Nat) : Bool :=
  s.pending.any fun i =>
    match i with
    | .decide lane l =>
      let h := MosHead.of l
      s.laneOpen lane && h.kind == 0x11 && (s.mosCheck l).isNone && s.ctxOfMsid h.msid == some ctx && s.tokenLive ctx h
        && !h.gen && decide (h.step < (s.ctx ctx).roundSteps) && s.rank != 0
        && (s.rt ctx).stream.decideOut != some (BitVec.ofNat 64 h.round)
    | _ => false

/-- A write to MOS_ROUND_CTL finds its context in the round state it needs (R420). Before a seal there is no context, and an
engine out of service changes none: the write is refused then too (log 169). -/
def State.roundTakes (s : State) (ctx : Nat) (st : RoundState) : Bool :=
  !s.lgd.standalone && !s.flt.out && s.ctxExists ctx && (s.ctx ctx).roundState == st

/-- The result of a round control write: 1 done, 2 refused. -/
def State.roundResult (s : State) (ok : Bool) : State := { s with mos := { s.mos with result := if ok then 1 else 2 } }

/-- RESUME: a voided round opens again; no command begins before the next pulse (R262). -/
def State.roundResume (s : State) (ctx : Nat) : State :=
  if s.roundTakes ctx .voidHold then
    let s := s.updCtx ctx fun c => { c with roundState := .idle }
    let s := s.updRt ctx fun r => { r with waitPulse := true }
    let s := s.updStream ctx fun x => { x with decideOut := none }
    (s.resumeQueues ctx).roundResult true
  else s.roundResult false

/-- SEAL of an UNDECIDED round: the paused queues become ACTIVE (R260, R420). -/
def State.roundSeal (s : State) (ctx : Nat) : State :=
  if s.roundTakes ctx .undecided && !s.decidePending ctx then ((s.sealRound ctx).resumeQueues ctx).roundResult true
  else s.roundResult false

/-- VOID of an UNDECIDED round (R260, R420). -/
def State.roundVoid (s : State) (ctx : Nat) : State :=
  if s.roundTakes ctx .undecided && !s.decidePending ctx then (s.voidRound ctx).roundResult true
  else s.roundResult false

/-- RESUME: a write to MOS_ROUND_CTL. -/
def execMosResume (ctx : Nat) (s : State) : Host.Outcome State Fault Refusal := .next (s.cfgWrite fun s => s.roundResume ctx)

/-- SEAL: a write to MOS_ROUND_CTL. -/
def execMosSeal (ctx : Nat) (s : State) : Host.Outcome State Fault Refusal := .next (s.cfgWrite fun s => s.roundSeal ctx)

/-- VOID: a write to MOS_ROUND_CTL. -/
def execMosVoid (ctx : Nat) (s : State) : Host.Outcome State Fault Refusal := .next (s.cfgWrite fun s => s.roundVoid ctx)

end Sys2Proof.Machine
end

