-- ==== Sys2Proof/Machine/Update.lean ====
section
/-! DEFINITION. The shard update: the gradient and its clipping, the optimisers, what is written, and the norm (R273 to
R281). -/

namespace Sys2Proof.Machine

open Sys2Proof

/-- A hyperparameter of SHARD_UPDATE as an FP32 value (R273, R314). -/
def Cmd.hyper (c : Cmd) (off : Nat) : XVal := Fmt.fp32.decode (c.fld off 0 32)

/-- The rows of the layer a rank owns, first and past the last, by WORK's row count (R244, R427). -/
def State.ownedRows (s : State) (c : Cmd) : Nat × Nat := shardRows s.rank s.ranks (s.opd c 0 4).copyRows

/-- An element of GRAD, exact (R277). -/
def State.gradElem (s : State) (c : Cmd) (long : Bool) (anchor : Int) (row col : Nat) : XVal :=
  let d := s.opd c 0 0
  if long then
    let v := signed 128 (s.bulkLE (d.bitAt 128 row col / 8) 16)
    if isMarker v then .nan else longVal v anchor
  else Fmt.fp32.decode (s.bulkLE (d.bitAt 32 row col / 8) 4)

/-- g of R277: the exact value times GRAD_SCALE, rounded once. -/
def State.gradVal (s : State) (c : Cmd) (long : Bool) (anchor : Int) (row col : Nat) : XVal :=
  r32 ((s.gradElem c long anchor row col).mul (c.hyper 0x58))

/-- An element of a plain FP32 tensor, counted in element order. -/
def State.vecElem (s : State) (d : TDesc) (i : Nat) : XVal :=
  let x := d.cells.getD i (0, 0)
  Fmt.fp32.decode (s.bulkLE (d.bitAt 32 x.1 x.2 / 8) 4)

/-- The byte ranges of GRAD (R277). -/
def State.gradReads (s : State) (c : Cmd) (long : Bool) : List (Nat × Nat) :=
  let d := s.opd c 0 0
  [(d.base, d.spanLen (if long then 128 else 32))]

/-- The clipping factor of R278 from S: 1 where the norm is within CLIP_MAX. -/
def clipFactor (norm2 clip : XVal) : XVal :=
  let n := fsqrt norm2
  if n.le clip then XVal.one else fdiv clip n

/-- What the optimiser makes of one element (R280): θ1, m1, r1. -/
structure Step1 where
  theta : XVal
  mom : XVal
  root : XVal
  deriving DecidableEq, Repr, Inhabited

/-- The factors formed once for a command (R280). -/
structure Hyper where
  opt : Nat
  lr : XVal
  decay : XVal
  b1 : XVal
  b2 : XVal
  nb1 : XVal
  nb2 : XVal
  eps : XVal
  p1 : XVal
  p2 : XVal
  deriving DecidableEq, Repr, Inhabited

/-- The factors of a command, with p1 and p2 from the record's P1 and P2. -/
def Cmd.hypers (c : Cmd) (p1 p2 : XVal) : Hyper :=
  let b1 := c.hyper 0x4C
  let b2 := c.hyper 0x50
  ⟨c.fld 0x40 0 2, c.hyper 0x44, fmul (c.hyper 0x44) (c.hyper 0x48), b1, b2, fsub XVal.one b1, fsub XVal.one b2, c.hyper 0x54,
    fmul p1 b1, fmul p2 b2⟩

/-- sign(x): 0 at ±0, NaN at NaN (R280). -/
def fsign (x : XVal) : XVal :=
  match x with
  | .nan => .nan
  | _ => if x.isZero then XVal.zero else if x.sign then XVal.one.neg else XVal.one

/-- The equations of R280. -/
def Hyper.step (h : Hyper) (theta g m r : XVal) : Step1 :=
  let w := ffma h.decay.neg theta theta
  match h.opt with
  | 0 =>
    let m1 := ffma h.b1 m (fmul h.nb1 g)
    let v1 := ffma h.b2 (fmul r r) (fmul h.nb2 (fmul g g))
    let den := fadd (fsqrt (fdiv v1 (fsub XVal.one h.p2))) h.eps
    let u := fdiv (fdiv m1 (fsub XVal.one h.p1)) den
    ⟨ffma h.lr.neg u w, m1, fsqrt v1⟩
  | 1 =>
    let m1 := ffma h.b1 m g
    ⟨ffma h.lr.neg m1 w, m1, XVal.zero⟩
  | _ =>
    let m1 := ffma h.b1 m (fmul h.nb1 g)
    ⟨fsub w (fmul h.lr (fsign m1)), m1, XVal.zero⟩

/-- The step of the last sealed round that a SHARD_UPDATE still concerns (R276, R281; log 22): the update was published before the
seal, and no APPLY has begun on the step, but itself or, for a NORM, one published later. -/
def Stream.owing (x : Stream) (c : Cmd) : Option StepRec :=
  (x.past.find? fun t => t.idx == c.fld 0x42 0 16).filter fun t =>
    decide (c.seq < x.sealSeq) && t.used.all fun q => if c.fld 0x40 2 1 = 0 then q == c.seq else decide (c.seq < q)

/-- The MOSAIC_STEP a SHARD_UPDATE belongs to (R276, R281; log 22): the current round's, but for an update of the sealed round that the
seal has overtaken. -/
def State.stepOf (s : State) (c : Cmd) : Option StepRec :=
  let x := (s.rt c.ctx).stream
  let due := x.owing c
  match x.step (c.fld 0x42 0 16) with
  | some t => if t.seq < c.seq then some t else due.or (some t)
  | none => due

/-- A reduce-scatter MOSAIC_STEP. -/
def Cmd.isStep (c : Cmd) : Bool := c.op == 0x10 && c.fld 0x40 0 2 == 0

/-- A SHARD_UPDATE in APPLY mode. -/
def Cmd.isApply (c : Cmd) : Bool := c.op == 0x12 && c.fld 0x40 2 1 == 0

/-- The owned rows and the columns of the gradient a NORM reads, by the MOSAIC_STEP of its layer, begun or still waiting (R244,
R273, R427). DESIGN CHOICE (log 162): none where the engine knows no such step yet, and its shape is then not judged. -/
def State.normShard (s : State) (c : Cmd) : Option (Nat × Nat) :=
  let own := fun (rows cols : Nat) => let (a, b) := shardRows s.rank s.ranks rows; (b - a, cols)
  match s.stepOf c with
  | some t => some (own t.rows t.cols)
  | none =>
    (s.cmds.find? fun y => y.isStep && y.ctx == c.ctx && y.fld 0x42 0 16 == c.fld 0x42 0 16 && y.seq < c.seq && y.has 0 0).map fun y =>
      let d := s.opd y 0 0
      own d.rows d.e0

/-- An update begins (R276, R277, R281): its round, and the element kind and anchor its step recorded. -/
def State.beginUpdate (s : State) (c : Cmd) : State :=
  if c.op ≠ 0x12 || c.fld 0x40 2 1 = 1 then s
  else
    let idx := c.fld 0x42 0 16
    let st := ptrAt c.raw 0x60
    let t := s.stepOf c
    let pend := [(1, 0), (2, 1), (3, 1), (4, 2), (5, 2)].filterMap fun (x : Nat × Nat) =>
      if c.has 0 x.1 && (4 ≤ x.1 || !s.ownsNo (s.opd c 0 4).copyRows) then some (c.rawSlot 0 x.1, s.recBit st x.2) else none
    let u : UpdRec := ⟨idx, st, (t.map (·.round)).getD (s.ctx c.ctx).round, false, false, s.memLE (st + 8) 4, s.memLE (st + 12) 4, false,
      (t.map (·.long)).getD false, (t.map (·.anchor)).getD 0, pend, c.id⟩
    let take := fun (y : StepRec) => if y.idx = idx && t.any fun z => z.round == y.round then { y with used := some c.seq } else y
    s.updStream c.ctx fun x =>
      { x with updates := (x.updates.filter fun y => y.idx != idx || (!y.committed && y.round != u.round)) ++ [u]
               steps := x.steps.map take, past := x.past.map take }

/-- The running update of a command. -/
def State.updateOf (s : State) (c : Cmd) : Option UpdRec :=
  (s.rt c.ctx).stream.updates.find? fun u => u.cmd == c.id && !u.committed

/-- The pending and the committed copy of a slot. -/
def State.copies (s : State) (c : Cmd) (slot bit : Nat) : TDesc × TDesc :=
  let sel := s.recBit (ptrAt c.raw 0x60) bit
  let d := s.opd c 0 slot
  (d.pending sel, d.copyAt sel)

/-- Copy the elements and scales of a tensor of the shard from its committed to its pending copy (R279). -/
def State.copyShard (s : State) (c : Cmd) (slot bit : Nat) : List (Nat × Byte) :=
  if !c.has 0 slot then []
  else
    let (p, q) := s.copies c slot bit
    (List.zip (p.bytes false) (q.bytes false)).map fun x => (x.1, s.bulkByte x.2)

/-- Copy the owner's rows of WORK and TWIN (R279). -/
def State.copyRows (s : State) (c : Cmd) : List (Nat × Byte) :=
  let (w, w0) := s.copies c 4 2
  let n := w.shardBytes s.rank s.ranks
  let part := fun k m => (List.range m).flatMap fun o =>
    (w.shardAt s.rank s.ranks k o, s.bulkByte (w0.shardAt s.rank s.ranks k o)) ::
      (if c.has 0 5 then
        let (t, t0) := s.copies c 5 2
        [(w.twinShardAt t s.rank s.ranks k o, s.bulkByte (w.twinShardAt t0 s.rank s.ranks k o))] else [])
  part 0 n.1 ++ part 1 n.2

/-- The owner's elements of a copy of WORK, as they are stored. -/
def State.shardVals (s : State) (w : TDesc) : List XVal :=
  w.wholeElems 0 ((List.range (w.shardBytes s.rank s.ranks).1).map fun o => s.bulkByte (w.shardAt s.rank s.ranks 0 o))

/-- WATCH over the copies a skipped update makes (R279, R316). -/
def State.watchCopies (s : State) (c : Cmd) : State :=
  let vals := fun (slot bit : Nat) => if c.has 0 slot then let d := (s.copies c slot bit).2; d.cells.map fun x => s.elemVal d x.1 x.2 else []
  let work := s.shardVals (s.copies c 4 2).2
  s.count c.id fun k => ((((k.watching (s.opd c 0 1) (vals 1 0)).watching (s.opd c 0 2) (vals 2 1)).watching (s.opd c 0 3)
    (vals 3 1)).watching (s.opd c 0 4) work).watching (s.opd c 0 5) (if c.has 0 5 then work else [])

/-- Write the twin: the transpose of the owner's rows as written to WORK (R56, R105, R281). DESIGN CHOICE (log 185): its scales are
written with WORK's, also where its own descriptor names SCALE_SRC GIVEN (R136). -/
def State.writeTwin (s : State) (c : Cmd) : State :=
  if !c.has 0 5 then s
  else
    let w := (s.copies c 4 2).1
    let t := (s.copies c 5 2).1
    let n := w.shardBytes s.rank s.ranks
    let part := fun k m => (List.range m).map fun o =>
      (w.twinShardAt t s.rank s.ranks k o, s.bulkByte (w.shardAt s.rank s.ranks k o))
    (s.writeOwed c.id (part 0 n.1 ++ part 1 n.2)).count c.id fun k => k.watching t (s.shardVals w)

/-- The key of an update's draws (R281): the round whose gradient it reads, and the last pass of the round. -/
def State.updKey (s : State) (c : Cmd) (u : UpdRec) : Key :=
  commandKey (s.ctx c.ctx).seed u.round ((s.ctx c.ctx).sendEvery - 1) (BitVec.ofNat 32 c.tag)

/-- The scales that a destination of an update names GIVEN are read, whatever the Legend's switch (R136, R149). -/
def State.readGiven (s : State) (d : TDesc) : State :=
  if d.mode ≠ 0 && d.given false then s.readBytes [(d.sptr, d.scaleCount * d.scaleBytes)] else s

/-- Values of the shard converted for a destination's pending copy (R281): rows of the tensor from 0, draws by the layer's rows. -/
def State.shardStored (s : State) (c : Cmd) (u : UpdRec) (d : TDesc) (slot base row0 : Nat) (xs : List (Nat × Nat × XVal)) : Stored :=
  s.convertFrom d (d.given false) ⟨s.updKey c u, slot, 0, c.run.free⟩ row0 (xs.map fun x => (x.1 + base, x.2.1, x.2.2))

/-- Write values of the shard into a destination's pending copy. -/
def State.storeShard (s : State) (c : Cmd) (u : UpdRec) (d : TDesc) (slot base row0 : Nat) (xs : List (Nat × Nat × XVal)) : State :=
  let s := s.readGiven d
  let st := s.shardStored c u d slot base row0 xs
  (s.putFields c.id st.fields).count c.id fun k => k.tally st.tally d.watch

/-- The byte ranges an APPLY reads: the gradient, the norm where it clips, the committed master and moments of the rows it owns; and
of a skipped one the committed working weight's rows too (R277 to R279). -/
def State.applyReads (s : State) (c : Cmd) (u : UpdRec) (clips skip : Bool) : List (Nat × Nat) :=
  let two := fun (slot bit : Nat) => if c.has 0 slot then (s.copies c slot bit).2.reads else []
  let own := s.ownedRows c
  (if own.2 ≤ own.1 then []
    else s.gradReads c u.long ++ two 1 0 ++ two 2 1 ++ two 3 1 ++ (if skip then two 4 2 ++ two 5 2 else []))
    ++ (if clips then (s.opd c 0 6).reads else [])

/-- APPLY (R277 to R281). A rank that owns no rows reads and writes no GRAD, MASTER or moment (R427). -/
def State.applyUpdate (s : State) (c : Cmd) : State :=
  if c.fld 0x40 2 1 = 1 then s
  else
    match s.updateOf c with
    | none => s
    | some u =>
      let (a, b) := s.ownedRows c
      let cols := (s.opd c 0 4).e0
      let cells := (List.range (b - a)).flatMap fun r => (List.range cols).map fun k => (r, k)
      let gs := cells.map fun x => s.gradVal c u.long u.anchor x.1 x.2
      let bad := (gs.filter fun g => !g.isFin).length
      let clip := c.hyper 0x5C
      let clips := XVal.zero.lt clip
      let owns := decide (a < b)
      let sv := s.vecElem (s.opd c 0 6) 0
      let nv := s.vecElem (s.opd c 0 6) 1
      let skip := c.fld 0x40 3 1 = 0 && (bad != 0 || (clips && (!sv.isFin || !nv.isZero)))
      let h := c.hypers (Fmt.fp32.decode u.p1) (Fmt.fp32.decode u.p2)
      let done := fun (s : State) =>
        let s := s.updStream c.ctx fun x => { x with updates := x.updates.map fun y =>
          if y.cmd = u.cmd then { u with skipped := skip, p1 := fp32Code h.p1, p2 := fp32Code h.p2 } else y }
        let s := s.count c.id fun k => { k with skipped := skip, nonfinite := bad }
        s.updCmd c.id fun x => { x with phase := .done }
      if skip then
        let t := (s.readBytes (s.applyReads c u clips true)).writeOwed c.id
          (if owns then s.copyShard c 1 0 ++ s.copyShard c 2 1 ++ s.copyShard c 3 1 ++ s.copyRows c else [])
        done (if owns then t.watchCopies c else t)
      else
        let s := s.readBytes (s.applyReads c u clips false)
        let cf := if clips then clipFactor sv clip else XVal.one
        let gs := if cf = XVal.one then gs else gs.map fun g => fmul g cf
        let theta := s.copies c 1 0
        let m := s.copies c 2 1
        let r := s.copies c 3 1
        let out := (List.zip cells gs).map fun x =>
          let (i, k) := x.1
          (i, k, h.step (s.scaledVal theta.2 i k) x.2 (r32 (s.scaledVal m.2 i k))
            (if c.has 0 3 then r32 (s.scaledVal r.2 i k) else XVal.zero))
        let s1 := s.putFields c.id (out.map fun x => (theta.1.bitAt 32 x.1 x.2.1, 32, fp32Code x.2.2.theta))
        let s1 := s1.count c.id fun k => k.watching theta.1 (out.map fun x => x.2.2.theta)
        let s2 := if c.has 0 2 then s1.storeShard c u m.1 3 0 a (out.map fun x => (x.1, x.2.1, x.2.2.mom)) else s1
        let s3 := if c.has 0 3 then s2.storeShard c u r.1 4 0 a (out.map fun x => (x.1, x.2.1, x.2.2.root)) else s2
        let s4 := s3.storeShard c u (s.copies c 4 2).1 2 a 0 (out.map fun x => (x.1, x.2.1, x.2.2.theta))
        done (s4.writeTwin c)

/-- APPLY: SHARD_UPDATE with MODE 0 (R273). -/
def execApply (c : CmdId) (s : State) : Host.Outcome State Fault Refusal := .next (s.runOp c 0x12 s.applyUpdate)

/-- NORM (R278): S by a chain of fused multiply-adds, N a count, both added to the vector. A rank that owns no rows of the layer's
region reads no GRAD and adds +0 and 0 (R427). -/
def State.normUpdate (s : State) (c : Cmd) : State :=
  if c.fld 0x40 2 1 = 0 then s
  else
    let t := s.stepOf c
    let long := (t.map (·.long)).getD false
    let anchor := (t.map (·.anchor)).getD 0
    let d := s.opd c 0 0
    let owns := c.has 0 0 && !(s.normShard c).any fun o => o.1 == 0
    let cells := if owns then d.cells else []
    let s := s.readBytes ((if owns then s.gradReads c long else []) ++ (s.opd c 0 6).reads)
    let gs := cells.map fun x => s.gradVal c long anchor x.1 x.2
    let sum := gs.foldl (fun a g => ffma g g a) XVal.zero
    let n := (gs.filter fun g => !g.isFin).length
    let v := s.opd c 0 6
    let put := fun i x => (v.bitAt 32 (v.cells.getD i (0, 0)).1 (v.cells.getD i (0, 0)).2, 32, fp32Code (fadd (s.vecElem v i) x))
    let fs := [put 0 sum, put 1 (XVal.ofInt n)]
    let s := s.putFields c.id fs
    let s := s.count c.id fun k => ({ k with nonfinite := n } : Counts).watching v (fs.map fun f => Fmt.fp32.decode f.2.2)
    s.updCmd c.id fun x => { x with phase := .done }

/-- NORM: SHARD_UPDATE with MODE 1 (R278). -/
def execNorm (c : CmdId) (s : State) : Host.Outcome State Fault Refusal := .next (s.runOp c 0x12 s.normUpdate)

/-- A SHARD_UPDATE has completed (R281, R282): PEND_STATE is set, and the state commits at once where its round is sealed. -/
def State.completeUpdate (s : State) (c : Cmd) : State :=
  if c.op ≠ 0x12 || c.fld 0x40 2 1 = 1 then s
  else
    match s.updateOf c with
    | none => s
    | some u =>
      let s := s.setRecWord c.ctx u.state fun w => putBits w 3 1 1
      let s := s.updStream c.ctx fun x => { x with updates := x.updates.map fun y => if y.cmd = u.cmd then { y with complete := true } else y }
      (s.commitUpdates c.ctx).settleGathers c.ctx

end Sys2Proof.Machine
end

