-- ==== Sys2Proof/Machine/Issue.lean ====
section
/-! DEFINITION. What a command is checked against: the fields and slots of each opcode, the nineteen issue checks in their
order, and the dataflow and shapes they judge (R35 to R40, R48, R55 to R58, R62, R65, R75 to R79, R87, R91, R92, R98, R104,
R117, R118, R123, R130 to R132, R137 to R145, R149, R163, R171, R175 to R182, R189, R193 to R195, R198 to R205, R242, R247,
R263, R273, R274, R310 to R317, R339, R426, R427). -/

namespace Sys2Proof.Machine

open Sys2Proof

/-! ## Fields, slots and what is reserved -/

/-- A field of a descriptor: byte offset of its table row, first bit and width. -/
structure Fld where
  off : Nat
  lo : Nat
  w : Nat
  deriving DecidableEq, Repr, Inhabited

/-- The first 8 B of a field's value (R339). -/
def Fld.of (f : Fld) (raw : Nat) : Nat := bits raw (f.off * 8 + f.lo) (min f.w 64)

/-- The slots an opcode uses (R311); SAVED of the array opcodes only with FUSE. -/
def slotsOf_ (op : Nat) (fuse : Bool) : List Nat :=
  match op with
  | 1 => [0, 1, 2, 3, 4, 5] ++ (if fuse then [6] else [])
  | 2 | 6 => [1, 2, 3, 5] ++ (if fuse then [6] else [])
  | 3 | 7 => [0, 2, 4, 5]
  | 4 => [0, 1, 3, 5] ++ (if fuse then [6] else [])
  | 5 => [0, 1, 2, 3, 4, 5]
  | 8 => [0, 1, 3]
  | 9 | 0x18 => [0, 3]
  | 0x0A => [2, 3, 6]
  | 0x19 => [3]
  | 0x10 => [0, 1, 3, 4, 5]
  | 0x11 => [3, 4]
  | 0x12 => [0, 1, 2, 3, 4, 5, 6]
  | _ => []

/-- The opcodes of the table (R317). -/
def isOpcode (op : Nat) : Bool :=
  (1 ≤ op && op ≤ 0x0B) || (0x10 ≤ op && op ≤ 0x12) || op == 0x18 || op == 0x19 || (0x20 ≤ op && op ≤ 0x23) || op == 0x30

/-- A slot a command writes (R311); 5 is the workspace of an array opcode. -/
def isDest (op slot : Nat) : Bool :=
  match op with
  | 1 | 2 | 3 | 4 | 5 | 6 | 7 | 8 => slot == 3 || slot == 4 || slot == 5
  | 9 | 0x0A | 0x18 | 0x19 => slot == 3
  | 0x10 => slot == 3 || slot == 4 || slot == 5
  | 0x11 => true
  | 0x12 => 1 ≤ slot && slot ≤ 5
  | _ => false

/-- A slot a command writes, the NORM vector of a NORM among them (R273). -/
def Cmd.writes (c : Cmd) (slot : Nat) : Bool := isDest c.op slot || (c.op == 0x12 && slot == 6 && c.fld 0x40 2 1 == 1)

/-- A slot whose bytes a command reads: every source; the regions an array command may add to; the residual and factors of a
step; the weight a gather sends; the state a shard update advances. -/
def isRead (op slot : Nat) : Bool :=
  !isDest op slot || (op ≤ 7 && (slot == 3 || slot == 4)) || (op == 0x10 && (slot == 4 || slot == 5)) || (op == 0x11 && slot == 3)
    || (op == 0x12 && slot ≤ 3)

/-- The workspace of an array opcode. -/
def isWs (op slot : Nat) : Bool := op ≤ 8 && slot == 5

/-- A two-copy operand (R274). -/
def isTwo (op slot : Nat) : Bool := op == 0x11 || (op == 0x12 && 1 ≤ slot && slot ≤ 5)

/-- A slot whose operand may be a frame (R163). -/
def frameSlot (op slot : Nat) : Bool :=
  match op with
  | 1 | 2 | 3 | 4 | 6 | 7 | 8 => slot == 0 || slot == 1 || slot == 2 || slot == 6
  | 9 | 0x18 => slot == 0
  | 0x0A => slot == 2 || slot == 6
  | _ => false

/-- The pointer fields of the slots that may be set. -/
def slotFields (op : Nat) (fuse packed : Bool) : List Fld :=
  if packed then [] else (slotsOf_ op fuse).map fun i => ⟨0x16 + 6 * i, 0, 48⟩

/-- The fields of an opcode's own area (R312, R314). The run-time field is one of 96 bits in its inline form, and where no buckets apply,
which is ignored (R183); else a pointer. -/
def areaFields (op : Nat) (inline : Bool) : List Fld :=
  let arr := [⟨0x40, 0, 8⟩, ⟨0x41, 0, 8⟩, ⟨0x42, 0, 16⟩, ⟨0x44, 0, 32⟩]
  let mid := [⟨0x48, 0, 48⟩, ⟨0x4E, 0, 8⟩, ⟨0x50, 0, 48⟩, ⟨0x58, 0, 48⟩, ⟨0x60, 0, 48⟩]
  match op with
  | 1 | 2 | 3 | 4 | 8 => arr ++ mid ++ [if inline then ⟨0x68, 0, 96⟩ else ⟨0x68, 0, 48⟩]
  | 6 | 7 => arr ++ mid ++ [⟨0x68, 0, 14⟩, ⟨0x68, 16, 6⟩, ⟨0x68, 24, 16⟩]
  | 5 => arr ++ [⟨0x48, 0, 48⟩, ⟨0x4E, 0, 16⟩, ⟨0x50, 0, 48⟩, ⟨0x56, 0, 2⟩, ⟨0x58, 0, 48⟩, ⟨0x60, 0, 48⟩, ⟨0x68, 0, 25⟩]
  | 9 => [⟨0x40, 0, 48⟩]
  | 0x0A => [⟨0x40, 4, 4⟩, ⟨0x44, 0, 32⟩]
  | 0x0B => [⟨0x40, 0, 2⟩, ⟨0x44, 0, 32⟩]
  | 0x10 => [⟨0x40, 0, 7⟩, ⟨0x42, 0, 16⟩, ⟨0x44, 0, 16⟩]
  | 0x11 => [⟨0x40, 0, 1⟩, ⟨0x42, 0, 16⟩, ⟨0x48, 0, 48⟩]
  | 0x12 => [⟨0x40, 0, 4⟩, ⟨0x42, 0, 16⟩, ⟨0x44, 0, 224⟩, ⟨0x60, 0, 48⟩]
  | 0x19 => [⟨0x40, 0, 128⟩]
  | 0x20 => [⟨0x40, 0, 2⟩]
  | 0x21 => [⟨0x40, 0, 2⟩, ⟨0x48, 0, 52⟩, ⟨0x50, 0, 64⟩, ⟨0x58, 0, 64⟩]
  | 0x22 => [⟨0x40, 0, 2⟩, ⟨0x48, 0, 52⟩, ⟨0x50, 0, 64⟩]
  | 0x23 => [⟨0x40, 0, 14⟩, ⟨0x48, 0, 64⟩]
  | 0x30 => [⟨0x40, 0, 2⟩]
  | _ => []

/-- The fields every command has (R310). -/
def commonFields : List Fld :=
  [⟨0, 0, 8⟩, ⟨1, 0, 1⟩, ⟨2, 0, 16⟩, ⟨4, 0, 32⟩, ⟨8, 0, 32⟩, ⟨0x0C, 0, 16⟩, ⟨0x0E, 0, 5⟩, ⟨0x10, 0, 48⟩]

/-- A number with the given fields cleared. -/
def wipeFields (fs : List Fld) (raw : Nat) : Nat := fs.foldl (fun v f => putBits v (f.off * 8 + f.lo) f.w 0) raw

/-- The first byte of a number that is not zero, below n bytes. -/
def firstByte (n v : Nat) : Option Nat := (List.range n).find? fun i => bits v (8 * i) 8 != 0

/-- The reserved bits of a tensor descriptor (R315). -/
def tdescReserved (v : Nat) : Nat := bits v 63 1 * 2 ^ 63 + bits v (0x10 * 8 + 54) 10 * 2 ^ (0x10 * 8 + 54)

/-! ### Fields of a tensor descriptor -/

/-- BASE. -/
def fBase : Fld := ⟨0, 0, 52⟩
/-- FMT. -/
def fFmt : Fld := ⟨0, 52, 4⟩
/-- SCALE_MODE. -/
def fMode : Fld := ⟨0, 56, 3⟩
/-- SCALE_FMT. -/
def fSfmt : Fld := ⟨0, 59, 2⟩
/-- SCALE_SRC. -/
def fSrc : Fld := ⟨0, 61, 2⟩
/-- SCALE_PTR. -/
def fSptr : Fld := ⟨8, 0, 52⟩
/-- ROUND. -/
def fRound : Fld := ⟨8, 52, 2⟩
/-- SPARSE. -/
def fSparse : Fld := ⟨8, 55, 2⟩
/-- FRAME. -/
def fFrame : Fld := ⟨8, 57, 2⟩
/-- SHADOW. -/
def fShadow : Fld := ⟨8, 62, 1⟩
/-- ZP_PTR. -/
def fZp : Fld := ⟨0x10, 0, 52⟩
/-- UNIT_DIM. -/
def fUnit : Fld := ⟨0x10, 52, 2⟩
/-- EXTi. -/
def fExt (i : Nat) : Fld := ⟨0x18 + 4 * i, 0, 32⟩
/-- STRIDEi. -/
def fStride (i : Nat) : Fld := ⟨0x28 + 5 * i, 0, 40⟩

/-! ## The command as the checks see it -/

/-- One operand of one problem. -/
structure Opnd where
  prob : Nat
  slot : Nat
  raw : Nat
  /-- FRAME. -/
  frame : Nat
  /-- What the descriptor says, or the resolved frame. -/
  t : TDesc
  deriving DecidableEq, Repr, Inhabited

/-- A command under check: its operands; whether it is the check at the start of execution, which judges the resolved frames
(R164), or that at issue, which judges the others; and the mode set. -/
structure Chk where
  c : Cmd
  os : List Opnd
  late : Bool
  sw : Nat
  deriving Repr, Inhabited

/-- The operand's own values are known. -/
def Chk.known (x : Chk) (o : Opnd) : Bool := x.late || o.frame == 0

/-- The operand is judged at this point. -/
def Chk.judged (x : Chk) (o : Opnd) : Bool := (o.frame != 0) == x.late

/-- An operand of a problem whose values are known. -/
def Chk.opnd (x : Chk) (prob slot : Nat) : Option Opnd := x.os.find? fun o => o.prob == prob && o.slot == slot && x.known o

/-- The command is packed. -/
def Cmd.packed (c : Cmd) : Bool := c.isArrayOp && c.problems != 0

/-- The pointer of a slot of a problem. -/
def Cmd.ptrOf (c : Cmd) (prob slot : Nat) : Nat :=
  match c.probs with
  | [] => c.slotPtr slot
  | ps => bits (ps.getD prob (0, [])).1 ((6 + 6 * slot) * 8) 48 * 16

/-- A command or its field offends. -/
def Chk.bad (x : Chk) (code : Nat) (f : Fld) : Option Cause := some ⟨code, f.of x.c.raw, 15, f.off⟩

/-- A descriptor's field offends. -/
def Opnd.bad (o : Opnd) (code : Nat) (f : Fld) : Option Cause := some ⟨code, f.of o.raw, o.slot, f.off⟩

/-- The first of several checks that fails. -/
def firstBad (l : List (Option Cause)) : Option Cause := l.foldl (fun a b => a.or b) none

/-- A check that fails when a condition holds. -/
def failIf (b : Bool) (c : Option Cause) : Option Cause := if b then c else none

/-- Check every judged operand, in order of problem and slot. -/
def Chk.each (x : Chk) (f : Opnd → Option Cause) : Option Cause := firstBad ((x.os.filter x.judged).map f)

/-- Problems of a command; one where it is not packed. -/
def Cmd.probCount (c : Cmd) : Nat := max 1 c.probs.length

/-! ### Reading the descriptors (R179, R305, R313) -/

/-- A descriptor in memory; 0 where its pointer cannot name one. -/
def State.readDesc (s : State) (c : Cmd) (a n : Nat) : Nat := if a ≠ 0 && a % 64 = 0 && s.inMap a n then (s.listSrc c).le a n else 0

/-- The problem table of a packed command. -/
def State.readProbs (s : State) (c : Cmd) : List (Nat × List Nat) :=
  if c.packed && c.problems ≤ 16 then
    (List.range c.problems).map fun q =>
      let e := s.readDesc c (ptrAt c.raw 0x48 + 64 * q) 64
      (e, (List.range 7).map fun i => s.readDesc c (bits e ((6 + 6 * i) * 8) 48 * 16) 64)
  else []

/-- The command with its tensor descriptors and problem table. -/
def State.loadDescs (s : State) (c : Cmd) : Cmd :=
  { c with
    slots := if c.packed then [] else (List.range 7).map fun i => s.readDesc c (c.slotPtr i) 64
    probs := s.readProbs c }

/-- The operands of a command: the used slots with a pointer. -/
def State.opnds (s : State) (c : Cmd) (late : Bool) : List Opnd :=
  (List.range c.probCount).flatMap fun q =>
    (slotsOf_ c.op c.fuse).filterMap fun i =>
      if c.ptrOf q i = 0 then none
      else
        let raw := c.rawSlot q i
        let d := s.twinMark c.op i (TDesc.ofNat raw)
        some ⟨q, i, raw, d.frame, if late then s.opd c q i else d⟩

/-! ### Extents (R35) -/

/-- The letters of a slot's rows and columns: M 0, K 1, N 2; a sparse twin of W is stored the other way round (R199). -/
def dimLetters (op slot : Nat) (t : TDesc) : Option (Nat × Nat) :=
  match op, slot with
  | 1, 0 | 3, 0 => some (0, 1)
  | 1, 1 | 5, 1 => some (1, 2)
  | 2, 1 => if t.sparse ≠ 0 && t.unit = 1 then some (2, 1) else some (1, 2)
  | 1, 2 | 2, 2 | 3, 2 | 5, 2 => some (0, 2)
  | 1, 3 | 2, 3 | 1, 6 | 2, 6 => some (0, 1)
  | 1, 4 | 3, 4 | 5, 4 => some (1, 2)
  | 4, 0 | 8, 0 | 5, 0 => some (0, 1)
  | 4, 1 | 8, 1 => some (1, 2)
  | 4, 3 | 8, 3 | 4, 6 => some (0, 2)
  | _, _ => none

/-- The extent of a letter in a problem, from the first operand whose values are known. -/
def Chk.letter (x : Chk) (prob l : Nat) : Option Nat :=
  x.os.foldl (fun (a : Option Nat) o =>
    match a with
    | some v => some v
    | none =>
      if o.prob = prob && x.known o then
        match dimLetters x.c.op o.slot o.t with
        | some (r, k) => if r = l then some o.t.e1 else if k = l then some o.t.e0 else none
        | none => none
      else none) none

/-- Stand-in for an extent that only frames give, judged again when they are resolved (R164). -/
def standExt : Nat := 32

/-- A frame's descriptor replaced by a stand-in of the smallest format and the extents the others give. -/
def Chk.standIn (x : Chk) (prob slot raw : Nat) : Nat :=
  let d := TDesc.ofNat raw
  if d.frame = 0 || x.late then raw
  else
    let e := match dimLetters x.c.op slot d with
      | some (r, k) => ((x.letter prob r).getD standExt, (x.letter prob k).getD standExt)
      | none => (standExt, standExt)
    putBits (putBits (putBits (putBits (putBits (putBits raw 52 4 8) 56 3 0) (0x18 * 8) 32 e.2) (0x1C * 8) 32 e.1)
      (0x20 * 8) 32 1) (0x24 * 8) 32 1

/-- The bucket entries of a command (R182). -/
def State.bucketList (s : State) (c : Cmd) : List Nat :=
  if c.isArrayOp && c.buckets ≤ 8 && s.inMap (ptrAt c.raw 0x50) (16 * c.buckets) then
    (List.range c.buckets).map fun b => (s.listSrc c).le (ptrAt c.raw 0x50 + 16 * b) 16
  else []

/-- M, K and N of a bucket entry. -/
def bucketExt (e : Nat) : Nat × Nat × Nat := (bits e 0 32, bits e 32 32, bits e 64 32)

/-- The command as it would run at issue: its allocated extents or its last bucket, with stand-ins for frames. -/
def State.plan (s : State) (x : Chk) : Cmd :=
  let c := x.c
  if x.late then c
  else
    let c1 := { c with
      slots := (List.range c.slots.length).map fun i => x.standIn 0 i (c.slots.getD i 0)
      probs := (List.range c.probs.length).map fun q =>
        let p := c.probs.getD q (0, [])
        (p.1, (List.range p.2.length).map fun i => x.standIn q i (p.2.getD i 0)) }
    let e := match (s.bucketList c).getLast? with | some b => bucketExt b | none => (0, 0, 0)
    { c1 with run := { RunInfo.none with
        mode := x.sw, arr := some (s.arrOfQueue c.id.q), em := e.1, ek := e.2.1, en := e.2.2, am := e.1, ak := e.2.1, an := e.2.2 } }

/-! ## Dataflow (R36, R55, R75, R77, R87) -/

/-- A stationary operand is transposed (R36). -/
def Opnd.transposed (op : Nat) (o : Opnd) : Bool :=
  if o.slot = 1 && (op = 1 || op = 2 || op = 5 || op = 6) then o.t.wTransposed else o.t.unit != 0

/-- The operand a dataflow holds in the cells: WS the second, IS the first (R74). -/
def stationary (op df : Nat) : Option Nat :=
  match op, df with
  | 1, _ => some 1
  | 2, 1 | 6, 1 | 4, 1 => some 1
  | 4, 2 => some 0
  | _, _ => none

/-- The extents M, K and N of a problem, as far as they are known. -/
def Chk.mkn (x : Chk) (q : Nat) : Nat × Nat × Nat :=
  ((x.letter q 0).getD standExt, (x.letter q 1).getD standExt, (x.letter q 2).getD standExt)

/-- The problem that decides for a packed operation: the one with the most multiply-accumulates, ties to the lowest index (R77). -/
def Chk.mainProb (x : Chk) : Nat :=
  let macs := fun q => let e := x.mkn q; e.1 * e.2.1 * e.2.2
  (List.range x.c.probCount).foldl (fun b q => if macs b < macs q then q else b) 0

/-- The command would be diverted to the Spur at extents M, K, N (R87), the switch apart: a packed command too, by the extents of
its deciding problem (R77). -/
def Chk.thin (x : Chk) (m k n : Nat) : Bool :=
  (x.c.op == 2 || x.c.op == 3 || x.c.op == 4) && x.c.dataflow == 0 && !x.c.fair
    && x.os.all (fun o => isDest x.c.op o.slot || o.slot == 6 || !x.known o || (o.t.fmt.isFloat && o.t.sparse == 0))
    && decide (min m (min k n) ≤ 8)

/-- The destination of an MM names a region. -/
def State.mmRegion (s : State) (x : Chk) : Bool :=
  x.c.op == 4 && x.os.any fun o => o.slot == 3 &&
    (s.regionOf x.c.ctx o.t.base (o.t.spanLen (o.t.ebits (x.c.long && x.c.fair)))).isSome

/-- The dataflows of R75 for the command, with those removed that would hold a transposed operand without a Projection
buffer (R77). -/
def State.flows (s : State) (x : Chk) : List Nat :=
  let sparse := x.os.any fun o => o.frame == 0 && o.t.sparse != 0
  (acceptedFlows x.c.op (s.mmRegion x) sparse).filter fun df =>
    s.build.size.projection ||
      match stationary x.c.op df with
      | some i => x.os.all fun o => o.slot != i || !x.known o || !o.transposed x.c.op
      | none => true

/-- The product that decides: the one with the most multiply-accumulates, ties to the lowest index (R77). -/
def largestProd (ps : List Prod) : Option Prod :=
  ps.foldl (fun (b : Option Prod) p =>
    match b with
    | none => some p
    | some q => if q.emo * q.eno * q.ekr < p.emo * p.eno * p.ekr then some p else b) none

/-- The dataflow of a command that runs: 0 OS, 1 WS, 2 IS, 3 the Spur; none where the field is not accepted or AUTO has no
candidate (R75 to R78, R87). -/
def State.flow (s : State) (x : Chk) (c : Cmd) (thin : Bool) : Option Nat :=
  if c.op = 8 then (if c.dataflow = 0 then some 3 else none)
  else if thin && bits x.sw 4 1 = 1 then some 3
  else if c.op = 1 then (if c.dataflow = 0 then some 0 else none)
  else if c.dataflow ≠ 0 then
    let sparse := x.os.any fun o => o.frame == 0 && o.t.sparse != 0
    if (acceptedFlows c.op (s.mmRegion x) sparse).contains (c.dataflow - 1) then some (c.dataflow - 1) else none
  else if c.op = 5 then some 0
  else
    match largestProd (s.prods { c with run := { c.run with dataflow := 0 } } none) with
    | some p => chooseFlow (bits x.sw 0 1 == 1) c.fair (s.flows x) p.emo p.eno p.ekr p.rh p.rw
    | none => (s.flows x).head?

/-- The extents the Spur condition judges at issue: allocated extents, or any bucket (R87). -/
def State.thinAtIssue (s : State) (x : Chk) : Bool :=
  let a := x.mkn x.mainProb
  x.thin a.1 a.2.1 a.2.2 || (s.bucketList x.c).any fun b => let e := bucketExt b; x.thin e.1 e.2.1 e.2.2

/-- The dataflow judged at a check. -/
def State.flowAt (s : State) (x : Chk) : Option Nat :=
  if x.late then (if x.c.run.spur then some 3 else some x.c.run.dataflow)
  else
    let c := s.plan x
    let e := if c.buckets = 0 then s.alloc c x.mainProb else (c.run.em, c.run.ek, c.run.en)
    s.flow x c (x.thin e.1 e.2.1 e.2.2)

/-- The command as it would run, at its allocated extents where they are asked for and buckets apply (R180). -/
def State.planAt (s : State) (x : Chk) (whole : Bool) : Cmd :=
  let c := s.plan x
  if whole && c.buckets ≠ 0 then
    let (m, k, n) := x.mkn 0
    { c with run := { c.run with em := m, ek := k, en := n, am := m, ak := k, an := n } }
  else c

/-- The products an array operation is judged by at a check, at its allocated extents or its largest bucket; none of GP_GROUPED,
whose entries are read in their turn, and none on the Spur. DESIGN CHOICE (log 200): under AUTO the dataflow of each of these two extents is the
one judged; a smaller bucket that takes another one when it runs is judged by no check. -/
def State.prodsFor (s : State) (x : Chk) (df : Nat) (whole : Bool) : List Prod :=
  let c := s.planAt x whole
  if !c.isArrayOp || c.op == 5 || df == 3 then []
  else
    let fixed := if c.buckets = 0 || whole then none
      else if x.late then s.cmdFixed c
      else (s.bucketList c).getLast?.bind fixedShape
    s.prods { c with run := { c.run with dataflow := df } } fixed

/-- The products of the largest bucket. DESIGN CHOICE (log 150): the coverage of R139 is not judged of GP_GROUPED's dX, whose group
extents no descriptor gives at issue. -/
def State.prodsAt (s : State) (x : Chk) (df : Nat) : List Prod := s.prodsFor x df false

/-- The partial slabs and merge slabs a command needs at a check, by problem and bytes (R46, R193). -/
def State.slabsOf (s : State) (x : Chk) (ps : List Prod) : List (Nat × Nat) :=
  if x.c.op = 5 then [(0, s.slabBytes { x.c with frames := [] } * (x.c.products % 2))]
  else (ps.map fun p => (p.group, p.slabNeed)).filter fun b => b.2 != 0

/-- The source of a Mosaic step is a long-valued region. -/
def State.longSrc (s : State) (x : Chk) : Bool :=
  x.c.op == 0x10 &&
  match x.opnd 0 0 with
  | some o => match s.regionOf x.c.ctx o.t.base 1 with | some r => r.long | none => false
  | none => false

/-- The check without what is ignored: the workspaces that no slab uses (R46), at both extents that are judged, and the carrier of a
long-valued region (R247). -/
def State.heeded (s : State) (x : Chk) : Chk :=
  let df := (s.flowAt x).getD 0
  let slabs := s.slabsOf x (s.prodsFor x df true ++ s.prodsFor x df false)
  { x with os := x.os.filter fun o => !(x.c.op == 0x10 && o.slot == 1 && s.longSrc x)
      && (!(x.c.isArrayOp && isWs x.c.op o.slot) || x.c.op = 5 || slabs.any fun b => b.1 == o.prob) }

/-- Column coverage of one output slab (R139); none where one slab covers every column. -/
def Prod.cover (p : Prod) : Option Nat :=
  match p.df with
  | 0 => some (p.rw * p.ct)
  | 2 => none
  | _ => some (p.rh * p.rt)

/-! ## Checks 1 to 3 -/

/-- Check 1, ISSUE_OPCODE (R247, R273, R317). -/
def Chk.opcode (x : Chk) : Option Cause :=
  let c := x.c
  if !isOpcode c.op then x.bad 0x0101 ⟨0, 0, 8⟩
  else if c.op = 0x10 && 2 ≤ c.fld 0x40 0 2 then x.bad 0x0101 ⟨0x40, 0, 2⟩
  else if c.op = 0x12 && c.fld 0x40 0 2 = 3 then x.bad 0x0101 ⟨0x40, 0, 2⟩
  else none

/-- A slot of a problem entry that the opcode does not use must be 0 (R311). DESIGN CHOICE (log 180): it is ISSUE_RESERVED, as in
the descriptor itself; R313 gives ISSUE_PACKING to the entry's other contents. -/
def Chk.entrySlots (x : Chk) : Option Cause :=
  firstBad (x.c.probs.map fun p =>
    ((List.range 7).find? fun i => !(slotsOf_ x.c.op x.c.fuse).contains i && bits p.1 ((6 + 6 * i) * 8) 48 != 0).bind fun i =>
      some ⟨0x0102, bits p.1 ((6 + 6 * i) * 8) 48, 15, 6 + 6 * i⟩)

/-- Check 2, ISSUE_RESERVED (R16, R311, R313). An unused slot offends as its pointer field. -/
def Chk.reserved (x : Chk) : Option Cause :=
  let c := x.c
  let slots := slotFields c.op c.fuse c.packed
  let all := (List.range 7).map fun i => (⟨0x16 + 6 * i, 0, 48⟩ : Fld)
  let rest := wipeFields (commonFields ++ all ++ areaFields c.op (c.fld 0x41 3 1 == 1 || c.buckets == 0)) c.raw
  let badSlot := all.find? fun f => !slots.contains f && f.of c.raw != 0
  let own := match badSlot, firstByte 128 rest with
    | some f, some b => if f.off < b then x.bad 0x0102 f else x.bad 0x0102 ⟨b, 0, 8⟩
    | some f, none => x.bad 0x0102 f
    | none, some b => x.bad 0x0102 ⟨b, 0, 8⟩
    | none, none => none
  (own.or x.entrySlots).or (firstBad (x.os.map fun o => (firstByte 64 (tdescReserved o.raw)).bind fun b => o.bad 0x0102 ⟨b, 0, 8⟩))

/-- Check 3, ISSUE_CONTEXT (R242, R265, R301, R310, R322). -/
def State.chkContext (s : State) (x : Chk) : Option Cause :=
  let c := x.c
  let e := s.ctx c.ctx
  let ep := c.fld 0x0C 0 16
  firstBad [
    failIf (c.fld 2 0 16 != c.ctx || !s.ctxExists c.ctx || e.state == .quarantined) (x.bad 0x0103 ⟨2, 0, 16⟩),
    failIf (ep != 0 && !(serialGe 16 s.mode.requested ep && serialGe 16 ep s.mode.applied)) (x.bad 0x0103 ⟨0x0C, 0, 16⟩),
    failIf ((c.op == 0x10 || c.op == 0x11) && e.sendEvery == 0) (x.bad 0x0103 ⟨2, 0, 16⟩),
    failIf (c.op == 0x11 && c.fld 0x40 0 1 == 1 && (e.roundState == .exchange || e.roundState == .closing))
      (x.bad 0x0103 ⟨0x40, 0, 1⟩)]

/-! ## Check 4: addresses -/

/-- The rank owns no rows of the region a Mosaic step or an update concerns (R427). -/
def State.ownsNone (s : State) (x : Chk) : Bool :=
  let rows := match x.c.op with
    | 0x10 => (x.opnd 0 0).map (·.t.rows)
    | 0x12 => (x.opnd 0 4).map (·.t.copyRows)
    | _ => none
  match rows with
  | some n => let (a, b) := shardRows s.rank s.ranks n; b ≤ a
  | none => false

/-- A slot the opcode requires (R247, R263, R273, R311, R427). DESIGN CHOICE (log 149): a SURVEY's DST is required, also where it
names an exponent map. TWIN, MOM2 and the slots of MOSAIC_GATHER are judged by
ISSUE_SHAPE. -/
def State.required (s : State) (x : Chk) (slot : Nat) : Bool :=
  let c := x.c
  match c.op with
  | 5 =>
    let p := c.products
    match slot with
    | 0 | 4 => 2 ≤ p
    | 1 | 3 => p % 2 == 1
    | 2 => true
    | _ => false
  | 0x10 =>
    match slot with
    | 0 => true
    | 1 => c.fld 0x40 0 2 == 0 && !s.longSrc x
    | 3 => c.fld 0x40 0 2 == 1 || !s.ownsNone x
    | _ => false
  | 0x11 => false
  | 0x12 =>
    if c.fld 0x40 2 1 = 1 then slot == 6 || (slot == 0 && (s.normShard c).any fun o => o.1 != 0)
    else match slot with
      | 0 | 1 | 2 => !s.ownsNone x
      | 4 => true
      | 6 => XVal.zero.lt (c.hyper 0x5C)
      | _ => false
  | op => !isWs op slot

/-- Elements of a tensor are 16 B long values (R57, R123, R247, R277). -/
def State.longOpnd (s : State) (x : Chk) (o : Opnd) : Bool :=
  let c := x.c
  match s.regionOf c.ctx o.t.base 1 with
  | some r => r.long && (isDest c.op o.slot || c.op == 0x10)
  | none =>
    (c.fair && c.long && (c.op == 2 || c.op == 4 || c.op == 6) && o.slot == 3)
      || (c.op == 0x10 && o.slot == 3 && c.fld 0x40 0 2 == 0 && s.longSrc x)
      || (c.op == 0x12 && o.slot == 0 && (s.stepOf c).any (·.long))

/-- Dimension 0 of a sparse operand is its reduction (R199). -/
def sparseRed0 (op slot : Nat) (t : TDesc) : Bool :=
  match op, slot with
  | 4, 0 | 2, 2 => true
  | 2, 1 => t.unit != 1
  | _, _ => false

/-- The byte ranges an operand occupies, each with the field that names it (R131, R144, R201, R274). Bases the opcode ignores
are left out. -/
def State.spans (s : State) (x : Chk) (o : Opnd) : List (Fld × Nat × Nat) :=
  let t := o.t
  let eb := t.ebits (s.longOpnd x o)
  let elems :=
    if (x.c.op = 5 && (o.slot ≤ 2 || o.slot = 4)) || (x.c.op = 0x10 && o.slot = 1) then []
    else if isTwo x.c.op o.slot && t.e3 = 2 then
      [(fBase, t.base, (t.copyOf 0).spanLen eb), (fBase, (t.copyOf 1).base, (t.copyOf 1).spanLen eb)]
    else [(fBase, t.base, t.spanLen eb)]
  let scales :=
    if t.mode = 0 || (x.c.op = 0x10 && o.slot = 1) || (x.c.op = 5 && o.slot = 1) then []
    else if x.c.op = 5 && o.slot ≤ 2 then [(fSptr, t.sptr, t.scaleBytes)]
    else [(fSptr, t.sptr, t.scaleCount * t.scaleBytes)]
  let carrier := x.c.op == 0x10 && o.slot == 1
  let zps := if t.zpCount = 0 || carrier then [] else [(fZp, t.zp, t.zpCount)]
  let red0 := sparseRed0 x.c.op o.slot t
  let metas :=
    (if t.sparse = 0 || carrier then [] else [(fZp, t.zp, 16 * (t.panels red0 * t.strips red0))])
      ++ (if t.sparse = 2 && !carrier then [(fZp, t.listAt red0, 8 * t.e3)] else [])
  elems ++ scales ++ zps ++ metas

/-- The ranges a command's own pointer fields name: field, alignment, address, bytes, whether it is written. DESIGN CHOICE (log 182):
of ROWMAP, and of the scale arrays of GP_GROUPED's X and dY, whose lengths follow from entries that are read in their turn, the first
piece alone is judged. -/
def Chk.ownSpans (x : Chk) : List (Fld × Nat × Nat × Nat × Bool) :=
  let c := x.c
  let p := fun off => ptrAt c.raw off
  let map := fun slot => match x.opnd 0 slot with | some o => 2 * o.t.mapCount | none => 2
  let ab := match c.op with
    | 2 | 6 => (2, 1) | 3 | 7 => (0, 2) | _ => (0, 1)
  let arr :=
    if c.isArrayOp && c.op != 5 then
      (if c.packed then [(⟨0x48, 0, 48⟩, 64, p 0x48, 64 * min c.problems 16, false)] else [])
        ++ (if c.buckets = 0 then []
            else (⟨0x50, 0, 48⟩, 64, p 0x50, 16 * min c.buckets 8, false)
              :: (if c.fld 0x41 3 1 = 1 then [] else [(⟨0x68, 0, 48⟩, 16, p 0x68, 16, false)]))
        ++ (if p 0x58 = 0 then [] else [(⟨0x58, 0, 48⟩, 64, p 0x58, map ab.1, false)])
        ++ (if p 0x60 = 0 then [] else [(⟨0x60, 0, 48⟩, 64, p 0x60, map ab.2, false)])
    else []
  match c.op with
  | 5 => [(⟨0x48, 0, 48⟩, 64, p 0x48, 64 * c.groups, false), (⟨0x50, 0, 48⟩, 64, p 0x50, 64, true),
      (⟨0x58, 0, 48⟩, 64, p 0x58, max 1 (cdiv c.tokens 4), true), (⟨0x60, 0, 48⟩, 64, p 0x60, 8 * c.groups, true)]
  | 9 => if p 0x40 = 0 then [] else [(⟨0x40, 0, 48⟩, 64, p 0x40, map 0, true)]
  | 0x11 => [(⟨0x48, 0, 48⟩, 64, p 0x48, 64, true)]
  | 0x12 => if c.fld 0x40 2 1 = 1 then [] else [(⟨0x60, 0, 48⟩, 64, p 0x60, 64, true)]
  | 0x21 => [(⟨0x48, 0, 52⟩, 8, c.fld 0x48 0 52, 8, false)]
  | 0x22 => [(⟨0x48, 0, 52⟩, 8, c.fld 0x48 0 52, 8, true)]
  | _ => arr

/-- Of the failures within one check, the command's own first and then that of the lowest operand slot (R180; log 163). -/
def lowestSlot (l : List (Option Cause)) : Option Cause :=
  let fs := l.filterMap id
  (fs.find? fun f => f.slot == 15).or ((List.range 7).findSome? fun i => fs.find? fun f => f.slot == i)

/-- Check 4, ISSUE_ADDRESS (R131, R142, R144, R182, R189, R201, R311). -/
def State.chkAddress (s : State) (x : Chk) : Option Cause :=
  let c := x.c
  let slots := if x.late || (c.packed && 16 < c.problems) then [] else
    (List.range c.probCount).flatMap fun q => (slotsOf_ c.op c.fuse).map fun i =>
      let a := c.ptrOf q i
      let f : Fld := if c.packed then ⟨6 + 6 * i, 0, 48⟩ else ⟨0x16 + 6 * i, 0, 48⟩
      let cause : Option Cause := some ⟨0x0104, a / 16, 15, f.off⟩
      if a = 0 then failIf (s.required x i) cause
      else if ((c.isArrayOp && isWs c.op i) || (c.op == 0x10 && i == 1 && s.longSrc x)) && !x.os.any (fun o => o.prob == q && o.slot == i)
      then none
      else failIf (a % 64 != 0 || !s.inMap a 64) cause
  let opnd := fun (o : Opnd) =>
    let t := o.t
    -- the base and extents of a carrier are ignored (R247)
    if c.op = 0x10 && o.slot = 1 then none
    else firstBad ([
      failIf (t.mode != 0 && t.sptr % 64 != 0 && !(c.op == 5 && o.slot == 1)) (o.bad 0x0104 fSptr),
      failIf (t.zpCount != 0 && t.zp % 64 != 0) (o.bad 0x0104 fZp),
      failIf (t.sparse != 0 && t.base % 64 != 0) (o.bad 0x0104 fBase),
      failIf (t.sparse != 0 && t.zp % 64 != 0) (o.bad 0x0104 fZp)]
      ++ (s.spans x o).map fun r => failIf (r.2.2 != 0 && !s.inMap r.2.1 r.2.2) (o.bad 0x0104 r.1))
  let own := if x.late then [] else
    (x.ownSpans).map fun r => failIf (r.2.2.1 % r.2.1 != 0 || !s.inMap r.2.2.1 r.2.2.2.1 || (r.2.2.1 == 0 && c.op != 0x21 && c.op != 0x22
      && c.buckets ≤ 8)) (x.bad 0x0104 r.1)
  lowestSlot (slots ++ own ++ (x.os.filter x.judged).map opnd)

/-! ## Checks 5 to 7: formats, rounding, scales -/

/-- A float format of an operand, 0x0 to 0x8 (R90). -/
def isFloatCode (f : Fmt) : Bool := decide (f.code ≤ 8)

/-- Sparse operands are accepted in a slot (R198). -/
def sparseSlot (op slot : Nat) : Bool :=
  match op, slot with
  | 4, 0 | 4, 1 | 2, 1 | 2, 2 | 3, 0 | 3, 2 => true
  | _, _ => false

/-- An operand's format is accepted for its use (R37, R70, R87, R92, R149, R171). ints: both operands of an MM are integer;
spur: an FP32 operand may pass for the Spur. -/
def fmtOk (op slot : Nat) (f : Fmt) (ints spur : Bool) : Bool :=
  let k := f.code
  let int := k == 0x0A || k == 0x0B || k == 0x0C || k == 0x0D
  let array := (1 ≤ k && k ≤ 8) || (k == 0 && spur)
  match op, slot with
  | 4, 0 | 4, 1 => array || (int && ints)
  | 4, 3 => if ints then k == 0 || k == 2 || k == 3 || k == 9 else k ≤ 8
  | 0x10, 1 => k == 2 || k == 4 || k == 5
  | 0x10, _ => k == 0
  | 0x11, _ => k == 2 || k == 4 || k == 5
  | 0x12, 2 | 0x12, 3 => k == 5
  | 0x12, 4 | 0x12, 5 => k == 2 || k == 4 || k == 5
  | 0x12, _ => k == 0
  | 0x18, _ => true
  | 0x19, _ => k ≤ 8 || k == 0x0E || k == 0x0F
  | 9, _ => k ≤ 8 || int
  | 0x0A, _ | 8, _ => k ≤ 8
  | _, _ => if isDest op slot || slot == 6 then k ≤ 8 else array

/-- Elements a packed format groups together (R91). -/
def packGroup (f : Fmt) : Nat := match f.storeBits with | 4 => 2 | 6 => 4 | _ => 1

/-- The extent along the unit stride. -/
def TDesc.unitExt (t : TDesc) : Nat :=
  match t.unit with | 0 => t.e0 | 1 => t.e1 | 2 => t.e2 | _ => t.e3

/-- The kinds of an MM's known inputs in a problem: all that are known are integer; and some is known. Float and integer together
are no pair (R70), and neither is accepted of an integer input then. -/
def Chk.ints (x : Chk) (q : Nat) : Bool × Bool :=
  let known := [0, 1].filterMap fun i => x.opnd q i
  (x.c.op == 4 && !known.isEmpty && known.all (fun o => !isFloatCode o.t.fmt), !known.isEmpty)

/-- Check 5, ISSUE_FORMAT. With a resolved frame among an MM's inputs the pair and the destination are judged again (R70, R164). -/
def State.chkFormat (s : State) (x : Chk) : Option Cause :=
  let c := x.c
  let spur := if x.late then c.run.spur else s.thinAtIssue x
  let again := fun (o : Opnd) => x.late && c.op == 4 && (o.slot == 0 || o.slot == 1 || o.slot == 3)
    && x.os.any fun p => p.prob == o.prob && p.frame != 0
  let fits := fun (o : Opnd) =>
    let (ints, some_) := x.ints o.prob
    fmtOk c.op o.slot o.t.fmt ints spur || (!some_ && c.op == 4 && fmtOk c.op o.slot o.t.fmt true spur)
  lowestSlot ([
    failIf (!x.late && c.op == 8 && c.fair) (x.bad 0x0105 ⟨0x41, 0, 1⟩),
    failIf (c.op == 4 && c.fair && (List.range c.probCount).any fun q => (x.ints q).1) (x.bad 0x0105 ⟨0x41, 0, 1⟩)]
    ++ x.os.map fun o =>
      let t := o.t
      if !x.late && o.frame != 0 then failIf ((TDesc.ofNat o.raw).sparse != 0) (o.bad 0x0105 fSparse)
      else if !(x.judged o || again o) then none
      else if isWs c.op o.slot then failIf (t.sparse != 0) (o.bad 0x0105 fSparse)
      else if t.sparse ≠ 0 && (t.sparse = 3 || !sparseSlot c.op o.slot || !(1 ≤ t.fmt.code && t.fmt.code ≤ 8)) then o.bad 0x0105 fSparse
      -- NORM's format is its shape's concern (R273)
      else if c.op = 0x12 && o.slot = 6 then none
      else if !fits o then o.bad 0x0105 fFmt
      else if t.sparse = 0 && t.unitExt % packGroup t.fmt ≠ 0 then o.bad 0x0105 (fExt t.unit)
      else none)

/-- Check 6, ISSUE_CONVERT (R98), at issue also of a destination that names a frame (R164). -/
def Chk.convert (x : Chk) : Option Cause :=
  if x.late then none
  else firstBad (x.os.map fun o =>
    failIf (((x.c.writes o.slot && !isWs x.c.op o.slot) || (x.c.op == 0x10 && o.slot == 1)) && o.t.round == 3)
      (o.bad 0x0106 fRound))

/-- The scale modes of R48, R189 and R426 for a source of an array opcode: accepted with scales of E8M0 only in the second
component. -/
def sourceModes (op slot : Nat) (t : TDesc) : List Nat × List Nat :=
  match op, slot with
  | 1, 0 | 3, 0 | 7, 0 | 1, 2 => ([0, 5], [1])
  | 2, 2 => ([0, 1, 2, 3, 4], [])
  | 6, 2 => ([0], [])
  | 3, 2 | 7, 2 | 5, 0 | 5, 2 => ([0], [1])
  | 5, 1 => ([0, 5], [])
  | 1, 1 | 2, 1 | 6, 1 => if t.wTransposed then ([0, 5], []) else ([0, 2, 3, 4], [])
  | 4, 1 => ([0, 5], [1])
  | 4, 0 | 8, _ => ([0, 1, 2, 3, 4, 5], [])
  | _, _ => ([0, 1, 2, 3, 4, 5], [])

/-- The modes and scale formats of the narrow tensors of a round (R149). -/
def narrowOk (op slot : Nat) (t : TDesc) : Bool :=
  match op, slot with
  | 0x10, 1 => ((t.mode == 1 && decide (t.sfmt < 2)) || (t.mode == 0 && t.fmt == .bf16))
  | 0x12, 6 => true
  | 0x12, 2 | 0x12, 3 => t.mode == 1 && decide (t.sfmt < 2)
  | 0x11, _ | 0x12, 4 | 0x12, 5 => if t.fmt == .bf16 then t.mode == 0 else t.mode == 5 && decide (t.sfmt < 2)
  | _, _ => t.mode == 0

/-- A narrow tensor that may not name SCALE_SRC GIVEN: the moments, and the carrier of MOSAIC_STEP (R149). -/
def givenBarred (op slot : Nat) : Bool := (op == 0x10 && slot == 1) || (op == 0x12 && (slot == 2 || slot == 3))

/-- A destination's scaling at its survey point (R92, R132, R133, R137, R139, R145). cover: the column coverage its product
must meet. DESIGN CHOICE: a scale mode is accepted, and no scales are written, of FILL's destination (log 186) and of a destination
that lies in a region or is written as raw long values (log 187). -/
def destScale (op : Nat) (o : Opnd) (given : Bool) (cover : Option Nat) : Option Cause :=
  let t := o.t
  let mx := op == 0x18 && t.fmt == .int8 && 2 ≤ t.mode && t.mode ≤ 4 && t.sfmt == 0
  if t.mode = 0 || op = 0x19 then none
  else if t.fmt == .int32 || t.fmt == .e8m0 || t.fmt == .ue4m3 then o.bad 0x0107 fMode
  else if !isFloatCode t.fmt && t.mode ≠ 1 && !mx then o.bad 0x0107 fMode
  else if op = 0x18 && t.mode = 5 then o.bad 0x0107 fMode
  else if given then none
  else match cover with
    | some w => failIf (decide (w < t.e0) && (t.mode == 1 || (t.mode != 5 && w % t.gcols != 0))) (o.bad 0x0107 fMode)
    | none => none

/-- Check 7, ISSUE_SCALE. The encodings R130 and R132 reject are rejected whatever the mode; a Fair command reads scales of E8M0
only, a destination's that are GIVEN among them. -/
def Chk.scale (x : Chk) (ps : List Prod) : Option Cause :=
  let c := x.c
  let given := fun (o : Opnd) => o.t.given (bits x.sw 7 1 == 1 && c.op != 9)
  x.each fun o =>
    let t := o.t
    let dest := c.writes o.slot || (c.op == 0x10 && o.slot == 1)
    let covers := ps.filterMap fun p => match p.dst with
      | .plain d => if o.slot = 3 && d.base = t.base then p.cover else none
      | _ => none
    let cover := covers.foldl (fun (a : Option Nat) w => match a with | some v => some (min v w) | none => some w) none
    if 6 ≤ t.mode then o.bad 0x0107 fMode
    else if t.sfmt = 3 then o.bad 0x0107 fSfmt
    else if dest && t.src = 3 then o.bad 0x0107 fSrc
    else if isWs c.op o.slot then none
    else if t.sfmt = 2 && !(dest && t.mode == 1) then o.bad 0x0107 fSfmt
    else if t.sfmt = 2 && t.src = 2 then o.bad 0x0107 fSrc
    else if 0x10 ≤ c.op && c.op ≤ 0x12 then
      if !narrowOk c.op o.slot t then o.bad 0x0107 fMode
      else if givenBarred c.op o.slot && t.src == 2 then o.bad 0x0107 fSrc
      else if c.op = 0x10 && o.slot = 1 && t.mode = 1 then
        failIf (match x.opnd 0 0 with | some r => decide (16384 < r.t.e0) | none => false) (o.bad 0x0107 fMode)
      else none
    else if c.fair && (!dest || given o) && t.mode ≠ 0 && t.sfmt ≠ 0 then o.bad 0x0107 fSfmt
    else if dest then destScale c.op o (given o) cover
    else if t.mode = 0 then none
    else if t.sparse ≠ 0 && t.mode ≠ 1 && t.mode ≠ 5 then o.bad 0x0107 fMode
    else if c.isArrayOp && o.slot ≠ 6 then
      let (a, b) := sourceModes c.op o.slot t
      if isFloatCode t.fmt then
        (if a.contains t.mode then none
         else if b.contains t.mode then failIf (t.sfmt != 0) (o.bad 0x0107 fSfmt)
         else o.bad 0x0107 fMode)
      else
        let c32 := match x.opnd o.prob 3 with | some d => d.t.fmt == .int32 | none => false
        failIf (t.mode != 1 || o.slot == 1 || c32) (o.bad 0x0107 fMode)
    else
      let mx := c.op == 0x18 && t.fmt == .int8 && 2 ≤ t.mode && t.mode ≤ 4 && t.sfmt == 0
      failIf (!isFloatCode t.fmt && t.fmt != .e8m0 && t.fmt != .ue4m3 && t.mode != 1 && !mx) (o.bad 0x0107 fMode)

/-! ## Check 8: shapes -/

/-- Operand extents against the letters of R35, in each problem. -/
def Chk.letters (x : Chk) (o : Opnd) : Option Cause :=
  match dimLetters x.c.op o.slot o.t with
  | none => none
  | some (r, k) =>
    if x.c.op = 5 then
      -- the row counts of X and dY come from the entries (R189)
      let rowsOk := o.slot == 0 || o.slot == 2 || (x.letter o.prob r).all (· == o.t.e1)
      if !rowsOk then o.bad 0x0108 (fExt 1) else failIf (!(x.letter o.prob k).all (· == o.t.e0)) (o.bad 0x0108 (fExt 0))
    else if !(x.letter o.prob r).all (· == o.t.e1) then o.bad 0x0108 (fExt 1)
    else failIf (!(x.letter o.prob k).all (· == o.t.e0)) (o.bad 0x0108 (fExt 0))

/-- The extents a tensor must have: 1 or more; 2 in dimension 3 of a two-copy operand; 1 beyond two dimensions for a matrix;
as R200 states for a sparse operand. DESIGN CHOICE (log 201): a STRIDE2, STRIDE3 or, under BSB, LIST_ENTRIES that R200 wants 0 is rejected with
ISSUE_SHAPE, for which no rule names a code. DESIGN CHOICE (log 206): two copies overlap where the span of one reaches the other's base,
whether or not they share a byte. -/
def Chk.extents (x : Chk) (o : Opnd) : Option Cause :=
  let t := o.t
  let op := x.c.op
  let matrix := (x.c.isArrayOp && op != 6 && op != 7) && !isWs op o.slot
  if t.sparse ≠ 0 then
    firstBad [failIf (t.e0 == 0) (o.bad 0x0108 (fExt 0)), failIf (t.e1 == 0) (o.bad 0x0108 (fExt 1)),
      failIf (t.sparse == 1 && t.e3 != 0) (o.bad 0x0108 (fExt 3)), failIf (t.s2 != 0) (o.bad 0x0108 (fStride 2)),
      failIf (t.s3 != 0) (o.bad 0x0108 (fStride 3))]
  else if op = 0x10 && o.slot = 1 then none
  else
    let two := isTwo op o.slot
    firstBad [failIf (t.e0 == 0) (o.bad 0x0108 (fExt 0)),
      failIf (t.e1 == 0 && !(op == 5 && (o.slot == 0 || o.slot == 2))) (o.bad 0x0108 (fExt 1)),
      failIf (t.e2 == 0 || (matrix && t.e2 != 1)) (o.bad 0x0108 (fExt 2)),
      failIf (t.e3 == 0 || (matrix && t.e3 != 1) || (two && t.e3 != 2)) (o.bad 0x0108 (fExt 3)),
      failIf (two && t.e3 == 2 && decide (t.s3 < (t.copyOf 0).spanLen t.fmt.storeBits)) (o.bad 0x0108 (fStride 3))]

/-- The output size of a convolution along one axis (R65); none where the kernel does not fit. -/
def convOut (h p0 p1 d k st : Nat) : Option Nat :=
  if d * (k - 1) + 1 ≤ h + p0 + p1 then some ((h + p0 + p1 - (d * (k - 1) + 1)) / st + 1) else none

/-- The shapes of one problem of a convolution (R65). -/
def Chk.convProb (x : Chk) (q : Nat) : Option Cause :=
  let v := x.c.conv
  let act := if x.c.op = 6 then 3 else 0
  let wt := if x.c.op = 6 then 1 else 4
  match x.opnd q act, x.opnd q wt, x.opnd q 2 with
  | some a, some w, some y =>
    firstBad [
      failIf (w.t.e0 != y.t.e0) (w.bad 0x0108 (fExt 0)),
      failIf (w.t.e1 != a.t.e0) (w.bad 0x0108 (fExt 1)),
      failIf (w.t.e2 != v.kw) (w.bad 0x0108 (fExt 2)),
      failIf (w.t.e3 != v.kh) (w.bad 0x0108 (fExt 3)),
      failIf (convOut a.t.e1 v.pl v.pr v.dw v.kw v.sw != some y.t.e1) (y.bad 0x0108 (fExt 1)),
      failIf (convOut a.t.e2 v.pt v.pb v.dh v.kh v.sh != some y.t.e2) (y.bad 0x0108 (fExt 2)),
      failIf (y.t.e3 != a.t.e3) (y.bad 0x0108 (fExt 3)),
      match x.opnd q 6 with
      | some sv => failIf ((sv.t.e0 != a.t.e0 || sv.t.e1 != a.t.e1 || sv.t.e2 != a.t.e2 || sv.t.e3 != a.t.e3))
          (sv.bad 0x0108 (fExt 0))
      | none => none]
  | _, _, _ => none

/-- The shapes of a convolution, of every problem of a packed one (R65, R79). -/
def Chk.convShape (x : Chk) : Option Cause :=
  let v := x.c.conv
  firstBad (failIf (decide (16 < v.sh * v.sw)) (x.bad 0x0108 ⟨0x68, 8, 6⟩) :: (List.range x.c.probCount).map x.convProb)

/-- Equal extents of the operands of SURVEY, DERIV and COPY (R140, R171, R317), and their row limits (R138, R173). The
slots are examined in ascending order (R180), so the operand that disagrees with an earlier one is named. -/
def Chk.rowShape (x : Chk) : Option Cause :=
  let known := x.os.filter fun o => x.known o
  firstBad [
    match known with
    | [] => none
    | d :: rest => firstBad (rest.map fun o =>
        firstBad [failIf (o.t.e0 != d.t.e0) (o.bad 0x0108 (fExt 0)), failIf (o.t.e1 != d.t.e1) (o.bad 0x0108 (fExt 1)),
          failIf (o.t.e2 != d.t.e2) (o.bad 0x0108 (fExt 2)), failIf (o.t.e3 != d.t.e3) (o.bad 0x0108 (fExt 3))]),
    match x.opnd 0 3 with
    | none => none
    | some d => firstBad ((known.filter fun o => o.slot != 3).map fun o =>
        failIf (x.c.op == 0x18 && d.t.mode == 1 && !d.t.given (bits x.sw 7 1 == 1)
          && decide (65536 < cdiv (o.t.e0 * o.t.fmt.storeBits) 8)) (o.bad 0x0108 (fExt 0)))]

/-- The shapes of MOSAIC_STEP (R247, R266, R427). -/
def State.stepShape (s : State) (x : Chk) : Option Cause :=
  let c := x.c
  let e := s.ctx c.ctx
  if c.fld 0x40 0 2 = 0 then
    firstBad [
      failIf (c.fld 0x40 2 2 == 3) (x.bad 0x0108 ⟨0x40, 2, 2⟩),
      failIf (decide (5 < c.fld 0x40 4 3)) (x.bad 0x0108 ⟨0x40, 4, 3⟩),
      failIf (decide (e.roundSteps ≤ c.fld 0x42 0 16)) (x.bad 0x0108 ⟨0x42, 0, 16⟩),
      failIf (c.fld 0x44 0 16 != e.roundSteps) (x.bad 0x0108 ⟨0x44, 0, 16⟩),
      match x.opnd 0 0, x.opnd 0 3 with
      | some r, some d =>
        let (a, b) := shardRows s.rank s.ranks r.t.rows
        if b ≤ a then none
        else if d.t.rows ≠ b - a then d.bad 0x0108 (fExt 1) else failIf (d.t.e0 != r.t.e0) (d.bad 0x0108 (fExt 0))
      | _, _ => none,
      match x.opnd 0 0, x.opnd 0 4 with
      | some r, some d =>
        if d.t.rows ≠ r.t.rows then d.bad 0x0108 (fExt 1) else failIf (d.t.e0 != r.t.e0) (d.bad 0x0108 (fExt 0))
      | _, _ => none,
      match x.opnd 0 0, x.opnd 0 5 with
      | some r, some d =>
        if d.t.rows ≠ r.t.rows + r.t.e0 then d.bad 0x0108 (fExt 1) else failIf (d.t.e0 != 64) (d.bad 0x0108 (fExt 0))
      | _, _ => none]
  else
    let n := fun (o : Opnd) => o.t.e0 * o.t.e1 * o.t.e2 * o.t.e3
    firstBad ([
      failIf (c.fld 0x40 2 2 != 0) (x.bad 0x0108 ⟨0x40, 2, 2⟩),
      failIf (c.fld 0x40 4 3 != 0) (x.bad 0x0108 ⟨0x40, 4, 3⟩),
      failIf (c.fld 0x42 0 16 != 0) (x.bad 0x0108 ⟨0x42, 0, 16⟩),
      failIf (c.fld 0x44 0 16 != 0) (x.bad 0x0108 ⟨0x44, 0, 16⟩)]
      ++ ([1, 4, 5].map fun i => failIf (c.slotPtr i != 0) (x.bad 0x0108 ⟨0x16 + 6 * i, 0, 48⟩))
      ++ [match x.opnd 0 0 with
        | some r => failIf (n r == 0 || decide (16 < n r)) (r.bad 0x0108 (fExt 0))
        | none => none,
        match x.opnd 0 0, x.opnd 0 3 with
        | some r, some d => failIf (n d != n r) (d.bad 0x0108 (fExt 0))
        | _, _ => none])

/-- FP32 hyperparameters of a SHARD_UPDATE with their ranges (R273). -/
def hyperOk (off : Nat) (opt v : Nat) : Bool :=
  let x := Fmt.fp32.decode v
  let nonneg := fun (x : XVal) => !x.lt XVal.zero
  match off with
  | 0x44 | 0x48 | 0x5C => x.isFin && nonneg x
  | 0x4C | 0x50 => x.isFin && nonneg x && x.lt XVal.one
  | 0x54 => opt != 0 || (x.isFin && XVal.zero.lt x)
  | _ => x.isFin

/-- What the engine knows of the last MOSAIC_STEP of a layer before a command in its context's sequence (R307): one that still waits,
one of the present round, one of the last sealed round, or none. -/
inductive LastStep
  | waits
  | now
  | sealed (t : StepRec)
  | none
  deriving DecidableEq, Repr, Inhabited

/-- The last step before a command, with its sequence number: one of the sealed round only where that round's seal has overtaken the
command (R276). -/
def State.lastStep (s : State) (c : Cmd) : Nat × LastStep :=
  let idx := c.fld 0x42 0 16
  let x := (s.rt c.ctx).stream
  let all := ((s.cmds.filter fun y => y.isStep && y.waiting && y.cause.isNone && y.ctx == c.ctx && y.fld 0x42 0 16 == idx).map fun y => (y.seq, LastStep.waits))
    ++ (x.steps.filter fun t => t.idx == idx).map (fun t => (t.seq, LastStep.now))
    ++ (x.past.filter fun t => t.idx == idx && decide (c.seq < x.sealSeq)).map (fun t => (t.seq, LastStep.sealed t))
  (all.filter fun p => p.1 < c.seq).foldl (fun a p => if a.2 = LastStep.none || a.1 < p.1 then p else a) (0, LastStep.none)

/-- A second APPLY of a layer in one round (R276), as far as the engine knows the commands before it: those of the layer that wait,
with no step between, take the rounds that are still without their update, one each; an aborted update is its round's (log 52). -/
def State.second (s : State) (c : Cmd) : Bool :=
  let idx := c.fld 0x42 0 16
  let x := (s.rt c.ctx).stream
  let now := if x.updates.any fun u => u.idx == idx && u.round == (s.ctx c.ctx).round then 0 else 1
  let (from_, last) := s.lastStep c
  let from_ := if last = .none && decide (x.sealSeq ≤ c.seq) then x.sealSeq - 1 else from_
  let rounds := match last with
    | .waits => 1
    | .now => now
    | .sealed t => now + (if t.used.isSome then 0 else 1)
    | .none => now
  let ahead := s.cmds.filter fun y => y.isApply && y.phase == .issued && y.cause.isNone && y.ctx == c.ctx && y.fld 0x42 0 16 == idx
    && decide (from_ < y.seq) && decide (y.seq < c.seq)
  decide (rounds ≤ ahead.length)

/-- A second APPLY is rejected at issue where every earlier command of its context has been accepted; otherwise a step may stand among
those that have not, and the command is judged when it begins (R276, R307; log 189). -/
def State.twice (s : State) (c : Cmd) : Bool :=
  !(s.cmqs.any fun e => e.2.ctx == c.ctx && e.2.nums.any fun n => decide (n < c.seq)) && s.second c

/-- The shapes of SHARD_UPDATE (R273, R274, R276, R427). -/
def State.updShape (s : State) (x : Chk) : Option Cause :=
  let c := x.c
  let idx := c.fld 0x42 0 16
  let opt := c.fld 0x40 0 2
  let small := !s.build.size.projection
  let hyper := fun o => failIf (!hyperOk o opt (c.fld o 0 32)) (x.bad 0x0108 ⟨o, 0, 32⟩)
  let norm := match x.opnd 0 6 with
    | some o => firstBad [
        failIf (o.t.fmt != .fp32) (o.bad 0x0108 fFmt),
        failIf (o.t.mode != 0) (o.bad 0x0108 fMode),
        failIf (s.regionOf c.ctx o.t.base (o.t.spanLen o.t.fmt.storeBits)).isSome (o.bad 0x0108 fBase),
        failIf (o.t.e0 * o.t.e1 * o.t.e2 * o.t.e3 != 2) (o.bad 0x0108 (fExt 0))]
    | none => none
  let stepBad := failIf (decide ((s.ctx c.ctx).roundSteps ≤ idx)) (x.bad 0x0108 ⟨0x42, 0, 16⟩)
  let shard := fun (own : Nat × Nat) slot => match x.opnd 0 slot with
    | some o =>
      if own.1 = 0 then none
      else if o.t.e1 * o.t.e2 * (if isTwo c.op slot then 1 else o.t.e3) ≠ own.1 then o.bad 0x0108 (fExt 1)
      else failIf (o.t.e0 != own.2) (o.bad 0x0108 (fExt 0))
    | none => none
  if c.fld 0x40 2 1 = 1 then
    firstBad ([stepBad, hyper 0x58] ++ [match s.normShard c with | some own => shard own 0 | none => none]
      ++ ([1, 2, 3, 4, 5].map fun i => failIf (c.slotPtr i != 0) (x.bad 0x0108 ⟨0x16 + 6 * i, 0, 48⟩)) ++ [norm])
  else
    let own := match x.opnd 0 4 with
      | some w => let (a, b) := shardRows s.rank s.ranks w.t.copyRows; (b - a, w.t.e0)
      | none => (0, 0)
    firstBad ([stepBad] ++ ([0x44, 0x48, 0x4C, 0x50, 0x54, 0x58, 0x5C].map hyper)
      ++ [failIf ((c.slotPtr 3 != 0 && opt != 0) || (c.slotPtr 3 == 0 && opt == 0 && own.1 != 0)) (x.bad 0x0108 ⟨0x16 + 18, 0, 48⟩),
        failIf ((c.slotPtr 5 != 0) != small) (x.bad 0x0108 ⟨0x16 + 30, 0, 48⟩),
        shard own 0, shard own 1, shard own 2, shard own 3, norm, failIf (s.twice c) (x.bad 0x0108 ⟨0x42, 0, 16⟩)])

/-- Check 8, ISSUE_SHAPE. -/
def State.chkShape (s : State) (x : Chk) (ps : List Prod) : Option Cause :=
  let c := x.c
  let small := !s.build.size.projection
  let fn6 := (c.op == 0x0A || c.fuse) && c.fn == 6
  lowestSlot ([
    failIf (decide (16 < c.fld 0x0E 0 5)) (x.bad 0x0108 ⟨0x0E, 0, 5⟩)]
    ++ (x.os.map fun o =>
      (failIf (o.frame == 3 || (o.frame != 0 && !frameSlot c.op o.slot)) (o.bad 0x0108 fFrame)).or
        (if x.judged o then (x.extents o).or (x.letters o) else none))
    ++ [if c.op = 6 || c.op = 7 then x.convShape else none,
    if c.op = 9 || c.op = 0x0A || c.op = 0x18 then x.rowShape else none,
    x.each fun o => failIf (fn6 && o.slot == 3 && decide (65536 < o.t.e0)) (o.bad 0x0108 (fExt 0)),
    x.each fun o => failIf (c.op == 5 && o.slot == 3 && o.t.e1 != c.tokens) (o.bad 0x0108 (fExt 1)),
    x.each fun o => failIf (c.op == 5 && o.slot == 3 && (match x.opnd 0 1 with | some w => w.t.e1 != o.t.e0 | none => false))
      (o.bad 0x0108 (fExt 0)),
    failIf ((c.op == 0x20 || c.op == 0x22 || c.op == 0x0B) && c.fld 0x40 0 2 == 3) (x.bad 0x0108 ⟨0x40, 0, 2⟩),
    failIf (c.op == 0x23 && c.fld 0x40 12 2 == 3) (x.bad 0x0108 ⟨0x40, 12, 2⟩),
    if c.op = 0x10 then s.stepShape x else none,
    if c.op = 0x12 then s.updShape x else none,
    failIf (c.op == 0x11 && c.slotPtr 3 == 0) (x.bad 0x0108 ⟨0x16 + 18, 0, 48⟩),
    failIf (c.op == 0x11 && (c.slotPtr 4 != 0) != small) (x.bad 0x0108 ⟨0x16 + 24, 0, 48⟩),
    failIf (ps.any fun p => decide (0xFFFFFF00 < cdiv p.ekr p.len)) (x.bad 0x0108 ⟨0, 0, 8⟩)])

/-! ## Checks 9 to 13: dataflow, transposition, buckets, shapes, packing -/

/-- Check 10, ISSUE_TRANSPOSE (R55). -/
def State.chkTranspose (s : State) (x : Chk) (df : Nat) : Option Cause :=
  let c := x.c
  if !c.isArrayOp || s.build.size.projection || df = 3 then none
  else x.each fun o =>
    let out := o.slot == 3 || o.slot == 4
    failIf ((stationary c.op df == some o.slot && o.transposed c.op) || (out && o.t.unit != 0)) (o.bad 0x010A fUnit)

/-- Check 11, ISSUE_BUCKET (R182, R312). DESIGN CHOICE (log 199): an entry with reserved bits set is rejected with this code, which R182 does not
list among its cases. -/
def State.chkBucket (s : State) (x : Chk) : Option Cause :=
  let c := x.c
  let n := c.fld 0x41 4 4
  if !c.isArrayOp || n = 0 then none
  else if 8 < n || c.packed || c.op = 5 || c.op = 6 || c.op = 7 then x.bad 0x010B ⟨0x41, 4, 4⟩
  else
    let es := s.bucketList c
    let exts := es.map bucketExt
    let rising := (List.range (es.length - 1)).all fun i =>
      let a := exts.getD i (0, 0, 0)
      let b := exts.getD (i + 1) (0, 0, 0)
      decide (a.1 ≤ b.1) && decide (a.2.1 ≤ b.2.1) && decide (a.2.2 ≤ b.2.2)
    let last := exts.getLast?.getD (0, 0, 0)
    let within_ := (x.letter 0 0).all (fun m => last.1 ≤ m) && (x.letter 0 1).all (fun k => last.2.1 ≤ k)
      && (x.letter 0 2).all (fun n => last.2.2 ≤ n)
    let shapes := es.all fun e =>
      let r := bits e 96 5
      let t := bits e 101 5
      (r == 0) == (t == 0) && (r == 0 || c.dataflow != 0 || c.op == 1) && bits e 106 22 == 0
    failIf (!rising || !within_ || !shapes) (x.bad 0x010B ⟨0x50, 0, 48⟩)

/-- The kind of tile shape a dataflow takes (R40, R176). -/
def shapeKind (op df : Nat) : Nat := if op = 1 then 3 else df

/-- Check 12, ISSUE_TILE (R176, R177, R182). -/
def State.chkTile (s : State) (x : Chk) (df : Nat) (ps : List Prod) : Option Cause :=
  let c := x.c
  if !c.isArrayOp || df = 3 || c.op = 5 then none
  else
    let w := match x.opnd 0 1 with | some o => o.t.fmt.storeBits | none => 4
    let legal := fun (p : Prod) (sh : Nat × Nat) =>
      legalShape (shapeKind c.op df) c.fair sh.1 sh.2 p.a.t.fmt.storeBits p.b.t.fmt.storeBits w
    let p := ps.getLast?
    let fixedOk := (s.bucketList c).all fun e => match fixedShape e, p with
      | some sh, some p => legal p sh
      | _, _ => true
    let any := ps.all fun p => legal p (32, 32)
    firstBad [failIf (!fixedOk) (x.bad 0x010C ⟨0x50, 0, 48⟩), failIf (!any) (x.bad 0x010C ⟨0x40, 0, 2⟩)]

/-- Two rectangles of tiles overlap. -/
def rectsMeet (a b : Nat) : Bool :=
  let f := fun (e i : Nat) => bits e (8 * i) 8
  decide (f a 0 < f b 0 + f b 2) && decide (f b 0 < f a 0 + f a 2) && decide (f a 1 < f b 1 + f b 3) && decide (f b 1 < f a 1 + f a 3)

/-- Check 13, ISSUE_PACKING (R24, R79, R312, R313). DESIGN CHOICE (log 183): R24 packs array operations, and PROBLEMS other than 0 on
a MATVEC, which runs on the Spur, is rejected here. -/
def State.chkPacking (s : State) (x : Chk) : Option Cause :=
  let c := x.c
  if !c.packed then none
  else if 16 < c.problems || c.op = 6 || c.op = 8 then x.bad 0x010D ⟨0x4E, 0, 8⟩
  else
    let (h, w) := s.arrDims (s.arrOfQueue c.id.q)
    let es := c.probs.map (·.1)
    let f := fun (e i : Nat) => bits e (8 * i) 8
    let okRect := es.all fun e => f e 2 != 0 && f e 3 != 0 && decide (f e 0 + f e 2 ≤ h) && decide (f e 1 + f e 3 ≤ w)
    let apart := (List.range es.length).all fun i => (List.range i).all fun j => !rectsMeet (es.getD i 0) (es.getD j 0)
    let resv := es.all fun e => bits e 32 16 == 0 && bits e 0x180 128 == 0
    let like := x.os.all fun o => x.os.all fun p =>
      o.slot != p.slot || isWs c.op o.slot || !x.known o || !x.known p || (o.t.fmt == p.t.fmt && o.t.mode == p.t.mode)
    failIf (!okRect || !apart || !resv || !like) (x.bad 0x010D ⟨0x48, 0, 48⟩)

/-! ## Checks 14 to 19 -/

/-- The destinations of an array command that drains (R57). -/
def isOut (op slot : Nat) : Bool := (1 ≤ op && op ≤ 8) && (slot == 3 || slot == 4)

/-- The region an operand names (R57, R319). -/
def State.opndRegion (s : State) (x : Chk) (o : Opnd) : Option Region :=
  let c := x.c
  let eb := o.t.ebits (s.longOpnd x o)
  let may := match c.op with
    | 1 => o.slot == 4
    | 2 | 3 | 4 | 6 | 7 | 8 => o.slot == 3 || o.slot == 4
    | 0x10 => o.slot == 0 || o.slot == 4 || o.slot == 5
    | 0x19 => true
    | _ => false
  if may then s.regionOf c.ctx o.t.base (o.t.spanLen eb) else none

/-- The region an operand's elements lie in, whatever its use (R57, R315). -/
def State.liesIn (s : State) (x : Chk) (o : Opnd) : Option Region :=
  s.regionOf x.c.ctx o.t.base (o.t.spanLen (o.t.ebits (s.longOpnd x o)))

/-- Check 14, ISSUE_REGION (R57, R58, R62, R247, R251, R315, R319). Every destination that lies in a region names FP32, and every
operand that lies in one its SHADOW; the dW of GP_GROUPED lies in regions by its entries (R189), which are judged in their turn. -/
def State.chkRegion (s : State) (x : Chk) : Option Cause :=
  let c := x.c
  let send2 := c.op == 0x10 && c.fld 0x40 0 2 == 0 && c.fld 0x40 2 2 == 2
  let early := firstBad [
    failIf (send2 && s.longSrc x) (match x.opnd 0 0 with | some o => o.bad 0x010E fBase | none => none),
    failIf (send2 && c.slotPtr 4 == 0) (x.bad 0x010E ⟨0x16 + 24, 0, 48⟩),
    failIf (send2 && c.slotPtr 5 == 0) (x.bad 0x010E ⟨0x16 + 30, 0, 48⟩)]
  early.or (firstBad (x.os.map fun o =>
    -- a frame lies in no region (R163, R164; log 33)
    if o.frame ≠ 0 then failIf o.t.shadow (o.bad 0x010E fShadow)
    else if c.op = 5 && o.slot ≠ 3 then failIf (o.slot == 4 && o.t.fmt != .fp32) (o.bad 0x010E fFmt)
    else if isWs c.op o.slot || (c.op = 0x10 && o.slot = 1) then none
    else
      let t := o.t
      let r := s.opndRegion x o
      let must := (isOut c.op o.slot && o.slot == 4) || (c.op == 0x10 && c.fld 0x40 0 2 == 0 && o.slot != 1 && o.slot != 3)
      match r with
      | none =>
        if must then o.bad 0x010E fBase
        else match s.liesIn x o with
          | none => failIf t.shadow (o.bad 0x010E fShadow)
          | some r => if isDest c.op o.slot && t.fmt != .fp32 then o.bad 0x010E fFmt else failIf (t.shadow != r.shadow) (o.bad 0x010E fShadow)
      | some r =>
        if c.op = 0x10 && c.fld 0x40 0 2 = 1 then failIf (o.slot == 0) (o.bad 0x010E fBase)
        else if c.op = 0x10 && o.slot ≠ 0 then
          if !r.shadow || r.long || r.torn then o.bad 0x010E fBase else failIf (!t.shadow) (o.bad 0x010E fShadow)
        else if r.torn && c.op ≠ 0x19 then o.bad 0x010E fBase
        else if t.fmt != .fp32 then o.bad 0x010E fFmt
        else if isOut c.op o.slot && r.long != (c.fair && c.long) then o.bad 0x010E fFmt
        else if t.shadow != r.shadow then o.bad 0x010E fShadow
        else failIf (r.shadow && isOut c.op o.slot && !r.coveredBy t (t.ebits r.long)) (o.bad 0x010E fBase)))

/-- A share of the MAP reservation in bytes (R218). -/
def State.mapShare (s : State) : Nat :=
  match s.lgd.inForce with | some l => l.map * 1048576 / max 1 s.arrays.length | none => 0

/-- A fused anchor survey is needed (R118, R143): a Fair command with a destination under SURVEY and no maps named. -/
def State.fusedAnchor (s : State) (x : Chk) : Bool :=
  let c := x.c
  c.fair && c.op != 5 && c.anchorSrc != 1 && ptrAt c.raw 0x58 == 0 && ptrAt c.raw 0x60 == 0
    && x.os.any fun o => isOut c.op o.slot && !(s.opndRegion x o).any (·.long)

/-- One slab, by problem and bytes, placed in what is left of the share, else in its problem's workspace; the first
component says whether all have fitted (R46, R218). -/
def placeSlab (ws : Nat → Nat) (a : Bool × Nat × List (Nat × Nat)) (p : Nat × Nat) : Bool × Nat × List (Nat × Nat) :=
  if p.2 ≤ a.2.1 then (a.1, a.2.1 - p.2, a.2.2)
  else
    let used := ((a.2.2.filter fun u => u.1 == p.1).map (·.2)).sum
    (a.1 && decide (used + p.2 ≤ ws p.1), a.2.1, a.2.2 ++ [p])

/-- Check 15, ISSUE_SCRATCH (R46, R143, R180, R193, R218), at the allocated extents and at the largest bucket: slabs take scratch in order while the share holds them, else their
problem's workspace. -/
def State.chkScratch (s : State) (x : Chk) (df : Nat) (ps : List Prod) : Option Cause :=
  let c := x.c
  if !c.isArrayOp || df = 3 then none
  else
    let wsOf : Nat → Nat := fun q => match x.os.find? fun o => o.prob == q && o.slot == 5 with
      | some o => o.t.spanLen o.t.fmt.storeBits
      | none => 0
    let cause := x.bad 0x010F ⟨0x16 + 30, 0, 48⟩
    let fits := fun ps => ((s.slabsOf x ps).foldl (placeSlab wsOf) (true, s.pairShare, [])).1
    let whole := if c.buckets = 0 then ps else s.prodsFor x df true
    let maps := (x.os.filter fun o => !isDest c.op o.slot && o.slot != 6 && x.known o).foldl (fun n o => n + 2 * o.t.mapCount) 0
    firstBad [failIf (!fits ps || !fits whole) cause, failIf (s.fusedAnchor x && decide (s.mapShare < maps)) (x.bad 0x010F ⟨0x58, 0, 48⟩)]

/-- Check 16, ISSUE_OVERLAP (R141): a written range overlaps another written range or a read one. -/
def State.chkOverlap (s : State) (x : Chk) : Option Cause :=
  let c := x.c
  let all := (x.os.filter x.known).flatMap fun o =>
    (s.spans x o).map fun r => ((o.prob, o.slot, r.1), (r.2.1, r.2.2), isDest c.op o.slot && !(c.op == 0x12 && o.slot == 0), some o)
  let own := (x.ownSpans).map fun r => ((99, 99, r.1), (r.2.2.1, r.2.2.2.1), r.2.2.2.2, (none : Option Opnd))
  let norm := if c.op = 0x12 && c.fld 0x40 2 1 = 1 then [6] else []
  let rs := (all.map fun r => (r.1, r.2.1, r.2.2.1 || norm.contains r.1.2.1, r.2.2.2)) ++ own
  let n := rs.length
  firstBad ((List.range n).map fun i =>
    match rs[i]? with
    | none => none
    | some a =>
      if !a.2.2.1 then none
      else
        let hit := (List.range n).any fun j => j != i && (match rs[j]? with | some b => overlaps a.2.1 b.2.1 | none => false)
        match a.2.2.2 with
        | some o => failIf hit (o.bad 0x0110 a.1.2.2)
        | none => failIf hit (x.bad 0x0110 a.1.2.2))

/-- Check 17, ISSUE_ANCHOR (R57, R118, R123, R143, R195, R208, R312, R319). -/
def State.chkAnchor (s : State) (x : Chk) : Option Cause :=
  let c := x.c
  let ea := c.op != 5 && ptrAt c.raw 0x58 != 0
  let eb := c.op != 5 && ptrAt c.raw 0x60 != 0
  let outs := x.os.filter fun o => isOut c.op o.slot
  let longOut := fun o => (s.opndRegion x o).any fun r => r.long
  let rawOut := (c.op == 2 || c.op == 4 || c.op == 6) && outs.any fun o => (s.opndRegion x o).isNone
  let out := fun (v : Int) => decide (v < -1024) || decide (1023 < v)
  let sparse := c.fair && x.os.any fun o => o.frame == 0 && o.t.sparse != 0
  firstBad ([
    if !c.isArrayOp then none
    else firstBad [
      failIf (c.anchorSrc == 3) (x.bad 0x0111 ⟨0x40, 2, 2⟩),
      failIf (c.fair && c.anchorSrc == 1 && out c.anchor) (x.bad 0x0111 ⟨0x42, 0, 16⟩),
      failIf (c.op == 5 && c.fair && c.anchorSrc != 1) (x.bad 0x0111 ⟨0x40, 2, 2⟩),
      failIf ((c.op == 1 || c.packed || sparse) && ea) (x.bad 0x0111 ⟨0x58, 0, 48⟩),
      failIf ((c.op == 1 || c.packed || sparse) && eb) (x.bad 0x0111 ⟨0x60, 0, 48⟩),
      failIf (ea != eb) (x.bad 0x0111 ⟨0x58, 0, 48⟩),
      failIf (c.long && !c.fair) (x.bad 0x0111 ⟨0x41, 1, 1⟩),
      failIf (c.long && rawOut && c.anchorSrc != 1) (x.bad 0x0111 ⟨0x40, 2, 2⟩),
      failIf (s.fusedAnchor x && bits x.sw 7 1 == 1) (x.bad 0x0111 ⟨0x40, 2, 2⟩),
      failIf (c.fair && c.op != 5 && c.anchorSrc == 2 && !outs.any longOut) (x.bad 0x0111 ⟨0x40, 2, 2⟩)]]
    ++ (x.os.filter x.judged).map fun o =>
      match s.opndRegion x o with
      | some r => failIf (r.long && c.op != 0x19 && out r.anchor) (o.bad 0x0111 fBase)
      | none => none)

/-- Check 18, ISSUE_FUNCTION (R171, R175). -/
def State.chkFunction (s : State) (x : Chk) (ps : List Prod) : Option Cause :=
  let c := x.c
  if !(c.op == 0x0A || c.fuse) then none
  else
    let fn := c.fn
    let plain := x.os.all fun o => !(isOut c.op o.slot && o.slot == 3) || ((s.opndRegion x o).isNone && !s.longOpnd x o)
    let roles := c.op == 0x0A || (plain && ((fn ≤ 6 && (c.op == 1 || c.op == 2 || c.op == 4 || c.op == 6)) || c.op == 4))
    let rows := fn != 6 || ps.all fun p => p.saved.isNone || (match p.dst, p.cover with
      | .plain t, some w => decide (t.e0 ≤ w)
      | _, _ => true)
    let alphaOk := (fn != 1 || (XVal.zero.lt c.alpha && c.alpha.lt XVal.one)) && (fn != 4 || (c.alpha.isFin && XVal.zero.lt c.alpha))
    firstBad [failIf (fn == 7 || decide (10 ≤ fn) || !roles || !rows) (x.bad 0x0112 ⟨0x40, 4, 4⟩),
      failIf (!alphaOk) (x.bad 0x0112 ⟨0x44, 0, 32⟩)]

/-- Check 19, ISSUE_GROUPED (R189, R194). -/
def Chk.grouped (x : Chk) : Option Cause :=
  let c := x.c
  if c.op ≠ 5 then none
  else
    let ordered := x.os.any fun o => o.slot == 3 && o.t.ordered
    firstBad [failIf (c.products == 0) (x.bad 0x0113 ⟨0x56, 0, 2⟩),
      failIf (c.tokens == 0 || decide (16777216 < c.tokens)) (x.bad 0x0113 ⟨0x68, 0, 25⟩),
      failIf (ordered && !c.fair && c.products % 2 == 1 && c.slotPtr 5 == 0) (x.bad 0x0113 ⟨0x16 + 30, 0, 48⟩)]

/-! ## All checks -/

/-- The command under its issue checks: the mode set of its epoch (R301). -/
def State.chkOf (s : State) (c : Cmd) : Chk :=
  let e := c.fld 0x0C 0 16
  ⟨c, s.opnds c false, false, if s.mode.pending && e == s.mode.requested then s.mode.pendingSet else s.mode.set⟩

/-! ### What the Footpath reads first (R179, R183, R190, R236) -/

/-- The transfers a range is read in: none crosses a 4 KiB boundary (R236). -/
def fpPieces (a n : Nat) : List (Nat × Nat) :=
  let k := min n (4096 - a % 4096)
  if n = 0 then [] else if k < n then [(a, k), (a + k, n - k)] else [(a, n)]

/-- The pieces of a descriptor or table, where its pointer can name one. -/
def State.tablePieces (s : State) (a n : Nat) : List (Nat × Nat) := if a ≠ 0 && s.inMap a n then fpPieces a n else []

/-- A piece of a command's tables has been read. -/
def Cmd.hasPiece (c : Cmd) (p : Nat × Nat) : Bool := c.tabs.contains p.1

/-- The descriptors and tables the command unit reads at issue: the tensor descriptors, the problem table and, once an entry is here,
the descriptors it names, and the bucket table. -/
def State.descTables (s : State) (c : Cmd) : List (Nat × Nat) :=
  let desc := fun a => if a % 64 = 0 then s.tablePieces a 64 else []
  let own :=
    if c.packed then
      if 16 < c.problems then []
      else (List.range c.problems).flatMap fun q =>
        let e := desc (ptrAt c.raw 0x48 + 64 * q)
        e ++ (if e.all c.hasPiece then
          (slotsOf_ c.op c.fuse).flatMap fun i => desc (bits (s.readDesc c (ptrAt c.raw 0x48 + 64 * q) 64) ((6 + 6 * i) * 8) 48 * 16) else [])
    else (slotsOf_ c.op c.fuse).flatMap fun i => desc (c.slotPtr i)
  own ++ (if c.isArrayOp && c.buckets ≤ 8 then s.tablePieces (ptrAt c.raw 0x50) (16 * c.buckets) else [])

/-- The region records of its operands, of which the engine keeps no copy (R319). -/
def State.recordTables (s : State) (c : Cmd) : List (Nat × Nat) :=
  let x := s.chkOf (s.loadDescs c)
  (x.os.filterMap (s.opndRegion x)).filterMap fun r =>
    if (s.rt c.ctx).copies.any fun p => p.1 == r.idx then none else some (s.regionAddr c.ctx r.idx, 32)

/-- What a command that issues has read before: its descriptors and tables, then the region records its operands name. -/
def State.issueTables (s : State) (c : Cmd) : List (Nat × Nat) :=
  let ds := s.descTables c
  if ds.all c.hasPiece then ds ++ s.recordTables c else ds

/-- What a command that begins has read before: its shape record (R183), and the entries of its pointer list (R190). -/
def State.beginTables (s : State) (c : Cmd) : List (Nat × Nat) :=
  if c.op = 5 then (List.range c.groups).flatMap fun e => s.tablePieces (ptrAt c.raw 0x48 + 64 * e) 64
  else if c.isArrayOp && c.buckets ≠ 0 && c.fld 0x41 3 1 = 0 then s.tablePieces (ptrAt c.raw 0x68) 16
  else []

/-- The source of a COPY that the Footpath carries (R236, class 4). -/
def State.copyTables (s : State) (c : Cmd) : List (Nat × Nat) :=
  if s.onFoot c then (s.opd c 0 0).reads.flatMap fun r => fpPieces r.1 r.2 else []

/-- Ask the Footpath for the pieces that are neither here nor on their way, each for a use of its own. -/
def State.askPieces (s : State) (c : Cmd) (use : Nat → FpUse) (ps : List (Nat × Nat)) : State :=
  let want := ps.filter fun p => !c.hasPiece p && !s.fp.any fun r => r.use == use p.1
  let once := want.foldl (fun l p => if l.any fun q => q.1 == p.1 then l else l ++ [p]) ([] : List (Nat × Nat))
  s.fpAdd (once.map fun p => ⟨use p.1, false, p.1, [], p.2⟩)

/-- Ask for descriptors and tables (R236, class 2). -/
def State.askTables (s : State) (c : Cmd) (ps : List (Nat × Nat)) : State := s.askPieces c (.table c.id) ps

/-- A piece has come: its bytes are those memory held then (R215). -/
def State.tableCame (s : State) (id : CmdId) (addr : Nat) : State :=
  match s.cmd id with
  | none => s
  | some c =>
    let n := (((s.issueTables c ++ s.beginTables c ++ s.copyTables c).find? fun p => p.1 == addr).map (·.2)).getD 0
    s.updCmd id fun x => { x with
      tabs := x.tabs ++ [addr], streams := keepCells x.streams ((List.range n).map fun i => (addr + i, s.memByte (addr + i))) }

/-- The issue checks in their order (R180): the cause of the first that fails. -/
def State.issueChecks (s : State) (c : Cmd) : Option Cause :=
  let x := s.heeded (s.chkOf c)
  let early := firstBad [x.opcode, x.reserved, s.chkContext x, s.chkAddress x, s.chkFormat x, x.convert]
  match early with
  | some f => some f
  | none =>
    let df := s.flowAt x
    let ps := s.prodsAt x (df.getD 0)
    firstBad [x.scale ps, s.chkShape x ps, failIf (c.isArrayOp && df.isNone) (x.bad 0x0109 ⟨0x40, 0, 2⟩),
      s.chkTranspose x (df.getD 0), s.chkBucket x, s.chkTile x (df.getD 0) ps, s.chkPacking x, s.chkRegion x,
      s.chkScratch x (df.getD 0) ps, s.chkOverlap x, s.chkAnchor x, s.chkFunction x ps, x.grouped]

/-- TRAVERSE_SHAPE (R164): a resolved frame has not the shape its opcode requires, which is the actual shape under buckets. -/
def Chk.frameShape (x : Chk) : Option Cause :=
  let fr := x.os.filter fun o => o.frame != 0
  let solid : Chk := { x with os := (x.os.filter fun o => o.frame == 0) ++ fr }
  let ext := fun prob l =>
    if x.c.buckets = 0 then (solid.letter prob l).getD 0
    else match l with | 0 => x.c.run.am | 1 => x.c.run.ak | _ => x.c.run.an
  let conv := if x.c.op = 6 || x.c.op = 7 then x.convShape else none
  firstBad (fr.map fun o =>
    let bad :=
      if x.c.op = 6 || x.c.op = 7 then
        match conv with | some f => f.slot == o.slot || fr.all fun p => p.slot != f.slot | none => false
      else if x.c.op = 9 || x.c.op = 0x0A || x.c.op = 0x18 then
        match x.opnd 0 3 with
        | some d => o.t.e0 != d.t.e0 || o.t.e1 != d.t.e1 || o.t.e2 != d.t.e2 || o.t.e3 != d.t.e3
        | none => false
      else match dimLetters x.c.op o.slot o.t with
        | some (r, k) => o.t.e1 != ext o.prob r || o.t.e0 != ext o.prob k
        | none => false
    failIf bad (some ⟨0x0405, o.t.e1 + o.t.e0 * 4294967296, o.slot, 0⟩))

/-- The checks made of resolved frames at the start of execution (R164): 4, 5, 7, TRAVERSE_SHAPE, 10, 12, 15 and 16. -/
def State.frameChecks (s : State) (c : Cmd) : Option Cause :=
  let x : Chk := s.heeded ⟨c, s.opnds c true, true, c.run.mode⟩
  let df := if c.run.spur then 3 else c.run.dataflow
  let ps := s.prodsAt x df
  firstBad [s.chkAddress x, s.chkFormat x, x.scale ps, x.frameShape, s.chkTranspose x df, s.chkTile x df ps, s.chkScratch x df ps, s.chkOverlap x]

end Sys2Proof.Machine
end

