-- ==== Sys2Proof/Machine/Tiles.lean ====
section
/-! DEFINITION. The tiles at work, one event at a time: the operand blocks a tile needs and the buffers and links they come
through, output blocks assigned to sheets, anchors, tile-beats and the sum-check lane, drains, row partials and flits (R39 to R45,
R50 to R54, R71 to R74, R80 to R83, R118, R177, R206, R212, R228, R336, R337). What a block's events leave is what its command's
own row leaves for that block. -/

namespace Sys2Proof.Machine

open Sys2Proof

/-! ## Operand blocks and their ways (R39, R40, R71, R72, R177) -/

/-- How an operand block reaches a tile: over its row link, over its column link, or over the load bus (R72). -/
inductive Way
  | row | col | load
  deriving DecidableEq, Repr, Inhabited

/-- A use of an operand block by a tile: which half of the operand buffer takes it, its way, its place in the order in which the
tile's beats take blocks, and the part of the double buffer it belongs to. -/
structure Use where
  key : OpKey
  bHalf : Bool
  way : Way
  stage : Nat
  chunk : Nat × Nat
  deriving DecidableEq, Repr, Inhabited

/-- The chunk depth of an OS product: the largest multiple of 32 up to 512 that meets both limits (R177). -/
def Prod.chunkDepth (p : Prod) : Nat :=
  let ok := fun k => decide (p.rt * k * p.a.t.fmt.storeBits ≤ 262144) && decide (2 * k * p.ct * p.b.t.fmt.storeBits ≤ 262144)
  (((List.range 16).map fun i => 512 - 32 * i).find? ok).getD 32

/-- The two operand blocks of a beat as a tile uses them. In OS, A comes along the row into the A half and B down the column into
the B half, chunk by chunk; a part dealt to a light tile takes both over the load bus (R212). In WS and IS the stationary operand
comes over the load bus and the other down the column, in GP_PAIR X along the row and dY down the column, token block by token
block (R40, R74). The blocks a feeder gathers for a sparse product take their stage from the beat, which comes in the order of the
strips whatever the metadata says (R206, R214); a dealt part comes after the tile's own sheet and the parts before it (R212). n is the
block's number, i the place of the beat in it. -/
def Work.uses (w : Work) (b : Blk) (p : Prod) (rs n i : Nat) (bt : Beat) : List Use :=
  let ks := w.keys b p rs bt
  let v := ks.2.visit
  let pair := w.cmd.op == 1
  if b.part then
    let m := if p.df = 2 then bt.1.2 else bt.1.1
    let stat : Use := ⟨if p.df = 2 then ks.1 else ks.2, false, .load, 0, (v, 0)⟩
    [stat, ⟨if p.df = 2 then ks.2 else ks.1, true, .col, m, (v, m)⟩]
  else if b.num ≠ 0 then let st := (n + 1) * 2 ^ 40 + i; [⟨ks.1, false, .load, st, (v, 0)⟩, ⟨ks.2, true, .load, st, (v, 0)⟩]
  else if p.sparse then [⟨ks.1, false, .row, i, (v, 0)⟩, ⟨ks.2, true, .col, i, (v, 0)⟩]
  else
    let kb := bt.2.1
    let c := if pair then kb else 32 * kb / p.chunkDepth
    [⟨ks.1, pair, .row, kb, (v, c)⟩, ⟨ks.2, true, .col, kb, (v, c)⟩]

/-- The uses of a list in order, each operand block once. -/
def dedupUses (l : List Use) : List Use := l.foldl (fun acc u => if acc.any fun x => x.key == u.key then acc else acc ++ [u]) []

/-- A list of uses in the order of their visits, and of their stages within one. -/
def orderUses (l : List Use) : List Use :=
  let vs := l.foldl (fun (acc : List Nat) u => if acc.contains u.key.visit then acc else acc ++ [u.key.visit]) []
  vs.flatMap fun v => sortBy (fun a b => decide (a.stage ≤ b.stage)) (l.filter fun u => u.key.visit == v)

/-- The uses of the beats of a block that a sheet holds, from one on. -/
def State.sheetUses (s : State) (w : Work) (n from_ : Nat) : List Use :=
  match w.blk n with
  | some (b, p) => ((s.beatsOf w.cmd p b).zipIdx.drop from_).flatMap fun x => w.uses b p 0 n x.2 x.1
  | none => []

/-- The uses of the beats of a partial block on a tile, from one on. -/
def State.refUses (s : State) (w : Work) (t : Nat) (r : PartRef) (from_ : Nat) : List Use :=
  match w.blk r.blk with
  | some (b, p) => ((s.refBeats w t r).drop from_).flatMap (w.uses b p r.slab r.blk 0)
  | none => []

/-- The operand blocks a tile has still to use, in order: those of the sheet it fills, of the blocks queued after it, and of its
partial blocks. -/
def State.needs (s : State) (w : Work) (t : Nat) : List Use :=
  let u := s.tile t
  let now := (u.sheets.filter fun x => x.cmd == some w.cmd.id && (x.st == .anchoring || x.st == .filling)).flatMap fun x =>
    s.sheetUses w x.blk x.step
  let next := (u.jobs.filter fun j => j.1 == w.cmd.id).flatMap fun j => s.sheetUses w j.2 0
  let turn := s.turnRef w t
  let parts := (u.pjobs.filter fun r => r.cmd == w.cmd.id).flatMap fun r =>
    s.refUses w t r (if turn == some r then u.dbeats else 0)
  orderUses (dedupUses (now ++ next ++ parts))

/-- The operand of a product that a key names. -/
def Work.view (w : Work) (k : OpKey) : Option (Prod × View) := (w.ps[k.prod]?).map fun p => (p, if k.second then p.b else p.a)

/-- Bytes of an operand block. -/
def Work.blkSize (w : Work) (k : OpKey) : Nat := match w.view k with | some (_, v) => v.t.blockBytes | none => 0

/-- Bytes of a stream in one flit (R82). -/
def flitBytes (f : Fmt) : Nat := match f with | .fp19 | .fp32 => 128 | .e3m2 | .e2m3 => 96 | _ => 64

/-- Flits of an operand block. -/
def Work.blkFlits (w : Work) (k : OpKey) : Nat :=
  match w.view k with | some (_, v) => cdiv v.t.blockBytes (flitBytes v.t.fmt) | none => 0

/-- The first two parts of the double buffer among what a tile needs: the one in use and the one that fills (R40, R71). -/
def twoChunks (l : List Use) : List (Nat × Nat) :=
  ((l.filter (·.bHalf)).foldl (fun (acc : List (Nat × Nat)) u => if acc.contains u.chunk then acc else acc ++ [u.chunk]) []).take 2

/-- A stationary region may come now: that of the tile's present visit, or the next one's while it takes at most 16 KiB (R44). -/
def Work.regionTurn (w : Work) (needs : List Use) (x : Use) : Bool :=
  let loads := needs.filter fun u => u.way == .load && !u.bHalf
  let vs := needs.foldl (fun (acc : List Nat) u => if acc.contains u.key.visit then acc else acc ++ [u.key.visit]) []
  let bytes := (loads.filter fun u => u.key.visit == x.key.visit).foldl (fun n u => n + w.blkSize u.key) 0
  vs.head? == some x.key.visit || ((vs.drop 1).head? == some x.key.visit && decide (bytes ≤ 16384))

/-- Blocks of a half. -/
def Tile.half (u : Tile) (b : Bool) : List OpBlk := if b then u.bHalf else u.aHalf

/-- Bytes that the blocks of a half take. -/
def Tile.halfUsed (u : Tile) (b : Bool) : Nat := (u.half b).foldl (fun n x => n + x.size) 0

/-- A half of a tile's operand buffer has room for a block it uses: 32 KiB in all, the two parts of the double buffer, one region
after the other (R40, R44, R71, R83, R177). A block whose first flit has been taken has its room. DESIGN CHOICE (log 177): the manual
sets no chunks for gathered blocks; they take the halves in the order of the beats, and those over the load bus not before or after
others are due over the links (R212). -/
def State.roomFor (s : State) (w : Work) (t : Nat) (x : Use) : Bool :=
  let u := s.tile t
  let needs := s.needs w t
  (u.half x.bHalf).any (fun b => b.key == x.key) ||
  (decide (u.halfUsed x.bHalf + w.blkSize x.key ≤ 32768) &&
    (if (w.ps[x.key.prod]?).any (·.sparse) then
        (needs.takeWhile fun u => u.key != x.key).all fun u => (u.way == .load) == (x.way == .load)
      else if x.way == .load && !x.bHalf then w.regionTurn needs x else !x.bHalf || (twoChunks needs).contains x.chunk))

/-- Put bytes of a block into a half; the scales go to the scale buffer with its last part (R71, R145). -/
def Tile.take (u : Tile) (bHalf : Bool) (x : OpBlk) (scales : List Host.Cell) : Tile :=
  let add := fun (l : List OpBlk) =>
    if l.any fun b => b.key == x.key then
      l.map fun b => if b.key = x.key then { b with got := b.got + x.got, cells := b.cells ++ x.cells } else b
    else l ++ [x]
  let u := if bHalf then { u with bHalf := add u.bHalf } else { u with aHalf := add u.aHalf }
  if scales.isEmpty || u.scaleBuf.any (fun b => b.key == x.key) then u
  else { u with scaleBuf := u.scaleBuf ++ [{ x with cells := scales }] }

/-- The buffers of a tile keep what it has still to use. -/
def State.tidy (s : State) (w : Work) (t : Nat) : State :=
  let needs := s.needs w t
  let keep := fun (b : OpBlk) => needs.any fun u => u.key == b.key
  s.updTile t fun u => { u with
    aHalf := u.aHalf.filter keep, bHalf := u.bHalf.filter keep, scaleBuf := u.scaleBuf.filter keep, latch := u.latch.filter keep }

/-- A tile has all of an operand block. -/
def Tile.has (u : Tile) (k : OpKey) : Bool :=
  (u.aHalf ++ u.bHalf ++ u.latch.toList).any fun b => b.key == k && decide (b.need ≤ b.got)

/-! ## Placing and assigning blocks (R39, R50, R53, R76, R81) -/

/-- The partial references of one product for one tile row, in visiting order. -/
def partOrder (w : Work) (i x : Nat) (p : Prod) : List PartRef :=
  let slabs := (w.bs.foldl (fun m b => if b.prod = i then max m (b.slab + 1) else m) 0)
  (List.range slabs).flatMap fun a => (List.range p.redSlabs).flatMap fun rs =>
    (List.range w.bs.length).filterMap fun n =>
      let b := w.bs.getD n default
      if b.prod = i && b.part && b.slab == a && b.tile == x then some ⟨w.cmd.id, n, rs⟩ else none

/-- Queue the blocks of a command that begins on its array: sheets at their tiles, partial blocks along their tile rows. -/
def State.placeJobs (s : State) (c : Cmd) : State :=
  let w := s.work c
  let s := (List.range w.bs.length).foldl (fun s n =>
    let b := w.bs.getD n default
    if b.part then s else s.updTile b.tile fun u => { u with jobs := u.jobs ++ [(c.id, n)] }) s
  (List.range w.ps.length).foldl (fun s i =>
    match w.ps[i]? with
    | some p =>
      if p.df = 0 then s
      else (List.range p.rh).foldl (fun s x =>
        let refs := partOrder w i x p
        (List.range p.rw).foldl (fun s y =>
          s.updTile (s.tileAt w.arr (p.rr + x) (p.rc + y)) fun u => { u with pjobs := u.pjobs ++ refs, wturn := false }) s) s
    | none => s) s

/-- Blocks of a command that have drained, or that its drains hold. -/
def State.doneBlks (s : State) (id : CmdId) : List Nat :=
  ((s.cmd id).map (·.drained)).getD [] ++ (s.heldOf id).map (·.blk)

/-- Which of the successive operations of a command is under way: the first with a block to drain (R81). -/
def State.roundNow (s : State) (w : Work) : Nat :=
  let done := s.doneBlks w.cmd.id
  let left := (List.range w.bs.length).filter fun n => !done.contains n
  let rounds := left.filterMap fun n => (w.prod n).map (·.round)
  rounds.foldl min (rounds.headD 0)

/-- A block belongs to the operation under way. -/
def State.inRound (s : State) (w : Work) (n : Nat) : Bool := (w.prod n).any fun p => p.round == s.roundNow w

/-- The order number of the drain that next reaches a place in the drains' order (R61). -/
def State.nextOrder (s : State) : Nat :=
  s.arrs.foldl (fun m a => a.joins.foldl (fun m x => max m (x.2 + 1)) m)
    (s.tiles.foldl (fun m u => u.sheets.foldl (fun m x => max m (x.order + 1)) m) 1)

/-- A sheet whose last reduction step has been added is FULL; its last open groups close (R50, R110). -/
def State.fullSheet (s : State) (w : Work) (sh : Sheet) : Sheet :=
  match w.blk sh.blk with
  | some (b, p) =>
    if sh.st == .filling && decide ((s.beatsOf w.cmd p b).length ≤ sh.step) then
      { sh with
        st := .full, order := s.nextOrder
        accs := (List.zip (b.outs p) sh.accs).map fun x => x.2.finish p (w.cmd.sumKey p) x.1.1 x.1.2 }
    else sh
  | none => sh

/-- A sheet is being filled or anchored. -/
def Sheet.busy (sh : Sheet) : Bool := sh.st == .anchoring || sh.st == .filling

/-- A sheet assigned to a block: ANCHORING under Fair, FILLING with cleared accumulators under Draft. -/
def State.takeSheet (s : State) (w : Work) (n : Nat) : Sheet :=
  match w.blk n with
  | some (b, p) =>
    s.fullSheet w { Sheet.init with
      st := if p.fair then .anchoring else .filling, cmd := some w.cmd.id, blk := n, accs := (b.empty p).accs }
  | none => Sheet.init

/-- Assign a tile's next output block to its FREE sheet, while it fills no other, no full self-test waits and the block belongs to
the operation under way (R50, R81, R356). -/
def State.assign (s : State) (w : Work) (t : Nat) : State :=
  let u := s.tile t
  if u.sheets.any Sheet.busy || s.held w.cmd then s
  else
    match u.jobs, (List.range u.sheets.length).find? fun i => (u.sheets.getD i Sheet.init).st == .free with
    | (_, n) :: js, some i =>
      if s.inRound w n then s.updTile t fun u => { u with jobs := js, sheets := setAt u.sheets i (s.takeSheet w n) } else s
    | _, _ => s

/-- Assign blocks on every tile of a command's array. -/
def State.assignAll (s : State) (w : Work) : State := (s.tilesOf w.arr).foldl (fun s t => s.assign w t) s

/-! ## Convoy skew (R228, R53, R76) -/

/-- The skewed order of n slabs: s0, sh, s1, sh+1, … with h = ⌈n/2⌉ (R228). -/
def skewOrder (l : List Nat) : List Nat :=
  let h := cdiv l.length 2
  (List.range h).flatMap fun i => [l.getD i 0] ++ (if h + i < l.length then [l.getD (h + i) 0] else [])

/-- The loop that a block's slab belongs to, and its place in it: a problem's slabs, in GP_PAIR its k-slabs (R53, R76, R228). -/
def Work.slabKey (w : Work) (n : Nat) : Nat × Nat :=
  match w.blk n with
  | some (b, p) =>
    if w.cmd.op = 1 then (p.group, if p.df = 0 then b.slab / max 1 (cdiv p.eno (p.rw * p.ct)) else b.slab) else (b.prod, b.slab)
  | none => (0, 0)

/-- The slabs of an operation in the order of its blocks. -/
def Work.slabs (w : Work) : List (Nat × Nat) :=
  (List.range w.bs.length).foldl (fun (l : List (Nat × Nat)) n => let k := w.slabKey n; if l.contains k then l else l ++ [k]) []

/-- Put the entries of a queue that p picks into another order, in the places they hold. -/
def refill {α : Type} (p : α → Bool) : List α → List α → List α
  | [], _ => []
  | x :: xs, y :: ys => if p x then y :: refill p xs ys else x :: refill p xs (y :: ys)
  | x :: xs, [] => x :: xs

/-- A slab of an operation has begun: a block of theirs has left its tile's queue, or a partial block with beats on a tile
has. -/
def State.slabBegun (s : State) (w : Work) (tiles : List Nat) (k : Nat × Nat) : Bool :=
  (List.range w.bs.length).any fun n =>
    w.slabKey n == k &&
    match w.blk n with
    | some (b, p) =>
      if b.part then
        (List.range p.redSlabs).any fun rs => (List.range p.rw).any fun y =>
          let t := s.partTile w b p y
          let r : PartRef := ⟨w.cmd.id, n, rs⟩
          let u := s.tile t
          !(s.refBeats w t r).isEmpty && (!u.pjobs.contains r || (u.dbeats != 0 && s.turnRef w t == some r))
      else !(tiles.any fun t => (s.tile t).jobs.contains (w.cmd.id, n))
    | none => false

/-- The slabs of an operation that have not begun, in the skewed order, each problem's by itself (R228): problem and slabs. -/
def State.skewed (s : State) (w : Work) : List (Nat × List Nat) :=
  let keys := w.slabs.filter fun k => !s.slabBegun w (s.tilesOf w.arr) k
  let probs := (keys.map (·.1)).foldl (fun (l : List Nat) q => if l.contains q then l else l ++ [q]) []
  probs.map fun q => (q, skewOrder (sortBy (fun a b => decide (a ≤ b)) ((keys.filter fun k => k.1 == q).map (·.2))))

/-- The queues of an operation's tiles in the skewed order. -/
def State.skewTiles (s : State) (w : Work) (order : List (Nat × List Nat)) : State :=
  order.foldl (fun s q =>
    let pick := fun n => let k := w.slabKey n; k.1 == q.1 && q.2.contains k.2
    (s.tilesOf w.arr).foldl (fun s t => s.updTile t fun u =>
      let jp := fun (j : CmdId × Nat) => pick j.2
      let rp := fun (r : PartRef) => pick r.blk
      { u with
        jobs := refill jp u.jobs (q.2.flatMap fun a => u.jobs.filter fun j => jp j && (w.slabKey j.2).2 == a)
        pjobs := refill rp u.pjobs (q.2.flatMap fun a => u.pjobs.filter fun r => rp r && (w.slabKey r.blk).2 == a) }) s) s

/-! ## Events of a tile -/

/-- Apply an event of a tile in service whose array runs a begun command on sheets or partials, and is not paused. A sheet
left FREE while a full self-test waited takes its block first (R356). -/
def State.onTile (s : State) (t : Nat) (f : State → Work → State) : State :=
  match (if s.alive && s.tileOn t then s.opOfTile t else none).bind s.cmd with
  | some c =>
    if c.phase == .begun && c.isArrayOp && !c.run.spur && !(s.arrs.getD (s.arrOfTile t) Arr.init).paused then
      f (s.assign (s.work c) t) (s.work c)
    else s
  | none => s

/-- The operation has ended once every block has drained; GP_GROUPED ends in its own row (R193). -/
def State.settleRun (s : State) (w : Work) : State :=
  match s.cmd w.cmd.id with
  | some c =>
    if c.phase == .begun && c.op != 5 && (List.range w.bs.length).all c.drained.contains then s.finishRun c.id else s
  | none => s

/-- ANCHOR_READY: a sheet in ANCHORING receives its anchor and enters FILLING (R50, R118). -/
def State.anchorReady (s : State) (t : Nat) (w : Work) : State :=
  let u := s.tile t
  match (List.range u.sheets.length).find? fun i => (u.sheets.getD i Sheet.init).st == .anchoring with
  | none => s
  | some i =>
    let sh := u.sheets.getD i Sheet.init
    match w.blk sh.blk with
    | some (b, p) =>
      let sh := s.fullSheet w { sh with st := .filling, anchor := s.anchorOf w p b }
      (s.fixAnchor w sh.blk).updTile t fun u => { u with sheets := setAt u.sheets i sh }
    | none => s

/-- ANCHOR_READY. -/
def execAnchorReady (t : Nat) (s : State) : Host.Outcome State Fault Refusal := .next (s.onTile t fun s w => s.anchorReady t w)

/-! ### Tile-beats (R41, R42) -/

/-- A tile's next beat: on a sheet, with the sheet's place; or on a partial block, with its reduction slab. -/
inductive Turn
  | sheet (i : Nat) (n : Nat) (bt : Beat)
  | part (r : PartRef) (bt : Beat)
  deriving DecidableEq, Repr

/-- The next beat of the sheet a tile fills. -/
def State.sheetTurn (s : State) (w : Work) (t : Nat) : Option Turn :=
  let u := s.tile t
  ((List.range u.sheets.length).find? fun i => (u.sheets.getD i Sheet.init).st == .filling).bind fun i =>
    let sh := u.sheets.getD i Sheet.init
    (w.blk sh.blk).bind fun x => ((s.beatsOf w.cmd x.2 x.1)[sh.step]?).map fun bt => Turn.sheet i sh.blk bt

/-- The next beat of the partial block in turn. A d-beat of GP_PAIR runs only beside a sheet of its own slab in FILLING, so that
the tile issues none while both sheets wait for their drains (R42, R52). -/
def State.partTurn (s : State) (w : Work) (t : Nat) : Option Turn :=
  let u := s.tile t
  (s.turnRef w t).bind fun r =>
    if !s.inRound w r.blk then none
    else
      let beside := w.cmd.op != 1 || u.sheets.any fun x => x.st == .filling &&
        match w.blk x.blk, w.blk r.blk with
        | some (b, _), some (d, p) => b.slab == d.slab * p.redSlabs + r.slab && b.prod == d.prod + 1
        | _, _ => false
      if beside then ((s.refBeats w t r)[u.dbeats]?).map fun bt => Turn.part r bt else none

/-- The beat a tile runs next: in GP_PAIR d-beats and w-beats in turn (R42). -/
def State.turn (s : State) (w : Work) (t : Nat) : Option Turn :=
  if w.cmd.op = 1 then (if (s.tile t).wturn then s.sheetTurn w t else s.partTurn w t)
  else match s.partTurn w t with
    | some x => some x
    | none => s.sheetTurn w t

/-- The operand blocks of a turn, and the product it belongs to. -/
def Work.turnKeys (w : Work) (x : Turn) : Option (Prod × (OpKey × OpKey)) :=
  match x with
  | .sheet _ n bt => (w.blk n).map fun y => (y.2, w.keys y.1 y.2 0 bt)
  | .part r bt => (w.blk r.blk).map fun y => (y.2, w.keys y.1 y.2 r.slab bt)

/-- The blocks a beat awaits: its own, and in GP_PAIR what is left of the W region of its slab, which must be resident (R44). -/
def State.awaited (s : State) (w : Work) (t : Nat) : List Use :=
  let u := s.tile t
  let needs := s.needs w t
  match (s.turn w t).bind w.turnKeys with
  | none => []
  | some (_, ks) =>
    needs.filter fun x => !u.has x.key &&
      (x.key == ks.1 || x.key == ks.2 || (w.cmd.op == 1 && x.way == .load && x.key.visit == ks.2.visit))

/-- The block that a beat latches: in GP_PAIR dY, which stays for all the beats that use it (R42). -/
def Tile.latched (u : Tile) (w : Work) (x : Turn) (ks : OpKey × OpKey) : Tile :=
  let dy := match x with | .sheet _ _ _ => ks.2 | .part _ _ => ks.1
  if w.cmd.op = 1 then { u with latch := ((u.latch.toList ++ u.bHalf).find? fun b => b.key == dy) } else u

/-- The stationary block in the cells during a beat: none in a w-beat of GP_PAIR, which loads the next one (R42, R71). -/
def Work.cellsKey (w : Work) (p : Prod) (x : Turn) (ks : OpKey × OpKey) : Option OpKey :=
  match x with
  | .sheet _ _ _ => if w.cmd.op = 1 then none else some ks.1
  | .part _ _ => some (if p.df = 2 then ks.1 else ks.2)

/-- A beat of the sheet being filled. -/
def State.sheetBeat (s : State) (t i : Nat) (w : Work) (b : Blk) (p : Prod) (bt : Beat) (upset : Option Upset) : State :=
  let u := s.tile t
  let sh := u.sheets.getD i Sheet.init
  let (f, e) := s.doBeat w b p u 0 sh.anchor ⟨sh.accs, sh.scales⟩ bt
  match e with
  | some e => s.abort w.cmd.id e.cause
  | none =>
    let accs := upsetAt f.accs p.fair p.int upset
    match laneFinds accs (laneDue sh.accs accs (decide ((s.beatsOf w.cmd p b).length ≤ sh.step + 1))) with
    | some i => s.laneFault t i
    | none =>
      let sh := s.fullSheet w { sh with accs := accs, step := sh.step + 1, cnt := accsCnt accs, scales := f.scales }
      ((s.updTile t fun u => { u with sheets := setAt u.sheets i sh, wturn := false }).assign w t).tidy w t

/-- The contribution of a tile to partial blocks that have no beats on it. -/
def Work.zeroPart (w : Work) (r : PartRef) : Partial :=
  match w.blk r.blk with
  | some (b, p) => ⟨r, 0, (b.empty p).accs, 0, []⟩
  | none => ⟨r, 0, [], 0, []⟩

/-- A beat of the partial block in turn; after its last one the tile's contribution awaits the partial link (R42, R45). -/
def State.partBeat (s : State) (t : Nat) (w : Work) (r : PartRef) (b : Blk) (p : Prod) (bt : Beat)
    (upset : Option Upset) : State :=
  let u := s.tile t
  let first := u.dbeats == 0
  let anchor := if first then s.anchorOf w p b else u.panchor
  let (f, e) := s.doBeat w b p u r.slab anchor (if first then b.empty p else ⟨u.pdx, u.pscales⟩) bt
  match e with
  | some e => s.abort w.cmd.id e.cause
  | none =>
    let accs := upsetAt f.accs p.fair p.int upset
    let last := decide ((s.refBeats w t r).length ≤ u.dbeats + 1)
    match laneFinds accs (laneDue (if first then [] else u.pdx) accs last) with
    | some i => s.laneFault t i
    | none =>
      let before := u.pjobs.takeWhile fun x => x != r
      State.tidy ((s.fixAnchor w r.blk).updTile t fun u =>
        if last then
          { u with
            dbeats := 0, pdx := [], pscales := [], pjobs := u.pjobs.drop (before.length + 1), wturn := true
            ready := u.ready ++ before.map w.zeroPart ++ [⟨r, anchor, accs, accsCnt accs, f.scales⟩] }
        else { u with dbeats := u.dbeats + 1, pdx := accs, pscales := f.scales, panchor := anchor, wturn := true }) w t

/-- A tile runs its next beat where everything it awaits is there (R41, R42, R44): its cycles are counted (R367). -/
def State.tileBeat (s : State) (t : Nat) (upset : Option Upset) (w : Work) : State :=
  match s.turn w t with
  | none => s
  | some x =>
    match w.turnKeys x with
    | none => s
    | some (p, ks) =>
      if !(s.awaited w t).isEmpty then s
      else
        let s := s.countWork 0 (s.build.size.chanOf t) (beatCycles p.a.t.fmt p.b.t.fmt p.fair) []
        let s := s.updTile t fun u => { (u.latched w x ks) with cells := w.cellsKey p x ks }
        match x with
        | .sheet i n bt => match w.blk n with | some (b, p) => s.sheetBeat t i w b p bt upset | none => s
        | .part r bt => match w.blk r.blk with | some (b, p) => s.partBeat t w r b p bt upset | none => s

/-! ### Drains (R50, R52, R61, R139, R212) -/

/-- The FULL sheet of a tile that was full first. -/
def Tile.fullSheet (u : Tile) : Option Nat :=
  (List.range u.sheets.length).foldl (fun (b : Option Nat) i =>
    let sh := u.sheets.getD i Sheet.init
    if sh.st != .full then b
    else match b with
      | some j => if sh.order < (u.sheets.getD j Sheet.init).order then some i else b
      | none => some i) none

/-- The drain of a block into its region has begun (R59, R63). -/
def State.touchBlk (s : State) (w : Work) (n : Nat) : State :=
  match w.blk n with
  | some (b, p) =>
    match p.dst with
    | .region _ k => if (b.outs p).isEmpty then s else s.touchRegion w.cmd.id k
    | _ => s
  | none => s

/-- A block is one part of a split sheet, which drains into the steal buffer (R212). -/
def Work.split (w : Work) (n : Nat) : Bool := (w.bs[n]?).any fun b => decide (1 < (w.unit b).length)

/-- A FULL sheet reaches DRAINING (R50): its place in the order of the drains is fixed, and the drain into its region has begun
(R59, R61, R63); that of a part goes to the steal buffer (R212). -/
def State.drainAccept (s : State) (t : Nat) (w : Work) : State :=
  match (s.tile t).fullSheet with
  | some i =>
    let n := ((s.tile t).sheets.getD i Sheet.init).blk
    let o := s.nextOrder
    let s := s.updTile t fun u => { u with sheets := updAt u.sheets i fun (x : Sheet) => { x with st := .draining, order := o } }
    if w.split n then s else s.touchBlk w n
  | none => s

/-- DRAIN_ACCEPT: the channel drain accepts a FULL sheet (R50). -/
def execDrainAccept (t : Nat) (s : State) : Host.Outcome State Fault Refusal := .next (s.onTile t fun s w => s.drainAccept t w)

/-- A draining sheet is FREE once its block has drained; a part, once it is in the steal buffer (R50, R212). DESIGN CHOICE (log
153): so is a sheet whose scale groups are completed by a later operation of its CONV_DATA (R81, R139), which could not start
otherwise. -/
def State.releases (s : State) (w : Work) (n : Nat) : Bool :=
  let held := (s.heldOf w.cmd.id).any fun h => h.blk == n
  ((s.cmd w.cmd.id).any fun c => c.drained.contains n) ||
  (held && match w.blk n with
    | some (b, p) => decide (1 < (w.unit b).length)
        || (w.mates b.prod).any fun i => match w.ps[i]? with | some q => decide (p.round < q.round) | none => false
    | none => false)

/-- Set the split sheets of an array that wait to be joined. -/
def State.setJoins (s : State) (arr : Nat) (js : List (Nat × Nat)) : State :=
  { s with arrs := updAt s.arrs arr fun a => { a with joins := js } }

/-- A part sheet has drained into the steal buffer. With the last part of its sheet the joined value takes its place in the order of the
drains, and its drain has begun (R61, R212). DESIGN CHOICE (log 209): it is this moment that counts. -/
def State.storePart (s : State) (w : Work) (sh : Sheet) : State :=
  let id := w.cmd.id
  let s := s.setHeld id (s.heldOf id ++ [⟨sh.blk, 0, sh.anchor, sh.accs, sh.cnt, sh.scales⟩])
  if (w.unit (w.bs.getD sh.blk default)).all fun i => (s.heldOf id).any fun h => h.blk == i then
    (s.setJoins w.arr ((s.arrs.getD w.arr Arr.init).joins ++ [(sh.blk, s.nextOrder)])).touchBlk w sh.blk
  else s

/-- The owner's drain joins the parts of a split sheet and writes the whole output, unless a drain of its context that came first
overlaps it (R61, R212). -/
def State.joinUnit (w : Work) (s : State) (j : Nat × Nat) : State :=
  match s.cmd w.cmd.id, (s.heldOf w.cmd.id).find? fun h => h.blk == j.1 with
  | some c, some x =>
    if s.drainsFirst c.ctx (fun y => decide (j.2 ≤ y.order)) (s.blkAddrs w j.1) then s
    else
      let s := s.setJoins w.arr ((s.arrs.getD w.arr Arr.init).joins.filter fun k => k.1 != j.1)
      (s.setHeld c.id ((s.heldOf c.id).filter fun h => h.blk != j.1)).finishBlk c w x
  | _, _ => s

/-- The split sheets of an operation that may be joined. -/
def State.joinUnits (s : State) (w : Work) : State := (s.arrs.getD w.arr Arr.init).joins.foldl (State.joinUnit w) s

/-- Sheets are FREE that have drained, and their tiles go on to their next blocks (R50). -/
def State.freeSheets (s : State) (w : Work) : State :=
  let free := fun (x : Sheet) => if x.cmd = some w.cmd.id && x.st == .draining && s.releases w x.blk then Sheet.init else x
  (State.assignAll { s with tiles := s.tiles.map fun (u : Tile) => { u with sheets := u.sheets.map free } } w).settleRun w

/-- DRAIN_DONE: the last value of a draining sheet is written (R50), the first in the order of the drains of its context where they
overlap (R61); that of a part to the steal buffer (R212). A block whose scale groups span others stays until they are complete (R139).
Split sheets that an earlier drain has kept waiting are joined first. -/
def State.drainDone (s : State) (t : Nat) (w : Work) : State :=
  let id := w.cmd.id
  let s := if (s.arrs.getD w.arr Arr.init).joins.isEmpty then s else (s.joinUnits w).freeSheets w
  let mine := (s.tile t).sheets.filter fun x => x.st == .draining && x.cmd == some id && !(s.heldOf id).any fun h => h.blk == x.blk
  match sortBy (fun (a b : Sheet) => decide (a.order ≤ b.order)) mine with
  | [] => s
  | sh :: _ =>
    match s.cmd id with
    | none => s
    | some c =>
      if w.split sh.blk then ((s.storePart w sh).joinUnits w).freeSheets w
      else if s.drainsFirst c.ctx (fun x => decide (sh.order ≤ x.order)) (s.blkAddrs w sh.blk) then s
      else (s.finishBlk c w ⟨sh.blk, 0, sh.anchor, sh.accs, sh.cnt, sh.scales⟩).freeSheets w

/-- DRAIN_DONE. -/
def execDrainDone (t : Nat) (s : State) : Host.Outcome State Fault Refusal := .next (s.onTile t fun s w => s.drainDone t w)

/-! ### Row partials (R45, R46, R74) -/

/-- The contribution at the front of a tile: one that waits, or that of a partial block without beats there. -/
def State.frontPart (s : State) (w : Work) (t : Nat) : Option Partial :=
  let u := s.tile t
  match u.ready with
  | x :: _ => some x
  | [] =>
    match u.pjobs with
    | r :: _ => if (s.refBeats w t r).isEmpty && s.inRound w r.blk then some (w.zeroPart r) else none
    | [] => none

/-- A flit of the front contribution has passed; after the last of n the next contribution is at the front. -/
def Tile.flitPassed (u : Tile) (n : Nat) : Tile :=
  if u.sent + 1 < n then { u with sent := u.sent + 1 }
  else match u.ready with
    | _ :: xs => { u with ready := xs, sent := 0 }
    | [] => { u with pjobs := u.pjobs.drop 1, sent := 0 }

/-- The flit that a tile's contribution is added to: the first on its partial link; at the west edge one of the partial that starts
there (R45, R46). -/
def State.arriving (s : State) (w : Work) (t y : Nat) (own : Partial) (b : Blk) (p : Prod) : Option PFlit :=
  let i := (s.tile t).sent
  if y ≠ 0 then (s.tile t).partIn.head?.bind fun x => if x.ref = own.ref && x.idx = i then some x else none
  else (s.westPart w own.ref b p).map fun x => x.flit p (b.flits p) i

/-- A flit leaves the east edge over the drain bus. With the last one the partial goes to the partial slab, or after the last reduction
slab its block is finished (R45, R46). -/
def State.eastFlit (s : State) (w : Work) (x : PFlit) (b : Blk) (p : Prod) : State :=
  let fs := (s.arrs.getD w.arr Arr.init).edge.filter (fun y => y.ref == x.ref) ++ [x]
  if fs.length < b.flits p then { s with arrs := updAt s.arrs w.arr fun a => { a with edge := a.edge ++ [x] } }
  else
    let y := joinFlits x.ref fs
    let z : BlkSum := ⟨x.ref.blk, x.ref.slab + 1, y.anchor, y.accs, y.cnt, y.scales⟩
    let s := { s with arrs := updAt s.arrs w.arr fun a => { a with edge := a.edge.filter fun y => y.ref != x.ref } }
    if x.ref.slab + 1 = p.redSlabs then
      match s.cmd w.cmd.id with
      | some c =>
        let s := s.finishBlk c w z
        let s := { s with arrs := updAt s.arrs w.arr fun a => { a with slab := a.slab.filter fun y => y.blk != z.blk } }
        (s.assignAll w).settleRun w
      | none => s
    else s.putSlab w.arr z

/-- The code of a link in LINK_PARITY (R339). -/
def linkCode : Link → Nat
  | .row => 0 | .col => 1 | .part => 2

/-- Bits of a partial value as it travels. -/
def Prod.valBits (p : Prod) : Nat := if p.fair then 128 else 32

/-- A flit of a row partial with bits of its data flipped on its way; bits past its values belong to its padding. -/
def PFlit.flip (x : PFlit) (p : Prod) (bits_ : List Nat) : PFlit :=
  let n := p.valBits
  { x with accs := bits_.foldl (fun l i => updAt l (i / n) fun a => a.ofCode p (a.code p ^^^ 2 ^ (i % n))) x.accs }

/-- The parity of a received flit does not match its bit: flips in the padding count as data (R82). -/
def PFlit.badParity (x g : PFlit) (p : Prod) (bits_ : List Nat) : Bool :=
  (partParity p g.accs != (decide ((bits_.filter fun i => decide (p.valBits * x.accs.length ≤ i)).length % 2 = 1))) != x.parity

/-- A flit enters the partial link into a tile: one whose parity is wrong aborts the command (R82, R336). -/
def State.landPart (s : State) (t : Nat) (p : Prod) (x : PFlit) (upset : List Nat) : State :=
  let g := x.flip p upset
  if x.badParity g p upset then s.tileFault t 0x0601 (t % 512 + linkCode .part * 512)
  else s.updTile t fun v => { v with partIn := v.partIn ++ [g] }

/-- The next flit of a tile's row partial passes east (R45): the tile adds its contribution to what arrives and passes the sum into the
next tile's partial link where that has room, or out of the east edge; none where it cannot. -/
def State.passFlit (s : State) (w : Work) (t : Nat) (upset : List Nat) : Option State :=
  (s.frontPart w t).bind fun own => (w.blk own.ref.blk).bind fun x => (s.colOf w.arr x.2 x.1.tile t).bind fun y =>
    (s.arriving w t y own x.1 x.2).bind fun z =>
      let sum := z.add own w x.1 x.2
      let out := (s.fixAnchor w own.ref.blk).updTile t fun u =>
        { (u.flitPassed (x.1.flits x.2)) with partIn := if y = 0 then u.partIn else u.partIn.drop 1 }
      if y + 1 < x.2.rw then
        let e := s.partTile w x.1 x.2 (y + 1)
        if 8 ≤ (s.tile e).partIn.length then none else some (out.landPart e x.2 sum upset)
      else some (out.eastFlit w sum x.1 x.2)

/-- Flits of the front contribution that have still to pass. -/
def State.flitsLeft (s : State) (w : Work) (t : Nat) : Nat :=
  match (s.frontPart w t).bind fun own => w.blk own.ref.blk with
  | some (b, p) => b.flits p - (s.tile t).sent
  | none => 0

/-- Flits of a row partial pass east, up to the count given, while the partial link has room and what they are added to has
arrived. -/
def State.passFlits (w : Work) (t : Nat) : Nat → State → State
  | 0, s => s
  | n + 1, s => match s.passFlit w t [] with | some s' => State.passFlits w t n s' | none => s

/-- PARTIAL_EAST: a tile's row partial passes east flit by flit, as far as the partial link has room for it (R45, R82, R83). -/
def execPartialEast (t : Nat) (s : State) : Host.Outcome State Fault Refusal :=
  .next (s.onTile t fun s w => State.passFlits w t (s.flitsLeft w t) s)

/-! ### Flits (R82, R83) -/

/-- The row and column of a tile in its array. -/
def State.placeOf (s : State) (arr t : Nat) : Option (Nat × Nat) :=
  let (h, w) := s.arrDims arr
  ((List.range (h * w)).find? fun i => s.tileAt arr (i / w) (i % w) == t).map fun i => (i / w, i % w)

/-- The rectangle of the operation under way that a tile lies in; its edges take the place of the array's (R79). -/
def State.rectAt (s : State) (w : Work) (t : Nat) : Option (Nat × Prod × Nat × Nat) :=
  (s.placeOf w.arr t).bind fun x =>
    let here := fun (p : Prod) => p.round == s.roundNow w && decide (p.rr ≤ x.1 ∧ x.1 < p.rr + p.rh ∧ p.rc ≤ x.2 ∧ x.2 < p.rc + p.rw)
    (w.ps.findIdx? here).bind fun j => (w.ps[j]?).map fun p => (j, p, x.1 - p.rr, x.2 - p.rc)

/-- The tile a row or column link comes from; none at the edge its feeder serves. -/
def State.linkFrom (s : State) (w : Work) (t : Nat) (l : Link) : Option Nat :=
  (s.rectAt w t).bind fun (_, p, x, y) =>
    match l with
    | .col => if x = 0 then none else some (s.tileAt w.arr (p.rr + x - 1) (p.rc + y))
    | _ => if y = 0 then none else some (s.tileAt w.arr (p.rr + x) (p.rc + y - 1))

/-- A tile has a neighbour to forward to: it lies on no east, or south, edge of its rectangle (R83). -/
def State.forwards (s : State) (w : Work) (t : Nat) (l : Link) : Bool :=
  (s.rectAt w t).any fun (_, p, x, y) => match l with | .col => decide (x + 1 < p.rh) | _ => decide (y + 1 < p.rw)

/-- Flits in a link into a tile. -/
def Tile.flits (u : Tile) : Link → List Flit
  | .row => u.rowIn | .col => u.colIn | .part => []

/-- Set the flits in a link into a tile. -/
def Tile.setFlits (u : Tile) (l : Link) (fs : List Flit) : Tile :=
  match l with
  | .row => { u with rowIn := fs } | .col => { u with colIn := fs } | .part => u

/-- The use a tile has for a flit's block, by the link it comes over. -/
def State.useOf (s : State) (w : Work) (t : Nat) (l : Link) (f : Flit) : Option Use :=
  (s.needs w t).find? fun x => x.key == f.key && x.way == (match l with | .row => Way.row | _ => Way.col)

/-- A tile may take the flit at the front of a link: its operand buffer has room where it uses the block (R83). -/
def State.canTake (s : State) (w : Work) (t : Nat) (l : Link) : Bool :=
  match (s.tile t).flits l with
  | [] => false
  | f :: _ => match s.useOf w t l f with | some x => s.roomFor w t x | none => true

/-- A tile takes the flit at the front of a link into its buffer, where it uses the block. -/
def State.takeFlit (s : State) (w : Work) (t : Nat) (l : Link) : State :=
  match (s.tile t).flits l with
  | [] => s
  | f :: fs =>
    let s' := s.updTile t fun u => u.setFlits l fs
    match s.useOf w t l f with
    | some x => s'.updTile t fun u => u.take x.bHalf ⟨f.cmd, f.key, 1, f.need, f.size, f.cells⟩ f.scales
    | none => s'

/-- A tile that has nowhere to forward takes flits while its buffer has room (R83). -/
def State.drainLink (w : Work) (t : Nat) (l : Link) : Nat → State → State
  | 0, s => s
  | f + 1, s => if !s.forwards w t l && s.canTake w t l then State.drainLink w t l f (s.takeFlit w t l) else s

/-- A tile takes what its row and column links hold, as far as its buffer has room, where it has nowhere to forward it (R83). -/
def State.drainLinks (s : State) (w : Work) (t : Nat) : State := State.drainLink w t .col 8 (State.drainLink w t .row 8 s)

/-- The even-parity bit over a flit's data (R82). -/
def parityOf (cs : List Host.Cell) : Bool := cs.foldl (fun b c => b != ((List.range 8).foldl (fun x i => x != c.2.getLsbD i) false)) false

/-- A flit with bits of its data flipped on its way; bits past the bytes the stream has there belong to its padding. -/
def Flit.flip (f : Flit) (bits_ : List Nat) : Flit :=
  { f with cells := bits_.foldl (fun cs i => updAt cs (i / 8) fun c => (c.1, c.2 ^^^ (1#8 <<< (i % 8)))) f.cells }

/-- The parity of a received flit does not match its bit: flips in the padding count as data (R82). -/
def Flit.badParity (f g : Flit) (bits_ : List Nat) : Bool :=
  (parityOf g.cells != (decide ((bits_.filter fun i => decide (8 * f.cells.length ≤ i)).length % 2 = 1))) != f.parity

/-- A flit enters the link into a tile: one whose parity is wrong aborts the command (R82, R336). -/
def State.landFlit (s : State) (w : Work) (t : Nat) (l : Link) (f : Flit) (upset : List Nat) : State :=
  let g := f.flip upset
  if f.badParity g upset then s.tileFault t 0x0601 (t % 512 + linkCode l * 512)
  else State.drainLink w t l 8 (s.updTile t fun u => u.setFlits l (u.flits l ++ [g]))

end Sys2Proof.Machine
end

