-- ==== Sys2Proof/Machine/Feeding.lean ====
section
/-! DEFINITION. Feeding: the fetch sequences of a command and the threads that serve them, the channel caches, the Projection
and Spur buffers, fills and their responses, the invalidation filter, convoys and the scrubber (R43, R54, R73, R89, R200, R215,
R219 to R228, R232 to R240, R392, R393, R398, R399). -/

namespace Sys2Proof.Machine

open Sys2Proof

/-! ## What an operand block is read from (R71, R200) -/

/-- The numbers of a list, each once, in order of first appearance. -/
def onceNat (l : List Nat) : List Nat := l.foldl (fun acc x => if acc.contains x then acc else acc ++ [x]) []

/-- The slot of the operand a block belongs to (R35, R74). -/
def Work.slotOf (w : Work) (k : OpKey) : Nat :=
  let op := w.cmd.op
  let weight := op == 3 || op == 7 || ((op == 1 || op == 5) && (w.ps[k.prod]?).any fun p => p.intoRegion)
  if op = 4 || op = 8 then (if k.second then 1 else 0)
  else if weight then (if k.second then 2 else 0)
  else if k.second then 1 else 2

/-- TIER_HINT of a slot (R316). -/
def Cmd.hint (c : Cmd) (prob slot : Nat) : Nat := bits (c.rawSlot prob slot) 123 2

/-- TIER_HINT of the operand a block belongs to. -/
def Work.hintOf (w : Work) (k : OpKey) : Nat :=
  w.cmd.hint (if w.cmd.op = 5 then 0 else ((w.ps[k.prod]?).map (·.group)).getD 0) (w.slotOf k)

/-- The bytes an operand block is read from, and those of its scales and zero points: elements inside the actual extents (R185),
a stored block whole (R200). -/
def Work.blkReads (w : Work) (k : OpKey) : List Nat × List Nat :=
  match w.view k with
  | none => ([], [])
  | some (p, v) =>
    let t := v.t
    let rs := span (32 * k.panel) (min (32 * k.panel + 32) (if k.second then p.no else p.mo))
    let ks := span (32 * k.kb) (min (32 * k.kb + 32) p.kr)
    let locs := rs.flatMap fun r => ks.filterMap fun i => v.loc r i
    let els := match k.slot with
      | some n => span (t.base + n * t.blockBytes) (t.base + (n + 1) * t.blockBytes)
      | none => locs.flatMap fun x =>
          let a := t.bitAt t.fmt.storeBits x.1 x.2
          span (a / 8) (cdiv (a + t.fmt.storeBits) 8)
    let idx := onceNat (match t.mode, k.slot with
      | 0, _ => []
      | 1, _ => locs.map (·.1)
      | _, some n => [n]
      | _, none => locs.map fun x => t.scaleIdx x.1 x.2)
    (onceNat els, idx.flatMap (fun i => span (t.scaleAddr i) (t.scaleAddr i + t.scaleBytes))
      ++ (if t.zpCount = 0 then [] else onceNat (locs.map fun x => t.zpAddr x.1)))

/-- The lines of an operand block, in order of use. -/
def Work.blkLines (w : Work) (k : OpKey) : List Nat := let r := w.blkReads k; onceNat ((r.1 ++ r.2).map lineOf)

/-! ## Fetch sequences (R43, R53, R73, R221) -/

/-- A fetch sequence of operand blocks. -/
def State.blockSeq (s : State) (w : Work) (stream : StreamId) (slab : Nat × Nat) (ks : List OpKey) : Thread :=
  let blks := ks.map fun k => (k, w.blkLines k)
  { Thread.init with
    st := .ready, cmd := some w.cmd.id, stream := stream, slab := slab, blks := blks
    todo := blks.flatMap fun b => b.2.map fun l => ⟨l, s.prefetch l (w.hintOf b.1)⟩
    slot := (ks.head?.map w.slotOf).getD 15 }

/-- A fetch sequence of lines that are no operand blocks. -/
def State.lineSeq (s : State) (id : CmdId) (stream : StreamId) (slab : Nat × Nat) (slot hint : Nat) (ls : List Nat) : Thread :=
  { Thread.init with
    st := .ready, cmd := some id, stream := stream, slab := slab, todo := ls.map fun l => ⟨l, s.prefetch l hint⟩, slot := slot }

/-- The operand blocks a tile uses in one slab of the permutable loop, in order. -/
def State.slabUses (s : State) (w : Work) (k : Nat × Nat) (t : Nat) : List Use :=
  let sheets := (List.range w.bs.length).flatMap fun n =>
    match w.blk n with
    | some (b, _) => if !b.part && b.tile == t && w.slabKey n == k then s.sheetUses w n 0 else []
    | none => []
  let parts := (List.range w.ps.length).flatMap fun i =>
    match w.ps[i]? with
    | some p =>
      if p.df = 0 then []
      else (List.range p.rh).flatMap fun x =>
        if (s.colOf w.arr p x t).isNone then []
        else ((partOrder w i x p).filter fun r => w.slabKey r.blk == k).flatMap fun r => s.refUses w t r 0
    | none => []
  orderUses (dedupUses (sheets ++ parts))

/-- The first product placed on the rectangle of a product. -/
def Work.rectNo (w : Work) (i : Nat) : Nat :=
  match w.ps[i]? with
  | some p => (w.ps.findIdx? fun q =>
      q.rr == p.rr && q.rc == p.rc && q.rh == p.rh && q.rw == p.rw && q.round == p.round).getD i
  | none => i

/-- The fetch sequences of one slab, each with its channel (R73, R221): visit by visit the row streams, injected by the channels of
the rectangle's west edge, the column streams, by those of its north edge, and the stationary regions, by each tile's own. A
block that several tiles use is fetched once and forwarded. -/
def State.slabSeqs (s : State) (w : Work) (k : Nat × Nat) : List (Nat × Thread) :=
  match ((List.range w.bs.length).find? fun n => w.slabKey n == k).bind w.blk with
  | none => []
  | some (b0, p) =>
    let j := w.rectNo b0.prod
    let at_ := fun x y => s.tileAt w.arr (p.rr + x) (p.rc + y)
    let uses := (List.range p.rh).map fun x => (List.range p.rw).map fun y => s.slabUses w k (at_ x y)
    let here := fun x y => (uses.getD x []).getD y []
    let pick := fun (way : Way) (l : List Use) => orderUses (dedupUses (l.filter fun u => u.way == way))
    let rows := (List.range p.rh).map fun x => (StreamId.row j x, at_ x 0, pick .row ((List.range p.rw).flatMap fun y => here x y))
    let cols := (List.range p.rw).map fun y => (StreamId.col j y, at_ 0 y, pick .col ((List.range p.rh).flatMap fun x => here x y))
    let loads := (List.range p.rh).flatMap fun x => (List.range p.rw).map fun y =>
      (StreamId.load (at_ x y), at_ x y, pick .load (here x y))
    let all := rows ++ cols ++ loads
    let vs := sortBy (fun a b => decide (a ≤ b)) (onceNat (all.flatMap fun q => q.2.2.map fun u => u.key.visit))
    vs.flatMap fun v => all.filterMap fun q =>
      let ks := (q.2.2.filter fun u => u.key.visit == v).map (·.key)
      if ks.isEmpty then none else some (s.build.size.chanOf q.2.1, s.blockSeq w q.1 k ks)

/-- The slot of a command's accumulating destination. -/
def Cmd.regionSlot (c : Cmd) : Nat := if c.op = 2 || c.op = 4 || c.op = 6 then 3 else 4

/-- The reads of the accumulation regions that the blocks of one slab drain into, by the channel that drains each: a sheet's
tile's, a partial block's east edge's (R52, R73). -/
def State.regionSeqs (s : State) (w : Work) (k : Nat × Nat) : List (Nat × Thread) :=
  let reads := (List.range w.bs.length).filterMap fun n =>
    match w.blk n with
    | some (b, p) =>
      match p.dst with
      | .region t i =>
        let r := s.region w.cmd.ctx i
        if w.slabKey n != k || b.num != 0 || r.rstate != 1 then none
        else
          let eb := if r.long then 128 else 32
          let tile := if b.part then s.partTile w b p (p.rw - 1) else b.tile
          some (s.build.size.chanOf tile,
            (b.outs p).flatMap fun o => linesOf (r.readAt (t.bitAt eb (p.rowOf o.1) o.2 / 8)) (eb / 8))
      | _ => none
    | none => none
  (onceNat (reads.map (·.1))).map fun ch =>
    (ch, s.lineSeq w.cmd.id (.region w.cmd.regionSlot) k w.cmd.regionSlot (w.cmd.hint k.1 w.cmd.regionSlot)
      (onceNat ((reads.filter fun x => x.1 == ch).flatMap (·.2))))

/-- The lines of a command's operand, with its scales and metadata. -/
def State.spanLines (s : State) (x : Chk) (o : Opnd) : List Nat := onceNat ((s.spans x o).flatMap fun r => linesOf r.2.1 r.2.2)

/-- The metadata streams of a command (R200, R190, R221): strip headers and list pairs of its sparse operands; the row
indices of the groups of a GP_GROUPED, whose pointer list the Footpath has read (R236). -/
def State.metaSeqs (s : State) (c : Cmd) : List Thread :=
  let x : Chk := ⟨c, s.opnds c true, true, c.run.mode⟩
  let sparse := (x.os.filter fun o => o.t.sparse != 0 && c.isArrayOp).map fun o =>
    let red0 := sparseRed0 c.op o.slot o.t
    let heads := linesOf o.t.zp (16 * (o.t.panels red0 * o.t.strips red0))
    let pairs := if o.t.sparse = 2 then linesOf (o.t.listAt red0) (8 * o.t.e3) else []
    s.lineSeq c.id (.list o.slot) (0, 0) o.slot (c.hint o.prob o.slot) (onceNat (heads ++ pairs))
  let lists := if c.op = 5 then
      [s.lineSeq c.id (.list 15) (0, 0) 15 0 (onceNat ((s.gentries c).flatMap fun g => linesOf g.rowidx (4 * g.rows)))]
    else []
  (sparse ++ lists).filter fun th => !th.todo.isEmpty

/-- The operands of a Spur command (R89, R221). -/
def State.spurSeqs (s : State) (c : Cmd) : List Thread :=
  let x : Chk := ⟨c, s.opnds c true, true, c.run.mode⟩
  (x.os.filter fun o => !isDest c.op o.slot).map fun o =>
    s.lineSeq c.id (.spur o.slot) (o.prob, 0) o.slot (c.hint o.prob o.slot) (s.spanLines x o)

/-- The channels whose feeders serve a command. -/
def State.feedChans (s : State) (c : Cmd) : List Nat :=
  match c.run.arr with
  | some a => s.arrChans a
  | none => if c.run.spur then (List.range 4).filter s.chOn else []

/-- Deal sequences that no edge or tile places to the channels of a command in turn (log 23). -/
def dealSeqs (chs : List Nat) (qs : List Thread) : List (Nat × Thread) :=
  if chs.isEmpty then []
  else (List.range qs.length).map fun i => (chs.getD (i % chs.length) 0, qs.getD i Thread.init)

/-- The sequences of an operation's blocks in visiting order (R53, R76). -/
def State.blockSeqs (s : State) (w : Work) : List (Nat × Thread) := w.slabs.flatMap fun k => s.slabSeqs w k ++ s.regionSeqs w k

/-- Hand sequences to the sequencers of their channels. -/
def State.queueSeqs (s : State) (qs : List (Nat × Thread)) : State :=
  { s with feed := { s.feed with queue := qs.foldl (fun q x => updAt q x.1 fun l => l ++ [x.2]) s.feed.queue } }

/-! ## Threads (R221, R222) -/

/-- A feeder thread. -/
def State.thread (s : State) (ch i : Nat) : Thread := (s.feed.threads.getD ch []).getD i Thread.init

/-- Change a feeder thread. -/
def State.setThread (s : State) (ch i : Nat) (f : Thread → Thread) : State :=
  { s with feed := { s.feed with threads := updAt s.feed.threads ch fun l => updAt l i f } }

/-- The first sequence of a queue whose stream no thread serves yet: a stream's sequences are served one after the other. -/
def nextSeq (ths : List Thread) : List Thread → Option (Thread × List Thread)
  | [] => none
  | q :: qs =>
    if ths.any fun th => th.cmd == q.cmd && th.stream == q.stream then (nextSeq ths qs).map fun x => (x.1, q :: x.2)
    else some (q, qs)

/-- The sequencer of a channel assigns waiting sequences to its FREE threads, in order (R221). -/
def State.giveThreads (ch : Nat) : Nat → State → State
  | 0, s => s
  | f + 1, s =>
    let ths := s.feed.threads.getD ch []
    match ths.findIdx? fun th => th.st == .free, nextSeq ths (s.feed.queue.getD ch []) with
    | some i, some (q, qs) =>
      State.giveThreads ch f
        (State.setThread { s with feed := { s.feed with queue := setAt s.feed.queue ch qs } } ch i fun _ => q)
    | _, _ => s

/-- A thread's first block has all its lines. -/
def Thread.headDone (th : Thread) : Bool := match th.blks with | (_, ls) :: _ => decide (ls.length ≤ th.buf.length) | [] => true

/-- A thread's consumer has room for a line: the buffer of the Spur's group, 128 KiB of the 512 KiB (R89). DESIGN CHOICE (log
155): of operand blocks the feeder itself holds 64 lines, and more while the first block is not whole. -/
def State.threadRoom (s : State) (ch : Nat) (th : Thread) : Bool :=
  match th.stream with
  | .spur _ => decide ((s.feed.spur.getD ch []).length < 512)
  | .list _ | .region _ => true
  | _ => decide (th.buf.length < 64) || !th.headDone

/-- A thread can issue its next line request: it keeps at most 16 outstanding (R222). -/
def State.canIssue (s : State) (ch : Nat) (th : Thread) : Bool :=
  !th.todo.isEmpty && decide (th.outst.length < 16) && s.threadRoom ch th

/-- How a thread waits for lines it has asked for: at a memory port where every line that is missing has its fill pending there, else at
an Atlas bank (R221). -/
def State.waitState (s : State) (ch i : Nat) : TState := if (s.atBanks ch i).isEmpty then .waitMemory else .waitAtlas

/-- The state of a thread after an event (R221): FREE at the end of its sequence, READY when it can issue again, else waiting for
what it has asked for, or for room. -/
def State.settleThread (s : State) (ch i : Nat) : State :=
  let th := s.thread ch i
  if th.todo.isEmpty && th.outst.isEmpty && th.buf.isEmpty && th.blks.isEmpty then s.setThread ch i fun _ => Thread.init
  else
    let missing := th.outst.filter fun o => !o.2
    let wait := s.waitState ch i
    let st : TState :=
      if (th.st == .waitAtlas || th.st == .waitMemory) && !missing.isEmpty then wait
      else if s.canIssue ch th then (if th.st == .active then .active else .ready)
      else if missing.isEmpty then .waitSpace
      else wait
    s.setThread ch i fun th => { th with st := st, active := if st = .active then th.active else 0 }

/-! ## Delivery (R215, R220, R222) -/

/-- A line enters a channel cache: eight ways a set, the least recently used leaves (R220; log 24). -/
def cchInsert (cache : List Nat) (l : Nat) : List Nat :=
  let others := cache.filter (· != l)
  let mine := (others.filter fun x => x % 1024 == l % 1024).take 7
  l :: others.filter fun x => x % 1024 != l % 1024 || mine.contains x

/-- A line comes from the Atlas to a channel: its cache holds it, its Atlas way is the most recent. -/
def State.comeLine (s : State) (ch l : Nat) : State :=
  let s := (s.touchLine l).came l
  { s with feed := { s.feed with cch := updAt s.feed.cch ch fun c => cchInsert c l } }

/-- A channel cache may deliver a line: it holds it and no filtered range overlaps it (R220, R232). -/
def State.cached (s : State) (ch l : Nat) : Bool := (s.feed.cch.getD ch []).contains l && !s.filtered l

/-- A line leaves a channel cache for its thread's consumer, with the bytes it holds now (R215): metadata to the command, a Spur
operand to the Spur's buffer, a region's old values to the drain, which adds to them, operand blocks to the tiles. -/
def State.handLine (s : State) (ch i l : Nat) : State :=
  let th := s.thread ch i
  let d := (l, (List.range 256).map fun k => s.bulkByte (l * 256 + k))
  match th.stream, th.cmd with
  | .list _, some id => s.updCmd id fun c => { c with streams := keepCells c.streams (lineCells d) }
  | .spur _, some id => { s with feed := { s.feed with spur := updAt s.feed.spur ch fun x => x ++ [(id, d)] } }
  | .region _, some id => s.updCmd id fun c => { c with regIn := keepCells c.regIn (lineCells d) }
  | _, _ => s.setThread ch i fun th => { th with buf := th.buf ++ [d] }

/-- A thread's request for a line that its channel cache does not hold takes its place in the order of the requests (R221, R226). -/
def State.askLine (s : State) (ch i l : Nat) : State :=
  let still := fun (x : Nat × Nat × Nat) => x != (ch, i, l) && (s.thread x.1 x.2.1).outst.contains (x.2.2, false)
  { s with feed := { s.feed with asked := s.feed.asked.filter still ++ [(ch, i, l)] } }

/-- A thread delivers the lines that have come in the order of its sequence, while its consumer has room (R222). A line that has
left the channel cache before that is requested again. -/
def State.deliverLines (ch i : Nat) : Nat → State → State
  | 0, s => s
  | f + 1, s =>
    match (s.thread ch i).outst with
    | (l, true) :: rest =>
      if !s.threadRoom ch (s.thread ch i) then s
      else if s.cached ch l then
        State.deliverLines ch i f ((s.handLine ch i l).setThread ch i fun th => { th with outst := rest })
      else (s.setThread ch i fun th => { th with outst := (l, false) :: rest }).askLine ch i l
    | _ => s

/-! ## The load bus and the Projection buffers (R44, R54, R72) -/

/-- An operand block of a region for the load bus passes through the Projection buffer: a stationary operand that is transposed
(R36, R54). -/
def State.projected (s : State) (w : Work) (k : OpKey) : Bool :=
  s.build.size.projection &&
  match w.view k, w.ps[k.prod]? with
  | some (_, v), some p =>
    (p.df == 1 || p.df == 2 || p.df == 3) && k.second == (p.df != 2)
      && (if w.cmd.op = 4 then v.t.unit != 0 else v.t.wTransposed)
  | _, _ => false

/-- A whole operand block from the lines that hold it: its element bytes, and its scales. -/
def Work.blkCells (w : Work) (k : OpKey) (ls : List (Nat × List Byte)) : List Host.Cell × List Host.Cell :=
  let src := ls.flatMap lineCells
  let r := w.blkReads k
  let pick := fun (as : List Nat) => src.filter fun c => as.contains c.1
  (pick r.1, pick r.2)

/-- The first block of a thread has left for its consumer. -/
def Thread.popBlk (th : Thread) : Thread :=
  { th with buf := th.buf.drop ((th.blks.head?.map (·.2.length)).getD 0), blks := th.blks.drop 1, sent := 0 }

/-- The load bus puts a block into the half of a tile's operand buffer that it is for; a block the tile has no use for any more is
dropped. The second component says that it has left. -/
def State.loadBlk (s : State) (w : Work) (t : Nat) (x : OpBlk) (scales : List Host.Cell) : State × Bool :=
  match (s.needs w t).find? fun u => u.key == x.key && u.way == .load with
  | none => (s, true)
  | some u => if s.roomFor w t u then (s.updTile t fun v => v.take u.bHalf x scales, true) else (s, false)

/-- Bytes in the Projection buffer of a channel. -/
def State.projUsed (s : State) (ch : Nat) : Nat := (s.feed.proj.getD ch []).foldl (fun n x => n + x.2.size) 0

/-- Blocks of a command leave a channel's Projection buffer for their tiles, each tile's in order of request (R54; log 158). -/
def State.pumpProj (s : State) (w : Work) (ch : Nat) : State :=
  let r := (s.feed.proj.getD ch []).foldl (fun (a : State × List (Nat × OpBlk)) x =>
    if x.2.cmd != w.cmd.id || a.2.any (fun y => y.1 == x.1 && y.2.cmd == x.2.cmd) then (a.1, a.2 ++ [x])
    else
      let as := (w.blkReads x.2.key).1
      let (els, sc) := x.2.cells.partition fun c => as.contains c.1
      let (s', gone) := a.1.loadBlk w x.1 { x.2 with cells := els } sc
      (s', if gone then a.2 else a.2 ++ [x])) (s, [])
  { r.1 with feed := { r.1.feed with proj := setAt r.1.feed.proj ch r.2 } }

/-- Whole blocks of a load thread leave for the Projection buffer, where it has room, or for their tile (R54, R72; log 158). -/
def State.pumpLoad (w : Work) (ch i : Nat) : Nat → State → State
  | 0, s => s
  | f + 1, s =>
    let th := s.thread ch i
    match th.stream, th.blks with
    | .load t, (k, ls) :: _ =>
      if th.cmd != some w.cmd.id || !th.headDone then s
      else
        let (els, sc) := w.blkCells k (th.buf.take ls.length)
        let n := w.blkFlits k
        let x : OpBlk := ⟨w.cmd.id, k, n, n, w.blkSize k, els⟩
        let (s', gone) :=
          if s.projected w k then
            if s.projUsed ch + x.size ≤ 1048576 then
              ({ s with feed := { s.feed with proj := updAt s.feed.proj ch fun l => l ++ [(t, { x with cells := els ++ sc })] } }, true)
            else (s, false)
          else s.loadBlk w t x sc
        if gone then State.pumpLoad w ch i f (s'.setThread ch i Thread.popBlk) else s
    | _, _ => s

/-- The command on the array of a channel. -/
def State.opOfCh (s : State) (ch : Nat) : Option Cmd := (s.arrs.getD (s.arrOfCh ch) Arr.init).op.bind s.cmd

/-- The work of the begun array operation of a channel. -/
def State.workOfCh (s : State) (ch : Nat) : Option Work :=
  (s.opOfCh ch).bind fun c => if c.phase == .begun && c.isArrayOp && !c.run.spur then some (s.work c) else none

/-- What has come moves on: threads deliver, regions load, and each thread takes the state that leaves it in. -/
def State.pumpCh (s : State) (ch : Nat) : State :=
  let s := (List.range 32).foldl (fun s i => State.deliverLines ch i 16 s) s
  let s := match s.workOfCh ch with
    | some w => (List.range 32).foldl (fun s i => State.pumpLoad w ch i (s.thread ch i).blks.length s) (s.pumpProj w ch) |>.pumpProj w ch
    | none => s
  (List.range 32).foldl (fun s i => s.settleThread ch i) s

/-! ## Placing an operation's work (R50, R200, R221) -/

/-- The metadata of a command is still to be read. -/
def State.metaLeft (s : State) (id : CmdId) : Bool :=
  (s.feed.threads ++ s.feed.queue).any fun l => l.any fun th =>
    th.cmd == some id && match th.stream with | .list _ => true | _ => false

/-- The fused anchor survey of a command reads each operand once, ahead of the sheets, and every block's anchor is known from it; a block
that takes its anchor from a named map reads it when it is due (R143). DESIGN CHOICE (log 178): the reads are at once, when the
operation's blocks are placed. -/
def State.fuseSurvey (s : State) (w : Work) : State :=
  let x : Chk := ⟨w.cmd, s.opnds w.cmd true, true, w.cmd.run.mode⟩
  if s.fusedAnchor x then
    (s.readBytes ((x.os.filter fun o => !isDest w.cmd.op o.slot && o.slot < 3).flatMap fun o => (s.spans x o).map (·.2))).fixAnchors w
  else s

/-- The slabs of an operation that have not begun are visited, and their sequences wait, in the skewed order (R228). -/
def State.reorder (s : State) (c : Cmd) (w : Work) : State :=
  let order := s.skewed w
  let s := s.skewTiles w order
  let turn := fun (l : List Thread) (q : Nat × List Nat) =>
    let pick := fun (th : Thread) => th.cmd == some c.id && th.slab.1 == q.1 && q.2.contains th.slab.2
    refill pick l (q.2.flatMap fun x => l.filter fun th => pick th && th.slab.2 == x)
  { s with feed := { s.feed with queue := s.feed.queue.map fun l => order.foldl turn l } }

/-- Once the metadata of an array operation has come, its blocks are placed on its tiles and their sequences set up, in the skewed order
where a convoy has come before (R228). -/
def State.placeWork (s : State) (id : CmdId) : State :=
  match s.cmd id with
  | none => s
  | some c =>
    match c.run.arr with
    | none => s
    | some a =>
      if c.phase != .begun || (s.arrs.getD a Arr.init).op != some id || (s.arrs.getD a Arr.init).fed || s.metaLeft id then s
      else
        let s := State.placeJobs { s with arrs := updAt s.arrs a fun x => { x with fed := true } } c
        let w := s.work c
        let s := (s.fuseSurvey w).queueSeqs (s.blockSeqs w)
        (if (s.arrs.getD a Arr.init).skewed then s.reorder c w else s).assignAll w

/-- The operation on a channel's array is placed when its metadata has come. -/
def State.placeCh (s : State) (ch : Nat) : State := match s.opOfCh ch with | some c => s.placeWork c.id | none => s

/-- The sequences of a command that begins (R221). -/
def State.startThreads (s : State) (c : Cmd) : State :=
  let qs := if c.run.spur then s.spurSeqs c else s.metaSeqs c
  let s := (s.queueSeqs (dealSeqs (s.feedChans c) qs)).placeWork c.id
  (s.feedChans c).foldl (fun s ch => State.giveThreads ch 32 s) s

/-! ## Line requests (R89, R222) -/

/-- The ACTIVE thread of a channel, or the next READY one in round-robin order; an ACTIVE thread yields after 64 cycles while
another is READY (R221, R222). -/
def State.activeThread (s : State) (ch : Nat) : Option Nat :=
  let cur := s.feed.turn.getD ch 0
  let next := ((List.range 32).map fun k => (cur + 1 + k) % 32).find? fun i => (s.thread ch i).st == .ready
  if (s.thread ch cur).st == .active && (decide ((s.thread ch cur).active < 64) || next.isNone) then some cur else next

/-- Issue line reads to the channel cache, up to the count given: those it holds have come (R222). -/
def State.issueLines (ch i : Nat) : Nat → State → State
  | 0, s => s
  | f + 1, s =>
    match (s.thread ch i).todo with
    | [] => s
    | x :: xs =>
      if !s.canIssue ch (s.thread ch i) then s
      else
        let hit := s.cached ch x.line
        let s' := (s.demandRead x.line).setThread ch i fun th =>
          { th with todo := xs, ahead := th.ahead - 1, outst := th.outst ++ [(x.line, hit)] }
        State.issueLines ch i f (if hit then s' else s'.askLine ch i x.line)

/-- One cycle of the ACTIVE thread: up to 8 line reads; a miss among them takes it to WAIT_ATLAS (R221, R222). -/
def State.activeCycle (s : State) (ch i : Nat) : State :=
  let n := if (s.thread ch i).st == .active then (s.thread ch i).active + 1 else 1
  let before := (s.thread ch i).outst.length
  let cur := s.feed.turn.getD ch 0
  let s := s.setThread ch cur fun th => if th.st == .active && cur != i then { th with st := .ready, active := 0 } else th
  let s := State.issueLines ch i 8 { s with feed := { s.feed with turn := setAt s.feed.turn ch i } }
  s.setThread ch i fun th =>
    { th with st := if (th.outst.drop before).any (fun o => !o.2) then .waitAtlas else .active, active := n }

/-- A request of a thread waits at its bank behind another that was made before it (R221, R226; DESIGN CHOICE, log 211). -/
def State.behind (s : State) (ch i l : Nat) : Bool :=
  let b := s.build.size.bank l
  (s.feed.asked.takeWhile fun x => x != (ch, i, l)).any fun x => s.build.size.bank x.2.2 == b && (s.atBanks x.1 x.2.1).contains x.2.2

/-- The cause the feeder reports for a line a thread awaits, by the order numbers of R226: 6 PREFETCH_LOST, 7 BANK_CONVOY, 8
PORT_BACKPRESSURE, 9 OPERAND_MISS, 10 ATLAS_BANK_CONFLICT; 0 for none. -/
def State.lineCause (s : State) (ch i l : Nat) : Nat :=
  let convoy := s.feed.convoy.getD ch none
  if s.feed.refetch.contains l then 6
  else if convoy.any fun b => (s.thread ch i).st == .waitAtlas && ((s.atBanks ch i).map s.build.size.bank).contains b then 7
  else if (s.aline l).isNone && s.portFull l then 8
  else if (s.aline l).isNone && s.filling l then 9
  else if (s.aline l).isSome && s.behind ch i l then 10
  else 0

/-- The cause the feeder reports for a thread that waits: that of the first line it awaits; 0 for none. -/
def State.threadCause (s : State) (ch i : Nat) : Nat :=
  match (s.thread ch i).outst.find? fun o => !o.2 with
  | none => 0
  | some (l, _) => s.lineCause ch i l

/-- The counter a cause of R226 has (R422): FEEDER_EMPTY where none applies. -/
def causeStall : Nat → Stall
  | 1 => .fenceWait | 2 => .datumWait | 3 => .mosaicWait | 4 => .traverseWait | 5 => .surveyWait | 6 => .prefetchLost
  | 7 => .bankConvoy | 8 => .portBackpressure | 9 => .operandMiss | 10 => .bankConflict | _ => .feederEmpty

/-- The cause for the oldest waiting lane of the Spur commands given: that of the oldest of their requests that is unanswered; 0 where
none is out. DESIGN CHOICE (log 208): the manual does not say which request a lane awaits (R226, R367). -/
def State.laneCause (s : State) (ids : List CmdId) : Nat :=
  let mine := fun (x : Nat × Nat × Nat) => let th := s.thread x.1 x.2.1; th.outst.contains (x.2.2, false) && th.cmd.any ids.contains
  match s.feed.asked.find? mine with
  | some (ch, i, l) => s.lineCause ch i l
  | none => 0

/-- The Spur lanes of a channel wait a cycle on the operands of the Spur commands that run, whichever feeders fetch them: it counts once
for the group, under the cause of its oldest waiting lane (R89, R226, R367). -/
def State.countSpurWait (s : State) (ch : Nat) : State :=
  let waits := fun (c : Cmd) =>
    let outs := (s.cmdProds c).foldl (fun n p => n + p.mo * p.no) 0
    c.phase == .begun && c.run.spur && s.spurGroups.any (fun g => g.1 == ch && decide (g.2 < outs))
      && (s.feed.threads ++ s.feed.queue).any fun l => l.any fun th => th.cmd == some c.id
  match (s.cmds.filter waits).map (·.id) with
  | [] => s
  | ids => s.countWork 8 ch 0 [((causeStall (s.laneCause ids)).idx, 1)]

/-- LINE_REQUEST: a channel-spine cycle of a feeder: the sequencer assigns waiting sequences to FREE threads, and the ACTIVE thread
issues up to 8 line reads (R221, R222). -/
def execLineRequest (ch : Nat) (s : State) : Host.Outcome State Fault Refusal :=
  .next (
    if !s.alive || !s.chOn ch then s
    else
      let s := State.giveThreads ch 32 (s.countSpurWait ch)
      match s.activeThread ch with
      | none => s
      | some i => (((s.activeCycle ch i).pumpCh ch).placeCh ch).endConvoys.pumpLook)

/-- An uncorrectable error: counted, with its SAFETY record (R240, R336, R360). -/
def State.sramError (s : State) (code store word action : Nat) (ch : Option Nat) : State :=
  (s.addLife 25 1).safety code ch none action (store % 256 + word % 2 ^ 56 * 256)

/-- The cause of an uncorrectable error (R339). -/
def sramCause (store word : Nat) : Cause := Cause.own 0x0605 (store % 256 + word % 2 ^ 56 * 256)

/-- A line a thread has asked for has come: every request of it the thread has outstanding is served. -/
def Thread.come (l : Nat) (th : Thread) : Thread :=
  { th with st := .ready, outst := th.outst.map fun o => if o.1 = l then (l, true) else o }

/-- The context of a thread's command. -/
def State.threadCtx (s : State) (th : Thread) : Nat := ((th.cmd.bind s.cmd).map (·.ctx)).getD 0

/-- A command waits for the response to a demand read. -/
def State.awaitRead (s : State) (th : Thread) (l : Nat) : State :=
  match th.cmd with | some id => s.updCmd id fun c => { c with reads := c.reads ++ [l] } | none => s

/-- A thread's request for a line misses the Atlas: it joins the fill on its way, or sends one where the limits allow (R219,
R392). -/
def State.missLine (s : State) (ch i l : Nat) : State :=
  let wait := fun (s : State) => (s.setThread ch i fun th => { th with st := s.waitState ch i }).awaitRead (s.thread ch i) l
  if s.filling l then
    let join := fun (f : Fill) => if f.line = l then { f with kind := .demand, waiters := f.waiters ++ [(ch, i)], asked := f.asked ++ [ch] } else f
    wait { s with feed := { s.feed with fills := s.feed.fills.map join } }
  else if s.canFill l false then wait (s.sendFill l (s.threadCtx (s.thread ch i)) .demand [(ch, i)])
  else s

/-- The first line a thread has outstanding for which it has no fill on its way. -/
def State.wanted (s : State) (ch i : Nat) : Option Nat := (s.atBanks ch i).head?

/-- ATLAS_LINE_ARRIVE: a request of a thread is served by its bank (R220, R221): the line comes, or it is missed and its fill is
sent; a filtered line is not delivered (R232). An error in the line drops it and aborts the command (R240); the word address
within the store is a free value. -/
def execAtlasLineArrive (ch i : Nat) (bad : Bool) (s : State) : Host.Outcome State Fault Refusal :=
  .next (
    match s.wanted ch i with
    | none => s
    | some l =>
      let th := s.thread ch i
      if !s.alive || !s.chOn ch then s
      else if (s.aline l).isNone then (s.missLine ch i l).endConvoys
      else if s.filtered l then s
      else if bad then
        let w := Config.freeNat s.free 0
        let s := State.sramError { s with feed := s.feed.dropLine l, free := s.free + 1 } 0x0605 0 w 0 (some ch)
        match th.cmd with
        | some id => (s.abort id { (sramCause 0 w) with slot := th.slot }).endConvoys
        | none => s
      else (((((s.comeLine ch l).setThread ch i (Thread.come l)).pumpCh ch).placeCh ch)).endConvoys)

/-- The run-ahead pointer of a thread passes lines while each lies within its own range's distance, and stops at a fill that cannot
be sent (R223). A line of a range with run-ahead off is passed without a request. -/
def State.runAhead (ctx : Nat) : List SeqLine → Nat → State → State × Nat
  | [], n, s => (s, n)
  | x :: xs, n, s =>
    if x.dist = 0 || (decide (n * 256 < x.dist) && s.prefilled x.line) then State.runAhead ctx xs (n + 1) s
    else if decide (n * 256 < x.dist) && s.canFill x.line true then State.runAhead ctx xs (n + 1) (s.sendFill x.line ctx .ahead [])
    else (s, n)

/-- RUN_AHEAD: the run-ahead pointer of a stream thread issues fill-only requests up to its distance (R223). -/
def execRunAhead (ch i : Nat) (s : State) : Host.Outcome State Fault Refusal :=
  .next (
    let th := s.thread ch i
    if !s.alive || !s.chOn ch || th.st == .free then s
    else
      let r := State.runAhead (s.threadCtx th) (th.todo.drop th.ahead) th.ahead s
      r.1.setThread ch i fun th => { th with ahead := r.2 })

/-! ## Responses on the MEM ports (R225, R233, R393) -/

/-- The detail of MEM_RESPONSE (R339). -/
def memDetail (line port : Nat) (r : Resp) : Nat := line * 256 + port % 16 * 2 ^ 52 + r.code * 2 ^ 56

/-- Requests are outstanding on an engine that has stopped: their responses are accepted and discarded (R343, R401). -/
def State.stopped (s : State) : Bool := s.flt.out || s.pins.sysreset

/-- The slot of a command one of whose ranges holds a line; 15 where none does. -/
def State.slotOfLine (s : State) (c : Cmd) (dest : Bool) (line : Nat) : Nat :=
  let x : Chk := ⟨c, s.opnds c true, true, c.run.mode⟩
  match x.os.find? fun o => (if dest then isDest c.op o.slot else isRead c.op o.slot) && (s.spanLines x o).contains line with
  | some o => o.slot
  | none => 15

/-- A fill has come back good (R219, R231, R233): the line is installed, and the threads that wait for it go on. -/
def State.takeFill (s : State) (f : Fill) : State :=
  let data := s.memBytes (f.line * 256) 256
  match f.kind with
  | .demand =>
    if f.waiters.isEmpty then s
    else
      let s := f.waiters.foldl (fun s w => (s.comeLine w.1 f.line).setThread w.1 w.2 (Thread.come f.line))
        (s.install f.line data none false)
      (onceNat (f.waiters.map (·.1))).foldl (fun s ch => (s.pumpCh ch).placeCh ch) s
  | .ahead => if (s.aline f.line).isSome then s else s.install f.line data none true
  | .look u =>
    if (s.aline f.line).isSome then s
    else if u ≤ s.dat.pulses then s.install f.line data none true
    else if s.setFull f.line then s.addPerf .laDrop 1
    else s.install f.line data (some u) true

/-- A command waits for a line no longer. -/
def State.readDone (s : State) (line : Nat) : State :=
  { s with cmds := s.cmds.map fun c => { c with reads := c.reads.filter (· != line) } }

/-- The response to a fill. A demand read overtaken by a write or an invalidation is sent to memory again, at once or, where the limits
or an outstanding write hold it, with its thread's next request (R233, R392, R394). -/
def State.fillResponse (s : State) (f : Fill) (r : Resp) : State :=
  let s := { s with feed := { s.feed with fills := s.feed.fills.filter fun x => x.line != f.line } }
  if s.stopped then s.readDone f.line
  else if r.bad then
    if f.kind.spec then (s.bumpErr .specError).pumpLook
    else
      let hit := f.waiters.map fun w => s.thread w.1 w.2
      let s := s.readDone f.line
      hit.foldl (fun s th => match th.cmd with
        | some id => s.abort id ⟨0x0201, memDetail f.line f.port r, th.slot, 0⟩
        | none => s) s
  else if f.stale || s.filtered f.line then
    if f.kind.spec || f.waiters.isEmpty then (s.readDone f.line).pumpLook
    else if s.canFill f.line false then s.sendFill f.line f.ctx .demand f.waiters
    else f.waiters.foldl (fun s w => (s.setThread w.1 w.2 fun th => { th with st := .waitAtlas }).askLine w.1 w.2 f.line) (s.readDone f.line)
  else (((s.readDone f.line).takeFill f)).pumpLook

/-- A begun command that reads a line for which no fill of the feeder is recorded. A COPY that the Footpath carries reads
through no MEM port (R236). -/
def State.readerOf (s : State) (line : Nat) : Option Cmd :=
  s.cmds.find? fun c => c.phase == .begun && !s.onFoot c
    && s.slotOfLine c false line != 15

/-- The response to a request that an isolation handed to its port: counted and discarded (R348). -/
def State.handedDone (s : State) (line : Nat) : State :=
  { s with feed := { s.feed with handed := dropOne line s.feed.handed } }

/-- MEM_READ_RESPONSE: a read response arrives on a MEM port (R393). -/
def execMemReadResponse (port line : Nat) (r : Resp) (s : State) : Host.Outcome State Fault Refusal :=
  .next (State.fpResume (
    if s.pins.poreset then s
    else match s.feed.fills.find? fun f => f.line == line && f.port == port with
      | some f => s.fillResponse f r
      | none =>
        if r.bad && s.alive && s.portOf line == port then
          match s.readerOf line with
          | some c => s.abort c.id ⟨0x0201, memDetail line port r, s.slotOfLine c false line, 0⟩
          | none => s
        else s))

/-- The response to a write of a reset context's dropped frame (R345). -/
def State.resetWriteDone (s : State) (line : Nat) : State :=
  match s.rts.find? fun r => r.2.resetting.any fun x => x.owed.contains line with
  | some r => s.updRt r.1 fun r => { r with resetting := r.resetting.map fun x => { x with owed := dropOne line x.owed } }
  | none => s.handedDone line

/-- The response to a write of a command: one less to wait for; a bad one aborts it (R219, R238). -/
def State.cmdWriteDone (s : State) (id : CmdId) (port line : Nat) (r : Resp) : State :=
  match s.cmd id with
  | none => s
  | some c =>
    let s := s.updCmd id fun c => { c with owed := dropOne line c.owed, wrote := c.wrote.eraseP fun x => x.1 == line }
    if r.bad && !s.stopped then s.abort id ⟨0x0201, memDetail line port r, s.slotOfLine c true line, 0⟩ else s

/-- The response to a write of a frame being received: one less to wait for; a bad one drops the frame (R160, R161). -/
def State.frameWriteDone (s : State) (id port line : Nat) (r : Resp) : State :=
  let p := if s.trv.rx0.any fun x => x.id == id then 0 else 1
  let s := s.setRx p ((s.trvRx p).map fun y => if y.id == id then { y with owed := dropOne line y.owed } else y)
  if r.bad && !s.stopped then s.trvFail p id (Cause.own 0x0201 (memDetail line port r)) else s

/-- MEM_WRITE_RESPONSE: a write response arrives on a MEM port: the command, or the Traverse frame, whose oldest write of the line it
answers waits for one response less; a bad one aborts the command, or drops the frame (R161, R238, R393). A write that has not been
sent has none (R392, R394). -/
def execMemWriteResponse (port line : Nat) (r : Resp) (s : State) : Host.Outcome State Fault Refusal :=
  .next (
    match s.memq.find? fun e => e.line == line && e.sent with
    | none => s
    | some e =>
      if s.pins.poreset || s.portOf line ≠ port then s
      else
        let s := { s with memq := s.memq.eraseP fun x => x.line == line && x.sent }
        State.fpResume (match e.owner with
          | .cmd id => s.cmdWriteDone id port line r
          | .frame id => s.frameWriteDone id port line r
          | .port => s.resetWriteDone line))

/-! ## Invalidations (R232 to R234, R398, R399) -/

/-- A line overlaps a range. -/
def InvRange.meets (r : InvRange) (l : Nat) : Bool := decide (r.base < (l + 1) * 256) && decide (l * 256 < r.base + r.size)

/-- The bytes another agent wrote are in memory before it hands the invalidation over (R2, R399). -/
def State.agentWrite (s : State) (a : Nat) (bs : List Byte) : State :=
  (List.range bs.length).foldl (fun s i => s.pokeMem (a + i) (bs.getD i 0)) s

/-- A range of bytes overlaps the address map. -/
def State.meetsMap (s : State) (a n : Nat) : Bool :=
  match s.lgd.inForce with
  | some g => g.ranges.any fun r => decide (r.base < a + n) && decide (a < r.base + r.size)
  | none => false

/-- INVALIDATION: a range handed over on INV enters the filter; fills in flight that overlap it are overtaken (R232, R233).
INV is not ready while all 16 slots are in use; in standalone mode and while SAFE_STATE is 1 it discards every range, and a
range outside the address map is ignored (R398). A write whose invalidation does not follow changes memory alone: the caches
go on with their copies (R235). -/
def execInvalidation (addr : Addr) (size : BitVec 4) (written : AgentWrite) (s : State) : Host.Outcome State Fault Refusal :=
  .next (
    let n := 64 * 2 ^ size.toNat
    let base := addr.toNat / n * n
    let off := !written.handed || s.lgd.standalone || s.flt.safe || !s.meetsMap base n
    match s.feed.inv.findIdx? (·.isNone), off with
    | _, true => s.agentWrite base (written.bytes.take n)
    | none, _ => s
    | some i, _ =>
      let s := s.agentWrite base (written.bytes.take n)
      let r : InvRange := ⟨base, n⟩
      { s with feed := { s.feed with
          inv := setAt s.feed.inv i (some r)
          fills := s.feed.fills.map fun f => if r.meets f.line then { f with stale := true } else f } })

/-- INV_FILTER_FREE: the lines of a filtered range are dropped from every cache and their holds released; its slot is free
(R232, R398). -/
def execInvFilterFree (slot : Nat) (s : State) : Host.Outcome State Fault Refusal :=
  .next (
    match s.feed.inv.getD slot none with
    | none => s
    | some r =>
      let gone := s.feed.atlas.filter fun e => r.meets e.1
      let spec := (gone.filter fun e => match e.2 with | some x => x.spec | none => false).map (·.1)
      State.pumpLook { s with feed := { s.feed with
        inv := setAt s.feed.inv slot none
        atlas := s.feed.atlas.filter fun e => !r.meets e.1
        cch := s.feed.cch.map fun c => c.filter fun l => !r.meets l
        lost := s.feed.lost.filter (fun l => !spec.contains l) ++ spec } })

/-! ## Convoys (R227, R228) -/

/-- Under AUTO the first convoy of an operation skews its visiting order for the rest of it: at once where its blocks are placed, else as
they are placed, none of its slabs having begun (R228). -/
def State.skew (s : State) (a : Nat) (c : Cmd) : State :=
  let arr := s.arrs.getD a Arr.init
  if arr.skewed then s
  else
    let s := { s with arrs := updAt s.arrs a fun x => { x with skewed := true } }
    if arr.fed then s.reorder c (s.work c) else s

/-- BANK_CONVOY: all 32 threads of a channel have waited on one bank for more than 256 cycles: counted, recorded at most once
in 10 ms, and under AUTO the first one skews the operation's visiting order, which changes no result (R228). -/
def execBankConvoy (ch : Nat) (s : State) : Host.Outcome State Fault Refusal :=
  .next (
    match s.waitBank ch with
    | none => s
    | some b =>
      if !s.alive || !s.chOn ch || (s.feed.convoy.getD ch none).isSome then s
      else
        let op := s.opOfCh ch
        let s := State.addPerf { s with feed := { s.feed with convoy := setAt s.feed.convoy ch (some b) } } (.convoy ch) 1
        let s := match op with
          | some c => if c.switch 3 && c.phase == Phase.begun then s.skew (s.arrOfCh ch) c else s
          | none => s
        let recent := match s.feed.convoyAt.getD ch none with
          | some t => decide (s.pins.now < t + 10000000)
          | none => false
        if recent then s.bumpErr .suppressed
        else
          State.emit { s with feed := { s.feed with convoyAt := setAt s.feed.convoyAt ch (some s.pins.now) } } s.engineEvq
            ⟨0x18, 0xFFFF, 0xFFFF, (op.map Cmd.tag).getD 0, ch % 4 + b % 64 * 256⟩)

/-! ## The scrubber (R240, R336) -/

/-- SCRUB: the scrubber, or an access, meets an error in an SRAM word. Under SYSRESET_N no command gets a record any more (R401). -/
def execScrub (h : ScrubHit) (s : State) : Host.Outcome State Fault Refusal :=
  .next (
    if s.pins.poreset || s.flt.out then s
    else match h with
      | .corrected store => if store < 9 then s.addLife (16 + store) 1 else s
      | .consumed store word line id =>
        let s := State.sramError { s with feed := s.feed.dropLine line } 0x0605 store word 0 none
        if s.alive then s.abort id (sramCause store word) else s
      | .cacheLine store word line => State.sramError { s with feed := s.feed.dropLine line } 0x0605 store word 4 none
      | .owned store word id =>
        match s.cmd id with
        | some _ => (if s.alive then s.abort id (sramCause store word) else s).sramError 0x0605 store word 0 none
        | none => s
      | .staging port word => (s.trvFail port (((s.trvRx port).head?.map (·.id)).getD 0) (sramCause 6 word)).sramError 0x0605 6 word 4 none
      | .channelControl ch store word =>
        let d := store % 256 + word % 2 ^ 56 * 256
        (s.addLife 25 1).isolate ch (Cause.own 0x0607 d) 0x0607 d none
      | .control store word => (s.addLife 25 1).leaveService 0x0607 none none (store % 256 + word % 2 ^ 56 * 256))

end Sys2Proof.Machine
end

