-- ==== Sys2Proof/Machine/Reset.lean ====
section
/-! DEFINITION. The context reset: its start by the driver or by the engine, and its end with the escalation of RESETS (R64,
R169, R272, R345, R346, R351, R352). -/

namespace Sys2Proof.Machine

open Sys2Proof

/-- A queue of a context under a reset (R306): what it had published is discarded and it is STOPPED, unless it was DISABLED
or is DRAINING. -/
def CmQueue.stop (e : CmQueue) : CmQueue :=
  match e.state with
  | .disabled => e
  | .draining => { e with head := e.pub, nums := [], slot := none }
  | _ => { e with head := e.pub, nums := [], slot := none, state := .stopped }

/-- Published commands of a queue that were not accepted. -/
def CmQueue.unread (e : CmQueue) : Nat := if e.state == .disabled then 0 else (e.pub + 4294967296 - e.head) % 4294967296

/-- The queues bound to a context. -/
def State.queuesOf (s : State) (ctx : Nat) : List Nat := (s.cmqs.filter fun e => e.2.ctx == ctx).map (·.1)

/-- The cause a context reset gives its commands (R339, R342). -/
def resetCause (engine : Bool) : Cause := Cause.own 0x0702 (if engine then 1 else 0)

/-- A reset reaches a command (R342): one that has begun is aborted; one that has not sends nothing further, keeps the reset as its
cause and yields its record in step 5. -/
def State.resetCmd (s : State) (engine : Bool) (c : Cmd) : State :=
  if c.waiting then (s.fpStop c.id).updCmd c.id fun x => { x with cause := some (x.cause.getD (resetCause engine)) }
  else s.abort c.id (resetCause engine)

/-- The record of a reset in progress. -/
def State.resetRun (s : State) (ctx : Nat) (engine : Bool) : ResetRun :=
  { engine := engine, discarded := (s.queuesOf ctx).foldl (fun n q => n + (s.cmq q).unread) 0, records := 0, escalated := false
    channels := 0, closed := (s.rt ctx).stream.closeOut == some true, torn := 0, owed := [], acked := false, since := s.pins.now
    quarantined := (s.ctx ctx).state == .quarantined }

/-- The look-ahead lists of a context are issued no further (R345 step 4). -/
def State.dropLook (s : State) (ctx : Nat) : State := s.lookStop fun x => x.ctx == ctx

/-- Start a context reset (R345, steps 1 to 3). -/
def State.startReset (s : State) (ctx : Nat) (engine : Bool) : State :=
  let st := (s.ctx ctx).state
  if !(st == .active || st == .quarantined) then s
  else
    let run := s.resetRun ctx engine
    let mine := s.cmds.filter fun c => c.ctx == ctx
    let s := (s.updCtx ctx fun c => { c with state := .resetting }).updRt ctx fun r => { r with resetting := some run }
    let s := (s.queuesOf ctx).foldl (fun s q => s.updCmq q CmQueue.stop) s
    let s := mine.foldl (fun s c => s.resetCmd engine c) (s.addLife 6 1)
    ((s.dropLook ctx).trvReset ctx).voidByReset ctx

/-- A transfer on FP0 belongs to a command, a ring, a look-ahead list or a record of the context. -/
def State.fpOfCtx (s : State) (ctx : Nat) (u : FpUse) : Bool :=
  match u with
  | .look c _ | .state c _ => c == ctx
  | .slot q => (s.cmq q).ctx == ctx
  | _ => match (fpOwner u).bind s.cmd with | some c => c.ctx == ctx | none => false

/-- Every channel and unit has acknowledged (R345 step 4): the commands of the context that had begun have ended their aborts, and
nothing requested for it, be it ahead of need, is outstanding. A channel has acknowledged as well with a compute reset that has ended since (R350). -/
def State.resetQuiet (s : State) (ctx : Nat) : Bool :=
  match (s.rt ctx).resetting with
  | none => false
  | some r =>
    (s.cmds.all fun c => c.ctx != ctx || c.waiting || (r.acked && c.phase == .aborting && s.onChannels c))
      && r.owed.isEmpty && (r.acked || s.feed.fills.all fun f => f.ctx != ctx) && s.fp.all fun q => !s.fpOfCtx ctx q.use

/-- The payload of CONTEXT_RESET_DONE (R346). -/
def ResetRun.payload (r : ResetRun) (quarantined : Bool) : Nat :=
  let b := fun (x : Bool) n => if x then 2 ^ n else 0
  min r.records 4294967295 + min r.discarded 4294967295 * 2 ^ 32 + b r.closed 64 + b r.escalated 65 + r.channels % 16 * 2 ^ 66
    + b quarantined 70 + b r.engine 71 + min r.torn 16777215 * 2 ^ 72

/-- The end of a reset (R345 step 6, R352): RESETS and RESET_T0, the new state, an empty WHOLE stack, an OPEN round, and the
record. -/
def State.endReset (s : State) (ctx : Nat) : State :=
  match (s.rt ctx).resetting with
  | none => s
  | some r =>
    let (w, lim) := match s.lgd.inForce with | some l => (l.ctxWindow, l.ctxLimit) | none => (60, 3)
    let (t0, n) := escalate s.powerSeconds w (s.ctx ctx).resetT0 (s.ctx ctx).resets
    let q := r.quarantined || decide (lim ≤ n)
    let s := s.updCtx ctx fun c => { c with resetT0 := t0, resets := n, broken := false, roundState := .idle
                                            state := if q then .quarantined else .active }
    let s := s.updRt ctx fun x => { x with resetting := none, stack := [], copies := []
                                           waitPulse := x.waitPulse || (s.ctx ctx).sendEvery != 0 }
    let s := s.updStream ctx fun x => { x with decideOut := none }
    s.emitCtx ctx 0x42 0 (r.payload q)

/-- A command of a context that is reset yields its record (R345 step 5). An abort that a compute reset has acknowledged ends with it: what
it still awaits is left to the ports (R350). -/
def State.resetRecord (s : State) (c : Cmd) : State :=
  let f := c.cause.getD (resetCause false)
  if c.phase == .aborting then
    State.endAbort ((State.memLeave { s with feed := { s.feed with handed := s.feed.handed ++ c.owed } } (.cmd c.id)) fun _ => true) c f
  else s.reject c.id f

/-- CONTEXT_RESET_DONE: every channel and unit has acknowledged; commands that had not begun yield their records, and the
reset ends (R345). -/
def execContextResetDone (ctx : Nat) (s : State) : Host.Outcome State Fault Refusal :=
  .next (
    if s.alive && s.resetQuiet ctx then
      ((s.cmds.filter fun c => c.ctx == ctx).foldl State.resetRecord s).endReset ctx
    else s)

/-- ABORT_TIMEOUT: an abort has not ended 1 ms after its detection, and the engine starts a context reset (R351). -/
def execAbortTimeout (id : CmdId) (s : State) : Host.Outcome State Fault Refusal :=
  .next (
    match s.cmd id with
    | some c => if s.alive && c.phase == .aborting && s.elapsed c.since 1000000 then s.startReset c.ctx true else s
    | none => s)

end Sys2Proof.Machine
end

