-- ==== Sys2Proof/Machine/Lifecycle.lean ====
section
/-! DEFINITION. The life of a command from issue to its record: the holds before it begins, the frames it resolves, the
choices made at its start, its completion, COPY, and the commands of the command unit: FENCE, WAIT_FLAG, SIGNAL_FLAG and AT_BEARING
(R32, R58, R62, R87, R164, R165, R178 to R186, R219, R224, R226, R242, R255, R262, R263, R276, R296, R301, R305 to R309,
R322 to R325, R328). -/

namespace Sys2Proof.Machine

open Sys2Proof

/-! ## Issue (R179) -/

/-- The engine keeps a copy of each region record a command names, until SYNC drops it (R319). -/
def State.keepRegions (s : State) (c : Cmd) (rs : List Nat) : State :=
  s.updRt c.ctx fun r => { r with
    copies := rs.foldl (fun l k => if l.any (fun p => p.1 == k) then l else l ++ [(k, (s.listSrc c).le (s.regionAddr c.ctx k) 32)]) r.copies }

/-- COMMAND_ISSUE: the command unit reads the descriptors and tables of the oldest command of a queue that has not issued through the
Footpath and, once they are here, applies the issue checks; a command that fails one is rejected. DESIGN CHOICE (log 154): the reads
are asked for with this row. -/
def execCommandIssue (q : Nat) (s : State) : Host.Outcome State Fault Refusal :=
  .next (
    match (s.cmdsOf q).find? fun c => c.phase == .accepted with
    | none => s
    | some c0 =>
      if !s.alive || (s.ctx c0.ctx).state == .resetting then s
      else if !(s.issueTables c0).all c0.hasPiece then s.askTables c0 (s.issueTables c0)
      else
        let c := s.loadDescs c0
        match s.issueChecks c with
        | some f => s.reject c.id f
        | none =>
          let x := s.chkOf c
          let rs := (x.os.filterMap (s.opndRegion x)).map (·.idx)
          let s := s.keepRegions c rs
          s.updCmd c.id fun y => { y with slots := c.slots, probs := c.probs, phase := .issued })

/-! ## Holds (R226) -/

/-- An earlier command of the context has been published and has not been issued (R307). -/
def State.unissued (s : State) (c : Cmd) : Bool :=
  (s.cmqs.any fun e => e.2.ctx == c.ctx && (e.2.state == .active || e.2.state == .paused || e.2.state == .stopped)
      && e.2.nums.any fun n => decide (n < c.seq))
    || s.cmds.any fun x => x.ctx == c.ctx && decide (x.seq < c.seq) && x.phase == .accepted

/-- Earlier commands of the same context without their record (R307). -/
def State.earlier (s : State) (c : Cmd) : List Cmd := s.cmds.filter fun x => x.ctx == c.ctx && decide (x.seq < c.seq)

/-- The command under check with its operands as they are resolved. -/
def State.lateChk (s : State) (c : Cmd) : Chk := ⟨c, s.opnds c true, true, c.run.mode⟩

/-- The region records a command writes. -/
def State.regionsWritten (s : State) (c : Cmd) : List Nat :=
  let x := s.lateChk c
  if c.op = 5 then
    if c.products < 2 then [] else (s.gentries c).filterMap fun g => (s.groupRegion c g).map (·.idx)
  else (x.os.filter fun o => isDest c.op o.slot).filterMap fun o => (s.opndRegion x o).map (·.idx)

/-- The byte ranges a command writes. -/
def State.writeRanges (s : State) (c : Cmd) : List (Nat × Nat) :=
  let x := s.lateChk c
  let norm := c.op == 0x12 && c.fld 0x40 2 1 == 1
  ((x.os.filter fun o => isDest c.op o.slot || (norm && o.slot == 6)).flatMap fun o => (s.spans x o).map (·.2))
    ++ (x.ownSpans.filter fun r => r.2.2.2.2).map fun r => (r.2.2.1, r.2.2.2.1)

/-- An earlier command writes the NORM tensor a SHARD_UPDATE names; a NORM command waits for others of its mode only (R276,
R278). -/
def State.normBusy (s : State) (c : Cmd) : Bool :=
  match (s.lateChk c).opnd 0 6 with
  | none => false
  | some o =>
    let r := (o.t.base, o.t.spanLen o.t.fmt.storeBits)
    (s.earlier c).any fun y =>
      (c.isApply || (y.op == 0x12 && y.fld 0x40 2 1 == 1)) && (s.writeRanges y).any fun w => overlaps w r

/-- The waits of the Mosaic and the update (R32, R242, R255, R263, R266, R276). -/
def State.mosaicHold (s : State) (c : Cmd) : Bool :=
  let e := s.ctx c.ctx
  let x := (s.rt c.ctx).stream
  let before := s.earlier c
  let round := x.prev && (e.roundState == .exchange || e.roundState == .closing || e.roundState == .undecided)
  let idx := c.fld 0x42 0 16
  let own :=
    if c.isStep then
      let r := match s.slotRegion c 0 with | some r => before.any fun y => (s.regionsWritten y).contains r.idx | none => false
      let full := decide (16 ≤ (s.ctxs.filter fun y => y.2.state != .free && y.2.sendEvery != 0 && (y.2.roundState == .exchange || y.2.roundState == .closing)).length)
      s.unissued c || r || (full && e.roundState == .idle)
    else if c.op = 0x10 then x.vec.isSome
    else if c.op = 0x11 then
      c.fld 0x40 0 1 == 0 &&
        (s.unissued c || (before.any fun y => y.isApply && y.fld 0x42 0 16 == idx)
          || !x.updates.any fun u => u.idx == idx && u.complete && (!u.committed || s.recBit u.state 4 == 1))
    else if c.op = 0x12 then
      let step := s.unissued c || (before.any fun y => y.isStep && y.fld 0x42 0 16 == idx) || !(s.stepOf c).any (·.complete)
      step || s.normBusy c || (c.isApply && s.recBit (ptrAt c.raw 0x60) 4 == 1)
    else
      let rs := s.regionsWritten c
      (!rs.isEmpty && e.sendEvery != 0 && s.unissued c) || before.any fun y => y.isStep && match s.slotRegion y 0 with | some r => rs.contains r.idx | none => false
  round || own

/-- The frame references of a command: problem, slot, READ_POP, tag (R163). -/
def Cmd.frameRefs (c : Cmd) : List (Nat × Nat × Bool × Nat) :=
  (List.range c.probCount).flatMap fun q =>
    (slotsOf_ c.op c.fuse).filterMap fun i =>
      let d := TDesc.ofNat (c.rawSlot q i)
      if d.frame = 1 || d.frame = 2 then some (q, i, d.frame == 2, d.tag) else none

/-- The references not resolved yet. -/
def Cmd.unresolved (c : Cmd) : List (Nat × Nat × Bool × Nat) :=
  c.frameRefs.filter fun r => !c.frames.any fun f => f.prob == r.1 && f.slot == r.2.1

/-- Resolve what can be resolved (R164): each reference to the topmost of the top 16 frames with its tag. -/
def State.resolve (s : State) (c : Cmd) : List FrameRef :=
  c.frames ++ c.unresolved.filterMap fun r =>
    ((s.topFrames c.ctx).find? fun e => e.tag == r.2.2.2).map fun e => ⟨r.2.1, e.id, r.2.2.1, r.1⟩

/-- A command of the unit that holds its queue until it completes (R296, R323 to R325), ahead of one that waits. -/
def State.blocker (s : State) (c : Cmd) : Option Nat :=
  ((s.cmdsOf c.id.q).find? fun x => decide (x.acc < c.acc) && !x.waiting && 0x20 ≤ x.op && x.op ≤ 0x23).map (·.op)

/-- The hold of a command that has not begun, by the order numbers of R226: 1 FENCE_WAIT, 2 DATUM_WAIT, 3 MOSAIC_WAIT, 4
TRAVERSE_WAIT; 0 for none. -/
def State.holdOf (s : State) (c : Cmd) : Nat :=
  let ep := c.fld 0x0C 0 16
  match s.blocker c with
  | some op => if op = 0x23 then 2 else 1
  | none =>
    if (s.rt c.ctx).waitPulse || (ep != 0 && !serialGe 16 s.mode.applied ep) then 2
    else if c.phase == .accepted then 0
    else if s.mosaicHold c then 3
    else if (s.resolve c).length < c.frameRefs.length then 4
    else 0

/-- The feeder's cause for a command that runs on an array or the Spur: the first that applies to a thread of its (R226). -/
def State.feedCause (s : State) (c : Cmd) : Nat :=
  let anchoring := s.tiles.any fun u => u.sheets.any fun h => h.cmd == some c.id && h.st == .anchoring
  let causes := (List.range 4).flatMap fun ch =>
    ((List.range 32).filter fun i => (s.thread ch i).cmd == some c.id).map (s.threadCause ch)
  if anchoring then 5 else (sortBy (fun a b => decide (a ≤ b)) (causes.filter (· != 0))).headD 0

/-- The cause a DEADLINE fault carries (R226, R339). -/
def State.holdCause (s : State) (c : Cmd) : Nat :=
  if c.waiting then s.holdOf c
  else if c.op = 0x23 then 2
  else if 0x20 ≤ c.op && c.op ≤ 0x22 then 1
  else if 0x10 ≤ c.op && c.op ≤ 0x12 then 3
  else if c.isArrayOp then s.feedCause c
  else 0

/-- DEADLINE: the armed deadline of a command expires and it is aborted (R309, R342); one whose last response has returned
completes instead. -/
def execDeadline (id : CmdId) (s : State) : Host.Outcome State Fault Refusal :=
  .next (
    match s.cmd id with
    | none => s
    | some c =>
      match c.armed with
      | none => s
      | some (at_, us) =>
        if !s.alive || !s.elapsed at_ 0 || c.phase == .aborting || (c.phase == .done && c.owed.isEmpty && c.fpOwed == 0) then s
        else s.abort id (Cause.own 0x0701 (us + s.holdCause c * 4294967296)))

/-- The first command of a queue that has not begun (R308). -/
def State.nextBegin (s : State) (q : Nat) : Option Cmd := (s.cmdsOf q).find? Cmd.waiting

/-- A command may be looked at for its start: it has issued, no reset has reached it, and its context lets it run. -/
def State.ready (s : State) (c : Cmd) : Bool :=
  s.alive && c.phase == .issued && c.cause.isNone && (s.ctx c.ctx).state != .resetting

/-- The rejection of a command that names a frame of a BROKEN stack (R164). -/
def State.brokenCause (s : State) (c : Cmd) : Option Cause :=
  if (s.ctx c.ctx).broken then c.frameRefs.head?.map fun r => ⟨0x0404, r.2.2.2, r.2.1, 0⟩ else none

/-- FRAME_RESOLVE: the next command of its queue, under no other hold, resolves and pins the frames it names (R164, R165). -/
def execFrameResolve (id : CmdId) (s : State) : Host.Outcome State Fault Refusal :=
  .next (
    match s.nextBegin id.q with
    | none => s
    | some c =>
      if c.id ≠ id || !s.ready c || (s.holdOf c != 0 && s.holdOf c != 4) then s
      else match s.brokenCause c with
        | some f => s.reject id f
        | none => let fs := s.resolve c; s.updCmd id fun x => { x with frames := fs })

/-! ## The start of execution (R178, R181, R184, R301) -/

/-- The shape fields of a command under buckets: inline, or the record RT_PTR names (R183). -/
def State.runShape (s : State) (c : Cmd) : Nat × Nat × Nat :=
  if c.fld 0x41 3 1 = 1 then (c.fld 0x68 0 32, c.fld 0x6C 0 32, c.fld 0x70 0 32)
  else let v := (s.listSrc c).le (ptrAt c.raw 0x68) 16; (bits v 0 32, bits v 32 32, bits v 64 32)

/-- One shape fits in another. -/
def shapeFits (a b : Nat × Nat × Nat) : Bool := decide (a.1 ≤ b.1) && decide (a.2.1 ≤ b.2.1) && decide (a.2.2 ≤ b.2.2)

/-- The bucket a shape runs (R184); none is RUNTIME_SHAPE. -/
def pickBucket (largest : Bool) (es : List (Nat × Nat × Nat)) (a : Nat × Nat × Nat) : Option Nat :=
  if largest then (if shapeFits a (es.getLast?.getD (0, 0, 0)) then some (es.length - 1) else none)
  else es.findIdx? fun e => shapeFits a e

/-- The detail of RUNTIME_SHAPE (R339). -/
def shapeDetail (a : Nat × Nat × Nat) : Nat :=
  min a.1 2097151 + min a.2.1 2097151 * 2 ^ 21 + min a.2.2 2097151 * 2 ^ 42

/-- The choices of a command that begins (R77, R87, R103, R184): its run, or the fault that stops it. -/
def State.planRun (s : State) (c0 : Cmd) : RunInfo × Option Cause :=
  let e := s.ctx c0.ctx
  let base : RunInfo := { RunInfo.none with
    epoch := s.mode.applied, mode := s.mode.set, arr := some (s.arrOfQueue c0.id.q), free := s.free
    key := ⟨e.seed, if e.sendEvery = 0 then 0 else e.round, e.passInRound⟩ }
  if !c0.isArrayOp then ({ base with arr := none }, none)
  else
    let al := s.alloc { c0 with run := base } 0
    let act := if c0.buckets = 0 then al else s.runShape c0
    let es := (s.bucketList c0).map bucketExt
    let b := if c0.buckets = 0 then some 0 else pickBucket (bits s.mode.set 1 1 == 1) es act
    match b with
    | none => (base, some (Cause.own 0x0121 (shapeDetail act)))
    | some b =>
      let ext := if c0.buckets = 0 then al else es.getD b (0, 0, 0)
      let run := { base with bucket := b, em := ext.1, ek := ext.2.1, en := ext.2.2, am := act.1, ak := act.2.1, an := act.2.2 }
      let c := { c0 with run := run }
      let x := s.lateChk c
      let e := if c0.buckets = 0 then s.alloc c x.mainProb else ext
      match s.flow x c (x.thin e.1 e.2.1 e.2.2) with
      | none => (run, some ⟨0x0109, c.fld 0x40 0 2, 15, 0x40⟩)
      | some 3 => ({ run with dataflow := 3, spur := true, arr := none }, none)
      | some d =>
        let fp32 := x.os.find? fun o => !isDest c.op o.slot && o.slot != 6 && o.t.fmt == .fp32
        ({ run with dataflow := d }, fp32.bind fun o => o.bad 0x0105 fFmt)

/-- The region states a command needs at its start (R181). -/
def State.regionCause (s : State) (c : Cmd) : Option Cause :=
  let x := s.lateChk c
  firstBad (x.os.map fun o =>
    match s.opndRegion x o with
    | none => none
    | some r =>
      failIf ((r.torn && c.op != 0x19) || (c.isStep && o.slot == 0 && r.rstate == 0)) (o.bad 0x010E fBase))

/-- A second APPLY of a layer in one round that issue could not tell (R276; log 189). -/
def State.secondCause (s : State) (c : Cmd) : Option Cause :=
  failIf (c.isApply && s.second c) (some ⟨0x0108, c.fld 0x42 0 16, 15, 0x42⟩)

/-- The epoch of a command has passed (R301). -/
def State.epochCause (s : State) (c : Cmd) : Option Cause :=
  let ep := c.fld 0x0C 0 16
  failIf (ep != 0 && ep != s.mode.applied && serialGe 16 s.mode.applied ep) (some (Cause.own 0x0120 (ep + s.mode.applied * 65536)))

/-- A command of the channel drains. -/
def Cmd.drainOp (c : Cmd) : Bool := c.op == 9 || c.op == 10 || c.op == 0x18 || c.op == 0x19

/-- An earlier command of its queue runs on the Spur or the channel drains a command would take: commands of one queue run at
the same time only on different units (R308, DEDUCED, log 27). -/
def State.unitTaken (s : State) (c : Cmd) (run : RunInfo) : Bool :=
  (s.cmdsOf c.id.q).any fun y =>
    decide (y.acc < c.acc) && !y.waiting && ((run.spur && y.run.spur) || (c.drainOp && y.drainOp))

/-! ### Scratch (R217, R218) -/

/-- Where scratch line n lies: bank, set and way (R217). What it holds there is what the operation that has taken it has put into
it, its slabs and part sheets; before that its contents are undefined, and nothing reads them. -/
def State.scratchPlace (s : State) (n : Nat) : Nat × Nat × Nat :=
  let b := s.build.size.banks
  (n % b, n / b % 512, s.cacheWays + n / (512 * b))

/-- A share of a reservation as scratch lines, first line and number of lines: share i of n, of a reservation of the MiB given that
lies after other MiB (R218). DESIGN CHOICE (log 160): the reservations lie in the order PAIR, STEAL, MAP. -/
def shareLines (kind : ShareKind) (before mib i n : Nat) : Share :=
  let k := mib * 4096 / max 1 n
  ⟨kind, before * 4096 + i * k, k⟩

/-- A command needs a fused anchor map in scratch (R143). -/
def State.usesMap (s : State) (c : Cmd) : Bool := s.fusedAnchor (s.lateChk c)

/-- A slab of a command lies in scratch: a partial slab, or the merge slab (R46, R74, R193). -/
def State.usesPair (s : State) (c : Cmd) : Bool :=
  if c.op = 5 then c.products % 2 == 1 && decide (s.slabBytes c ≤ s.pairShare)
  else (s.cmdProds c).any fun p => p.slabNeed != 0 && decide (p.slabNeed ≤ s.pairShare)

/-- The shares of scratch an array operation takes when it begins (R218): PAIR and MAP of its array, STEAL of its channels. -/
def State.sharesFor (s : State) (c : Cmd) (a : Nat) : List Share :=
  match s.lgd.inForce with
  | none => []
  | some l =>
    let place := fun (xs : List Nat) x => (xs.findIdx? (· == x)).getD 0
    let chs := maskBits l.channels s.build.size.channels
    let steal := c.switch 2 && (s.cmdProds c).any (·.sparse)
    (if s.usesPair c then [shareLines .pair 0 l.pair (place s.arrays a) s.arrays.length] else [])
      ++ (if steal then (s.arrChans a).map fun ch => shareLines .steal l.pair l.steal (place chs ch) chs.length else [])
      ++ (if s.usesMap c then [shareLines .map (l.pair + l.steal) l.map (place s.arrays a) s.arrays.length] else [])

/-- A share an operation needs is still held on its array: it begins on no tile until the share is released (R218). -/
def State.shareTaken (s : State) (c : Cmd) (a : Nat) : Bool :=
  (s.sharesFor c a).any fun x => (s.arrs.getD a Arr.init).shares.any fun y => decide (x.first < y.first + y.lines ∧ y.first < x.first + x.lines)

/-- Commands of the array, the Spur and the drains wait for the end of a compute reset (R347) and for their unit; array
commands for their array (R23), which a self-test may hold (R355, R356). -/
def State.unitBusy (s : State) (c : Cmd) (run : RunInfo) : Bool :=
  (s.flt.busy && (c.isArrayOp || c.drainOp)) || s.unitTaken c run ||
  match run.arr with
  | some a => s.arrOn a && ((s.arrs.getD a Arr.init).op.isSome || (s.arrs.getD a Arr.init).paused || s.preempting
      || s.shareTaken { c with run := run } a)
  | none => false

/-- What the start of a command does beside taking its unit (R255, R281, R296, R386). -/
def State.startEffects (s : State) (c : Cmd) : State :=
  let s := if c.isStep && (s.ctx c.ctx).roundState == .idle then
      (s.updCtx c.ctx fun e => { e with roundState := .exchange }).updStream c.ctx fun x => { x with grace := s.waits.1, decideWait := s.waits.2 }
    else s
  let s := s.beginUpdate c
  if c.op = 0x23 then
    let which := c.fld 0x40 12 2
    let n := (if s.dat.tracker == .wait then 1 else 0) + which
    let late := which == 2 && s.dat.tracker != .wait && s.dat.pass.toNat == c.fld 0x48 0 64 && decide (c.fld 0x40 0 12 < s.bearing)
    s.updCmd c.id fun x => { x with waitPulses := if which = 2 then none else some n, placed := !late }
  else s

/-- A command begins (R308): its record of the run, the scratch it takes, its look-ahead list, its threads and its output
blocks. -/
def State.begin_ (s : State) (c : Cmd) : State :=
  let put := fun (_ : Cmd) => { c with phase := .begun, began := s.pins.now }
  let s := State.updCmd { s with free := s.free + 1 } c.id put
  let s := match c.run.arr with
    | some a => { s with arrs := updAt s.arrs a fun _ => { Arr.init with op := some c.id, shares := s.sharesFor c a } }
    | none => s
  let s := (s.startEffects c).startLook c.ctx (some c.id) (ptrAt c.raw 0x10) (c.fld 0x0E 0 5)
  let s := if c.isArrayOp then s.startThreads c else s
  s.arm c.id.q

/-- COMMAND_BEGIN: the next command of a queue begins once its holds clear, its shape record or pointer list has been read and its unit
is free; one that its start refuses yields its fault record instead, with the effects of R179. -/
def execCommandBegin (q : Nat) (s : State) : Host.Outcome State Fault Refusal :=
  .next (
    match s.nextBegin q with
    | none => s
    | some c0 =>
      if !s.ready c0 then s
      else
        let hold := s.holdOf c0
        let early := (s.epochCause c0).or ((s.regionCause c0).or ((s.brokenCause c0).or (s.secondCause c0)))
        if hold ≠ 0 && !(hold == 4 && (s.ctx c0.ctx).broken) then s
        else if !(s.beginTables c0).all c0.hasPiece then s.askTables c0 (s.beginTables c0)
        else
          let c1 := { c0 with frames := s.resolve c0 }
          let s1 := s.updCmd c0.id fun _ => c1
          let (run, fault) := s1.planRun c1
          let c := { c1 with run := run }
          if s.unitBusy c0 run then s
          else match early with
            | some f => s.reject c0.id f
            | none =>
              let off := match run.arr with | some a => !s.arrOn a | none => false
              let out := fault.or ((failIf off (some (Cause.own 0x0704 s.chansOut))).or
                (if c.frameRefs.isEmpty then none else s1.frameChecks c))
              match out with
              | some f =>
                -- a shape that fits no bucket ends in an abort (R187)
                if f.code = 0x0121 then
                  (State.abort (s1.updCmd c0.id fun _ => { c with phase := .begun, began := s.pins.now }) c0.id f).arm q
                else s.reject c0.id f
              | none => s1.begin_ c)

/-- The next operation of an array, with the frames it would resolve: the oldest command at the front of its queue that has
issued, runs there and is under no hold (R224). -/
def State.prefetchFor (s : State) (a : Nat) : Option Cmd :=
  let heads := (s.cmqs.map (·.1)).filterMap s.nextBegin
  let mine := heads.filter fun c => c.isArrayOp && s.ready c && s.arrOfQueue c.id.q == a && s.holdOf c == 0
  (sortBy (fun x y => decide (x.acc ≤ y.acc)) mine).head?.map fun c => { c with frames := s.resolve c }

/-- The hold of the next operation of an array on which none runs, by the order numbers of R226: that of the oldest array command
that waits, where every queue's is held. -/
def State.nextHeld (s : State) (a : Nat) : Option Nat :=
  let heads := (s.cmqs.map (·.1)).filterMap fun q =>
    match (s.cmdsOf q).find? fun c => c.waiting && c.isArrayOp && c.op != 8, s.nextBegin q with
    | some c, some f => if s.arrOfQueue q == a then some (c.acc, s.holdOf f) else none
    | _, _ => none
  if heads.isEmpty || heads.any fun h => h.2 == 0 then none
  else (sortBy (fun x y => decide (x.1 ≤ y.1)) heads).head?.map (·.2)


/-- A tile lies in one of the problem rectangles of a command (R79, R84). -/
def State.inRects (s : State) (c : Cmd) (a t : Nat) : Bool :=
  (s.placeOf a t).any fun x => (List.range (max 1 c.probs.length)).any fun q =>
    let r := s.rect c a q
    decide (r.1 ≤ x.1 ∧ x.1 < r.1 + r.2.2.1 ∧ r.2.1 ≤ x.2 ∧ x.2 < r.2.1 + r.2.2.2)

/-- The next operation of an array, one of whose rectangles holds a tile, waits for a share of scratch that the present one holds
(R218). -/
def State.shareWait (s : State) (a t : Nat) : Bool :=
  (s.prefetchFor a).any fun c => let c := { c with run := (s.planRun c).1 }; s.shareTaken c a && s.inRects c a t

/-- A tile of an array has work (R84): it has not issued its last product of the operation there, be its blocks placed or still to be, or
the array's next operation is held, or waits for a share of scratch (R218, R226). -/
def State.tileWork (s : State) (a t : Nat) : Bool :=
  match (s.arrs.getD a Arr.init).op.bind s.cmd with
  | none => (s.nextHeld a).isSome
  | some c =>
    c.phase == .begun && ((if (s.arrs.getD a Arr.init).fed then !(s.needs (s.work c) t).isEmpty else s.inRects c a t) || s.shareWait a t)

/-- The lines of the next operation's stationary regions and of its first slab's streams, for each channel up to half its cache
(R224; log 25). -/
def State.prefetchLines (s : State) (c : Cmd) : List Nat :=
  let s1 := s.updCmd c.id fun _ => c
  let c := { c with run := (s1.planRun c).1 }
  let w := s1.work c
  let qs := if c.run.spur then dealSeqs (s1.feedChans c) (s1.spurSeqs c)
    else match w.slabs.head? with | some k => s1.slabSeqs w k | none => []
  (onceNat (qs.map (·.1))).flatMap fun ch =>
    (onceNat ((qs.filter fun q => q.1 == ch).flatMap fun q => q.2.todo.map (·.line))).take 4096

/-- NEXT_OP_PREFETCH: the feeders prefetch for the next operation of an array. -/
def execNextOpPrefetch (a : Nat) (s : State) : Host.Outcome State Fault Refusal :=
  .next (
    match s.prefetchFor a with
    | none => s
    | some c => if s.arrOn a then (s.prefetchLines c).foldl (fun s l => s.prefill l c.ctx .ahead) s else s)

/-! ## COPY (R236, R317) -/

/-- COPY: one that the Footpath carries reads its source first. -/
def execCopy (c : CmdId) (s : State) : Host.Outcome State Fault Refusal :=
  .next (s.runOp c 0x18 fun x =>
    if (s.copyTables x).all x.hasPiece then s.runCopy x else s.askPieces x (.copyRead x.id) (s.copyTables x))

/-! ## Completion (R219, R328) -/

/-- The region states and selectors a completion changes (R58, R62): a FRESH region drained into becomes OPEN, a SHADOW
selector flips, a covering FILL and a MOSAIC_STEP leave FRESH. -/
def State.completeRegions (s : State) (c : Cmd) : State :=
  let s := c.touched.foldl (fun s k =>
    let r := s.region c.ctx k
    let s := if r.shadow then s.flipSel c.ctx k else s
    if r.rstate = 0 then s.setRState c.ctx k 1 else s) s
  let s := if c.op = 0x19 then (s.fillCovers c).foldl (fun s k => s.setRState c.ctx k 0) s else s
  if c.isStep then
    let done := fun (t : StepRec) => if t.cmd = c.id then { t with complete := true } else t
    let s := s.updStream c.ctx fun x => { x with steps := x.steps.map done, past := x.past.map done }
    match s.slotRegion c 0 with
    | some r => s.setRState c.ctx r.idx 0
    | none => s
  else s

/-- The workspace a command's slabs spilled into holds undefined values after it (R46, R74, R194; log 26). -/
def State.spillWorkspace (s : State) (c : Cmd) : State :=
  if !c.isArrayOp || c.run.spur then s
  else
    let need : List (Nat × Nat) := if c.op = 5 then [(0, s.slabBytes c * (c.products % 2))] else (s.cmdProds c).map fun p => (p.group, p.slabNeed)
    let out := (need.foldl (placeSlab fun _ => 0) (true, s.pairShare, [])).2.2
    let ordered := c.op == 5 && (s.opd c 0 3).ordered && !c.fair
    (List.range c.probCount).foldl (fun s q =>
      if c.has q 5 && ((ordered && c.products % 2 == 1) || out.any fun u => u.1 == q) then
        let d := s.opd c q 5
        s.undefine d.base (d.spanLen d.fmt.storeBits)
      else s) s

/-- A command completes (R165, R219, R251, R281, R328): the region states first, then its one record. A LONGSUM record counts
as completion for the regions and the round, and pops no frame (R122, R165). -/
def State.complete (s : State) (c : Cmd) : State :=
  let s := ((s.completeRegions c).spillWorkspace c).completeUpdate c
  if c.longsumFault then s.closeCmd c.id 0x02 (Cause.own 0x0303 c.longsumDetail).payload
  else
    let s := s.popFrames c
    let s := if c.op = 0x0B && c.markOp ≠ 0 then s.updCtx c.ctx fun e => { e with broken := false } else s
    s.closeCmd c.id 0x01 c.payload

/-- COMMAND_COMPLETE: the work of a command is done and every response it awaited has returned (R219). -/
def execCommandComplete (id : CmdId) (s : State) : Host.Outcome State Fault Refusal :=
  .next (
    match s.cmd id with
    | some c => if s.alive && c.phase == .done && c.owed.isEmpty && c.fpOwed == 0 then s.complete c else s
    | none => s)

/-! ## Fences and flags (R323 to R325) -/

/-- Every command in the scope of a fence has written its record (R323). -/
def State.scopeDone (s : State) (c : Cmd) : Bool :=
  match c.fld 0x40 0 2 with
  | 0 => s.cmds.all fun x => !(x.id.q == c.id.q && decide (x.acc < c.acc))
  | 1 => (s.earlier c).isEmpty && !s.unissued c
  | _ => s.cmds.all fun x => !decide (x.acc < c.acc)

/-- FENCE: it is done when its scope is (R323). -/
def execFence (id : CmdId) (s : State) : Host.Outcome State Fault Refusal :=
  .next (s.runOp id 0x20 fun c => if s.scopeDone c then s.updCmd id fun x => { x with phase := .done } else s)

/-- WAIT_FLAG: it reads its flag through the Footpath; the condition is tested when the response returns (R324). -/
def execWaitFlag (id : CmdId) (s : State) : Host.Outcome State Fault Refusal :=
  .next (s.runOp id 0x21 fun _ => s.pollFlag id)

/-- The condition of a WAIT_FLAG on the value read (R324). -/
def Cmd.flagMet (c : Cmd) (v : Nat) : Bool :=
  let x := v &&& c.fld 0x58 0 64
  let y := c.fld 0x50 0 64
  match c.fld 0x40 0 2 with
  | 0 => x == y
  | 1 => x != y
  | 2 => serialGe 64 x y
  | _ => decide (y ≤ x)

/-- SIGNAL_FLAG: once its scope is done it writes VALUE through the Footpath, and is done when the response has returned
(R325). -/
def execSignalFlag (id : CmdId) (s : State) : Host.Outcome State Fault Refusal :=
  .next (s.runOp id 0x22 fun c =>
    if s.scopeDone c && !c.placed then
      let req : FpReq := ⟨.flagWrite id, false, c.fld 0x48 0 52, leBytes 8 (c.fld 0x50 0 64), 8⟩
      State.updCmd (s.fpAdd [req]) id fun x => { x with placed := true, fpOwed := x.fpOwed + 1, phase := .done }
    else s)

/-! ## AT_BEARING (R296) -/

/-- An AT_BEARING completes; its record carries the pass number. -/
def State.bearingDone (s : State) (id : CmdId) : State := s.closeCmd id 0x01 s.dat.pass.toNat

/-- BEARING of an AT_BEARING. -/
def Cmd.atB (c : Cmd) : Nat := c.fld 0x40 0 12

/-- The pass an AT_BEARING waits for is the current one. -/
def State.passIsNow (s : State) (c : Cmd) : Bool :=
  s.dat.tracker != .wait &&
  match c.waitPulses with
  | some n => n == 0
  | none => s.dat.pass.toNat == c.fld 0x48 0 64

/-- AT_BEARING: it holds its queue; it completes at once where its target is reached or past already. -/
def execAtBearing (id : CmdId) (s : State) : Host.Outcome State Fault Refusal :=
  .next (s.runOp id 0x23 fun c =>
    if s.dat.tracker == .wait then s
    else
      let here := c.waitPulses == some 0 && c.fld 0x40 12 2 == 0 && (decide (c.atB ≤ s.bearing) || s.dat.tracker == .free)
      let past := c.waitPulses.isNone && decide (c.fld 0x48 0 64 < s.dat.pass.toNat)
      if here || past then s.bearingDone id else s)

end Sys2Proof.Machine
end

