-- ==== Sys2Proof/Machine/Beats.lean ====
section
/-! DEFINITION. The cycles of a tile: its beats, and where it waits the cause its channel counts; the flits that the feeders and the
tiles send (R52, R54, R82 to R84, R89, R226, R367). -/

namespace Sys2Proof.Machine

open Sys2Proof

/-! ## Why a tile waits (R84, R226) -/

/-- R52: a sheet has become FULL while the other was FULL or DRAINING, and neither is FREE yet. -/
def Tile.drainBlocked (u : Tile) : Bool := u.sheets.all fun x => x.st == .full || x.st == .draining

/-- The tile a row or column link leads to. -/
def State.linkTo (s : State) (w : Work) (t : Nat) (l : Link) : Option Nat :=
  (s.rectAt w t).bind fun (_, p, x, y) =>
    match l with
    | .col => if x + 1 < p.rh then some (s.tileAt w.arr (p.rr + x + 1) (p.rc + y)) else none
    | _ => if y + 1 < p.rw then some (s.tileAt w.arr (p.rr + x) (p.rc + y + 1)) else none

/-- The link an operand block comes over. -/
def Way.link : Way → Option Link
  | .row => some .row | .col => some .col | .load => none

/-- Bytes of a partial block in the sheet store. -/
def Prod.partBytes (p : Prod) : Nat := 32 * p.rt * (if p.fair then 16 else 4)

/-- The next beat of a tile would begin a contribution for which its sheet store has no room beside those that await the partial link:
128 KiB in WS and IS, in GP_PAIR one beside the two sheets (R4, R42, R74). DESIGN CHOICE (log 161): the manual does not size that store
for GP_PAIR. A contribution without beats takes no room. -/
def State.storeFull (s : State) (w : Work) (t : Nat) : Bool :=
  let u := s.tile t
  match s.turn w t with
  | some (.part r _) =>
    match w.blk r.blk with
    | some (_, p) =>
      let held := (u.ready.filter fun x => !(s.refBeats w t x.ref).isEmpty).length
      u.dbeats == 0 && decide ((if w.cmd.op = 1 then 0 else 131072 / max 1 p.partBytes - 1) < held)
    | none => false
  | _ => false

/-- The partial link out of a tile is full (R82). -/
def State.partFull (s : State) (w : Work) (t : Nat) : Bool :=
  match (s.frontPart w t).bind fun own => w.blk own.ref.blk with
  | some (b, p) => (s.colOf w.arr p b.tile t).any fun y =>
      decide (y + 1 < p.rw) && decide (8 ≤ (s.tile (s.partTile w b p (y + 1))).partIn.length)
  | none => false

/-- The thread that serves the stream an operand block of a tile comes in, with its channel (R73). -/
def State.feederOf (s : State) (w : Work) (t : Nat) (way : Way) : Option (Nat × Nat) :=
  let stream : Option (Nat × StreamId) := match way with
    | .load => some (s.build.size.chanOf t, .load t)
    | .row => (s.rectAt w t).map fun (j, p, x, _) => (s.build.size.chanOf (s.tileAt w.arr (p.rr + x) p.rc), .row j x)
    | .col => (s.rectAt w t).map fun (j, p, _, y) => (s.build.size.chanOf (s.tileAt w.arr p.rr (p.rc + y)), .col j y)
  stream.bind fun q =>
    ((s.feed.threads.getD q.1 []).findIdx? fun th => th.cmd == some w.cmd.id && th.stream == q.2).map fun i => (q.1, i)

/-- The cause the feeder reports for the block a tile awaits (R226). -/
def State.useCause (s : State) (w : Work) (t : Nat) (x : Use) : Stall :=
  match s.feederOf w t x.way with
  | some (ch, i) => causeStall (s.threadCause ch i)
  | none => .feederEmpty

/-- A block of a tile is in the Projection buffer of its channel, and awaits the load bus alone. -/
def State.inProj (s : State) (w : Work) (t : Nat) (k : OpKey) : Bool :=
  (s.feed.proj.getD (s.build.size.chanOf t) []).any fun x => x.1 == t && x.2.cmd == w.cmd.id && x.2.key == k

/-- Why a tile with work issues no beat: the first cause of R84 that applies; none where it can run its next beat. A block on its
way out of a Projection buffer over the load bus is the load of R44, which counts as FEEDER_EMPTY (log 158). -/
def State.stallCause (s : State) (w : Work) (t : Nat) : Option Stall :=
  let u := s.tile t
  let wait := s.awaited w t
  let linked := fun (f : Link → Bool) => wait.any fun x => x.way.link.any f
  let full := linked fun l => !(u.flits l).isEmpty && (s.linkTo w t l).any fun e => decide (8 ≤ ((s.tile e).flits l).length)
  let derated := linked fun l => (u.flits l).isEmpty && (s.linkFrom w t l).any fun e => decide (s.presentClock e < s.presentClock t)
  let west := u.partIn.isEmpty && (s.linkFrom w t .row).any fun e => decide (s.presentClock e < s.presentClock t)
  if u.drainBlocked && (s.turn w t).isNone then some .sheetDrainBlocked
  else if (s.storeFull w t && s.partFull w t) || full then some .elasticFull
  else if s.storeFull w t then some (if west then .clockDerate else .feederEmpty)
  else if (s.turn w t).isNone then (if u.sheets.any (fun x => x.st == .anchoring) then some .surveyWait else some .feederEmpty)
  else
    match wait with
    | [] => none
    | x :: _ =>
      if wait.any fun y => y.way == .load && s.projected w y.key && !s.inProj w t y.key then some .projectionWait
      else if derated then some .clockDerate
      else some (s.useCause w t x)

/-- TILE_BEAT: the tile's cycles. A tile with work that cannot run its next beat counts the stall cycles under their cause; one
that can runs it; at an edge of its rectangle it takes the flits its buffer has room for before and after it (R83). Cycles of an array whose next operation is held count under the hold's cause (R84, R226); those in which a tile
waits for the operation's metadata to be merged, or for a share of scratch, as FEEDER_EMPTY (R207, R218). -/
def execTileBeat (t stalls : Nat) (upset : Option Upset) (s : State) : Host.Outcome State Fault Refusal :=
  .next (
    let ch := s.build.size.chanOf t
    if (s.opOfTile t).isNone then
      match if s.alive && s.tileOn t && !(s.arrs.getD (s.arrOfTile t) Arr.init).paused then s.nextHeld (s.arrOfTile t) else none with
      | some h => s.countWork 0 ch 0 [((causeStall h).idx, stalls)]
      | none => s
    else s.onTile t fun s w =>
      if !(s.arrs.getD w.arr Arr.init).fed || (s.needs w t).isEmpty then
        if s.tileWork w.arr t then s.countWork 0 ch 0 [(Stall.feederEmpty.idx, stalls)] else s
      else
        let s := s.drainLinks w t
        match s.stallCause w t with
        | some c => s.countWork 0 ch 0 [(c.idx, stalls)]
        | none => ((s.tileBeat t upset w).drainLinks w t).pumpCh ch)

/-! ## Flits (R72, R73, R82, R83) -/

/-- A flit of the first block of a stream thread: an even share of the block's bytes, and with the last its scales. -/
def Work.flitOf (w : Work) (k : OpKey) (ls : List (Nat × List Byte)) (i : Nat) : Flit :=
  let (els, sc) := w.blkCells k ls
  let n := w.blkFlits k
  let m := cdiv els.length (max 1 n)
  let cs := (els.drop (i * m)).take m
  ⟨w.cmd.id, k, n, w.blkSize k, cs, if i + 1 = n then sc else [], parityOf cs⟩

/-- The feeder at an edge sends the next flit of a stream into the tile there. -/
def State.injectFlit (s : State) (w : Work) (t : Nat) (l : Link) (upset : List Nat) : State :=
  match s.feederOf w t (match l with | .row => .row | _ => .col) with
  | none => s
  | some (ch, i) =>
    let th := s.thread ch i
    match th.blks with
    | [] => s
    | (k, ls) :: _ =>
      if !th.headDone then s
      else
        let f := w.flitOf k (th.buf.take ls.length) th.sent
        let s := s.setThread ch i fun th => if th.sent + 1 < f.need then { th with sent := th.sent + 1 } else th.popBlk
        (s.landFlit w t l f upset).pumpCh ch

/-- A flit moves into a tile's row or column link, from the neighbour, which takes it as it forwards it, or from the feeder (R72,
R82, R83). A tile at an edge first takes what its buffer has room for by now; a full link takes none. On the partial link the neighbour passes the next flit of its row partial (R45). -/
def State.sendFlit (s : State) (w : Work) (t : Nat) (l : Link) (upset : List Nat) : State :=
  match l with
  | .part => ((s.linkFrom w t .row).bind fun e => s.passFlit w e upset).getD s
  | l =>
    let s := State.drainLink w t l 8 s
    if 8 ≤ ((s.tile t).flits l).length then s
    else match s.linkFrom w t l with
      | some e =>
        match (s.tile e).flits l with
        | [] => s
        | f :: _ => if s.canTake w e l then (s.takeFlit w e l).landFlit w t l f upset else s
      | none => s.injectFlit w t l upset

/-- FLIT_TRANSFER. -/
def execFlitTransfer (t : Nat) (l : Link) (upset : List Nat) (s : State) : Host.Outcome State Fault Refusal :=
  .next (s.onTile t fun s w => s.sendFlit w t l upset)

end Sys2Proof.Machine
end

