-- ==== Sys2Proof/Machine/Idle.lean ====
section
/-! DEFINITION. One cycle of the control clock in which no command is given: time, the datum clock and the Bearing
accumulator advance (R16, R288, R291, R298; log 3). -/

namespace Sys2Proof.Machine

open Sys2Proof

/-- The datum clock in kHz; 250,000 before the first seal (R376). -/
def State.datumKhz (s : State) : Nat := match s.lgd.inForce with | some l => l.datumKhz | none => 250000

/-- n cycles of the datum clock: the interval being measured grows, and the accumulator counts outside WAIT (R290, R291).
In FREE a stopped clock is replaced by the control clock at the Legend's datum frequency (R298). -/
def Dat.cycles (d : Dat) (n : Nat) : Dat :=
  if d.stopped && d.tracker != .free then d
  else { d with
    cyc := d.cyc + n
    freeCyc := if d.tracker == .free then d.freeCyc + n else d.freeCyc
    acc := if d.tracker == .wait then 0 else min (2 ^ 57) (d.acc + n * d.inc) }

/-- One control clock cycle of 1 ns: the datum clock's phase advances by its frequency in kHz, and a whole million of it is
one datum clock edge (R16, R288). -/
def Dat.tick (d : Dat) (khz : Nat) : Dat :=
  let p := d.phase + khz
  Dat.cycles { d with phase := p % 1000000 } (p / 1000000)

/-- The block idles for one control clock cycle. -/
def State.idle (s : State) : State :=
  { s with pins := { s.pins with now := s.pins.now + 1 }, dat := s.dat.tick s.datumKhz }

end Sys2Proof.Machine
end

