-- ==== Sys2Proof/Machine/Datum.lean ====
section
/-! DEFINITION. The Datum and the Bearing: pulses, the tracker, the schedule and its events, the loss of the beat, and mode
epochs (13_datum_and_bearing.md, R286 to R302). -/

namespace Sys2Proof.Machine

open Sys2Proof

/-! ## Epochs (R299 to R302) -/

/-- The epoch after another: 1 follows 0xFFFF (R299). -/
def nextEpoch (e : Nat) : Nat := if e = 0xFFFF then 1 else e + 1

/-- MODE_REQ (R299): the request of the next epoch, or REJECTED. A FORCE counts only where the tracker is in FREE (R302). -/
def State.modeReq (s : State) (v : W64) : State :=
  let e := bits v.toNat 0 16
  if s.lgd.standalone || s.mode.pending || e != nextEpoch s.mode.requested then { s with mode := { s.mode with rejected := true } }
  else { s with mode := { s.mode with
    requested := e, pending := true, reqAt := s.pins.now, pendingSet := s.mode.stage
    force := bits v.toNat 16 1 == 1 && s.dat.tracker == .free } }

/-- MODE_REQ: a write to MODE_REQ. -/
def execModeReq (v : W64) (s : State) : Host.Outcome State Fault Refusal := .next (s.cfgWrite fun s => s.modeReq v)

/-- Every unit in service applies the pending epoch in one cycle (R300): the mode set, the clocks that follow DROOP, and the
record. A request made in this very cycle waits for the next pulse. -/
def State.applyEpoch (s : State) : State :=
  if s.mode.pending && decide (s.mode.reqAt < s.pins.now) then
    let e := s.mode.requested
    let chs := (List.range 4).map fun ch => if s.chOn ch then e else s.mode.chApplied.getD ch 1
    let s := { s with mode := { s.mode with applied := e, pending := false, force := false, set := s.mode.pendingSet, chApplied := chs } }
    s.setClocks.emitEngine 0x24 e
  else s

/-! ## The schedule (R293, R294) -/

/-- The active bank of the schedule. -/
def State.bank (s : State) : Nat := bits s.mode.set 8 1

/-- DAT_SCHED_LO and DAT_SCHED_HI of an entry of the active bank. -/
def State.schedEntry (s : State) (e : Nat) : Nat × Nat := Tab.get (0, 0) s.dat.sched (256 * s.bank + e)

/-- KIND, CONTEXT, ROUND_PASS and BEARING of an entry. -/
def State.schedKind (s : State) (e : Nat) : Nat := bits (s.schedEntry e).1 12 4

/-- CONTEXT of an entry. -/
def State.schedCtx (s : State) (e : Nat) : Nat := bits (s.schedEntry e).1 24 16

/-- BEARING of an entry. -/
def State.schedBearing (s : State) (e : Nat) : Nat := bits (s.schedEntry e).1 0 12

/-- An entry's ROUND_PASS admits the present pass (R293, R294): a SELFTEST or CHECKPOINT entry takes 0 only. -/
def State.passMatches (s : State) (e : Nat) : Bool :=
  let rp := bits (s.schedEntry e).1 16 7
  let k := s.schedKind e
  rp == 0 || (k != 2 && k != 3 && decide (rp ≤ 64) && s.ctxExists (s.schedCtx e)
    && (s.ctx (s.schedCtx e)).passInRound + 1 == rp)

/-- What fires at a Bearing, in the order of R292. -/
inductive BEvent
  | entry (kind e : Nat)
  | mosaic (ctx : Nat)
  | atBearing (c : CmdId)
  deriving DecidableEq, Repr

/-- The order of a kind among events due together (R292). -/
def kindOrder : Nat → Nat
  | 3 => 1 | 2 => 2 | 5 => 3 | 4 => 5 | _ => 6

/-- The deadline of a context may still fire in this pass (R258, R292). -/
def State.mosDue (s : State) (ctx : Nat) : Bool := s.inRounds ctx && !s.dat.firedMos.contains ctx && s.deadlineDue ctx

/-- An AT_BEARING that waits for the present pass (R296). -/
def State.atDue (s : State) (c : Cmd) : Bool := c.op == 0x23 && c.phase == .begun && s.passIsNow c && c.placed

/-- Events of the present pass that have not fired, with their Bearing, order and tie (R292). -/
def State.dueEvents (s : State) : List (Nat × Nat × Nat × BEvent) :=
  let es := (List.range 256).filterMap fun e =>
    let k := s.schedKind e
    if 1 ≤ k && k ≤ 5 && s.passMatches e && !s.dat.fired.contains e then some (s.schedBearing e, kindOrder k, e, BEvent.entry k e) else none
  let ms := (s.ctxs.filter fun c => s.mosDue c.1).map fun c => (s.deadlineBearing c.1, 4, c.1, BEvent.mosaic c.1)
  let cs := (s.cmds.filter s.atDue).map fun c => (c.atB, 7, c.id.q, BEvent.atBearing c.id)
  sortBy (fun a b => decide (a.1 < b.1) || (a.1 == b.1 && (decide (a.2.1 < b.2.1) || (a.2.1 == b.2.1 && decide (a.2.2.1 ≤ b.2.2.1)))))
    (es ++ ms ++ cs)

/-- The event an event row names is the next to fire: its Bearing is reached, and nothing that comes before it in the order of R292
is still to fire. In FREE only the self-test and checkpoint entries count (R298). -/
def State.nextEvent (s : State) (x : BEvent) : Bool :=
  let fires := fun (y : Nat × Nat × Nat × BEvent) => s.dat.tracker == .track ||
    (match y.2.2.2 with | .entry k _ => k == 2 || k == 3 | _ => false)
  match ((s.dueEvents.filter fires).filter fun y => decide (y.1 ≤ s.bearing)).head? with
  | some y => y.2.2.2 == x
  | none => false

/-- An entry of a kind is due in this pass, its Bearing is reached and its turn has come, and it has not fired; in FREE only
SELFTEST and CHECKPOINT fire (R292, R298). -/
def State.entryDue (s : State) (kind e : Nat) : Bool :=
  s.alive && decide (e < 256) && s.schedKind e == kind && s.passMatches e && !s.dat.fired.contains e
    && (s.dat.tracker == .track || (s.dat.tracker == .free && (kind == 2 || kind == 3))) && s.nextEvent (.entry kind e)

/-- An entry has fired in this pass. -/
def State.markFired (s : State) (e : Nat) : State := { s with dat := { s.dat with fired := s.dat.fired ++ [e] } }

/-- A LOOKAHEAD entry acts: its list is issued, or the entry is skipped and counted (R230, R294). -/
def State.actLook (s : State) (e : Nat) : State :=
  let n := bits (s.schedEntry e).1 40 5
  let a := bits (s.schedEntry e).2 0 52
  if s.ctxExists (s.schedCtx e) && decide (1 ≤ n) && decide (n ≤ 16) && a % 64 == 0 && s.inMap a (16 * n)
  then s.startLook (s.schedCtx e) none a n else s.bumpErr .laSkip

/-- A SELFTEST entry opens a window of ARG bu, each P/4,096 of a pass (R291, R294); one that is open for longer stays open. -/
def State.actWindow (s : State) (e : Nat) : State :=
  let n := bits (s.schedEntry e).2 0 12
  let upTo := s.pins.now + n * s.dat.period * 1000000 / (4096 * s.datumKhz)
  { s with dat := { s.dat with window := some (max upTo (s.dat.window.getD 0)) } }

/-- A CHECKPOINT entry starts a checkpoint where the interval has elapsed (R369). -/
def State.actCheckpoint (s : State) : State := if s.ckptFree && s.ckptElapsed then s.startCkpt false else s

/-- A context has a SEND_OPEN entry in the active bank (R295). -/
def State.hasOpener (s : State) (ctx : Nat) : Bool :=
  (List.range 256).any fun e => s.schedKind e == 4 && s.schedCtx e == ctx

/-- Frames that waited for a context's send window leave, in order; steps and gathers that waited for nothing else are
done (R256, R295). -/
def State.flushHeld (s : State) (ctx : Nat) : State :=
  let mine := (s.mos.held.filter fun x => x.1 == ctx).map (·.2)
  let s1 := { s with mos := { s.mos with out := s.mos.out ++ mine, held := s.mos.held.filter fun x => x.1 != ctx } }
  let x := (s1.rt ctx).stream
  let s2 := x.steps.foldl (fun s t => s.settleStep ctx t.idx) s1
  x.gathers.foldl (fun s g => match s.cmd g.cmd with | some c => s.settleGather c g | none => s) s2

/-- The send window of a context opens. -/
def State.openWindow (s : State) (ctx : Nat) : State :=
  (s.updRt ctx fun r => { r with window := true }).flushHeld ctx

/-- The send window of a context closes; one without a SEND_OPEN entry stays open. -/
def State.closeWindow (s : State) (ctx : Nat) : State :=
  if s.hasOpener ctx then s.updRt ctx fun r => { r with window := false } else s

/-- What an entry does when it fires, by its kind (R294). -/
def State.actEntry (s : State) (e : Nat) : State :=
  match s.schedKind e with
  | 1 => s.actLook e
  | 2 => s.actWindow e
  | 3 => s.actCheckpoint
  | 4 => s.openWindow (s.schedCtx e)
  | 5 => s.closeWindow (s.schedCtx e)
  | _ => s

/-- An entry of a kind fires. -/
def State.fireEntry (s : State) (kind e : Nat) : State := if s.entryDue kind e then (s.markFired e).actEntry e else s

/-- LOOKAHEAD: a LOOKAHEAD entry of the active bank fires. -/
def execLookahead (e : Nat) (s : State) : Host.Outcome State Fault Refusal := .next (s.fireEntry 1 e)

/-- SELFTEST_WINDOW: a SELFTEST entry fires. -/
def execSelftestWindow (e : Nat) (s : State) : Host.Outcome State Fault Refusal := .next (s.fireEntry 2 e)

/-- CHECKPOINT: a CHECKPOINT entry fires. -/
def execCheckpoint (e : Nat) (s : State) : Host.Outcome State Fault Refusal := .next (s.fireEntry 3 e)

/-- SEND_OPEN: a SEND_OPEN entry fires. -/
def execSendOpen (e : Nat) (s : State) : Host.Outcome State Fault Refusal := .next (s.fireEntry 4 e)

/-- SEND_CLOSE: a SEND_CLOSE entry fires. -/
def execSendClose (e : Nat) (s : State) : Host.Outcome State Fault Refusal := .next (s.fireEntry 5 e)

/-- MOSAIC_DEADLINE: the Bearing of the round's deadline is reached; it fires only in TRACK, once in a pass, in its turn
(R292, R298). -/
def execMosaicDeadline (ctx : Nat) (s : State) : Host.Outcome State Fault Refusal :=
  .next (
    if s.inRounds ctx && s.dat.tracker == .track && !s.dat.firedMos.contains ctx && s.nextEvent (.mosaic ctx) then s.fireDeadline ctx else s)

/-- AT_BEARING_REACHED: the Bearing reaches the target of a command in its pass, and its turn has come; no such event
fires in FREE (R292, R298). -/
def execAtBearingReached (id : CmdId) (s : State) : Host.Outcome State Fault Refusal :=
  .next (s.runOp id 0x23 fun c => if s.dat.tracker == .track && s.passIsNow c && c.placed && decide (c.atB ≤ s.bearing) && s.nextEvent (.atBearing id) then s.bearingDone id else s)

/-! ## The pulse (R286, R287, R290, R291, R297) -/

/-- A rejected pulse: counted, and reported at most once in any 10 ms (R286, R287). -/
def State.rejectPulse (s : State) : State :=
  let s := s.bumpErr .datReject
  let n := s.dat.rejSince + 1
  let quiet := match s.dat.rejAt with | some t => decide (s.pins.now - t < 10000000) | none => false
  if quiet then { s with dat := { s.dat with rejSince := n } }
  else State.emitEngine { s with dat := { s.dat with rejSince := 0, rejAt := some s.pins.now } } 0x20 (n % 2 ^ 32)

/-- Fire one event left over at a pulse (R297, step 1): its records carry its scheduled Bearing. -/
def State.fireLate (s : State) (x : Nat × Nat × Nat × BEvent) : State :=
  let s := { s with dat := { s.dat with acc := min (2 ^ 57) (x.1 * 2 ^ 44) } }
  match x.2.2.2 with
  | .entry _ e => (s.markFired e).actEntry e
  | .mosaic c => if s.mosDue c then s.fireDeadline c else s
  | .atBearing c => if (s.cmd c).any s.atDue then s.bearingDone c else s

/-- Step 1 of R297: every event of the ending pass that is still due fires. -/
def State.fireAll (s : State) : State := if s.dat.tracker == .wait then s else s.dueEvents.foldl State.fireLate s

/-- The interval enters the history, and P and inc follow from it (R290, R291). -/
def State.track (s : State) : State :=
  let khz := s.datumKhz
  let d := s.dat
  let ok := !d.first && decide (khz ≤ d.cyc * 10) && decide (d.cyc ≤ khz * 100000)
  let h := if ok then (d.history ++ [d.cyc]).drop (d.history.length + 1 - 8) else d.history
  let nominal := match s.lgd.inForce with | some g => g.nominal | none => 0
  let p := if h.isEmpty then nominal else h.foldl (· + ·) 0 / h.length
  { s with dat := { d with history := h, period := p, inc := 2 ^ 56 / p, acc := 0, cyc := 0, first := false } }

/-- The pass-in-round counter of a context advances (R255, R262, R267). -/
def State.advancePass (s : State) (ctx : Nat) : State :=
  let e := s.ctx ctx
  if e.state == .free then s
  else
    let n := if (s.rt ctx).waitPulse then 0 else (e.passInRound + 1) % max 1 e.sendEvery
    let s := s.updRt ctx fun r => { r with waitPulse := false, oldDeadline := none, late := false }
    if e.sendEvery = 0 then s
    else
      let late := e.roundState == .exchange || e.roundState == .closing || e.roundState == .undecided
      let gen := e.gsLeft != 0
      let s := s.updCtx ctx fun c => { c with passInRound := n }
      if n ≠ 0 then s
      else s.updStream ctx fun x =>
        { x with genNext := gen, gen := if late then x.gen else gen, prev := late, early := false }

/-- Contexts named in SEND_OPEN entries of the active bank. -/
def State.openers (s : State) : List Nat :=
  (List.range 256).filterMap fun e => if s.schedKind e = 4 then some (s.schedCtx e) else none

/-- Every send window is reset for a new pass (R295): closed for a context with a SEND_OPEN entry, open for every other. -/
def State.resetWindows (s : State) : State :=
  let os := s.openers
  let s := os.foldl (fun s c => s.updRt c fun r => { r with window := false }) s
  ((s.rts.map (·.1)).filter fun c => !os.contains c).foldl State.openWindow s

/-- Every send window is open (R298). -/
def State.openWindows (s : State) : State := (s.rts.map (·.1)).foldl State.openWindow s

/-- An AT_BEARING counts a pulse. -/
def Cmd.countPulse (c : Cmd) : Cmd :=
  if c.op = 0x23 && c.phase == .begun then { c with waitPulses := c.waitPulses.map (· - 1), placed := true } else c

/-- Step 4 of R297: an AT_BEARING for a numbered pass now passed completes at once (R296). -/
def State.releasePassed (s : State) : State :=
  let ids := (s.cmds.filter fun c => c.op == 0x23 && c.phase == .begun && c.fld 0x40 12 2 == 2
    && decide (c.fld 0x48 0 64 < s.dat.pass.toNat)).map (·.id)
  ids.foldl State.bearingDone s

/-- An accepted pulse, step by step (R297). -/
def State.acceptPulse (s : State) (pass : W64) : State :=
  let s := s.fireAll
  let free := s.dat.tracker == .free
  let us := (s.pins.now - s.dat.freeSince) / 1000
  let s := s.track.applyEpoch
  let old := s.dat.pass
  let s := { s with dat := { s.dat with tracker := .track, pass := pass, fired := [], firedMos := [], pulses := s.dat.pulses + 1 } }
  let s := if pass = old + 1#64 then s else s.emitEngine 0x21 (old.toNat + pass.toNat % 2 ^ 32 * 2 ^ 64)
  let s := if free then s.emitEngine 0x23 us else s
  let s := (s.ctxs.map (·.1)).foldl State.advancePass (s.addLife 3 1)
  let s := s.endHolds.resetWindows
  State.releasePassed { s with cmds := s.cmds.map Cmd.countPulse }

/-- DATUM_PULSE: DATUM_PULSE rises in a datum clock cycle. Without DATUM_VALID, or less than an eighth of the tracked period
after the last accepted pulse, it is rejected (R286, R287). -/
def execDatumPulse (valid : Bool) (pass : W64) (s : State) : Host.Outcome State Fault Refusal :=
  .next (
    if !s.alive || s.dat.stopped then s
    else if !valid || (s.dat.tracker != .wait && decide (8 * s.dat.cyc < s.dat.period)) then s.rejectPulse
    else s.acceptPulse pass)

/-! ## Losing the beat (R288, R298) -/

/-- A free period begins: the Bearing restarts at 0 first, look-ahead holds end, a FORCE epoch is applied, and SELFTEST and
CHECKPOINT entries may fire again (R298, R302). -/
def State.startFree (s : State) : State :=
  let b := s.bank
  let s := { s with dat := { s.dat with acc := 0, freeCyc := 0 } }
  let s := if s.mode.force then s.applyEpoch else s
  let fired := if s.bank = b then s.dat.fired.filter fun e => s.schedKind e != 2 && s.schedKind e != 3
    else (List.range 256).filter fun e => s.schedKind e != 2 && s.schedKind e != 3
  State.endHolds { s with dat := { s.dat with fired := fired, pulses := s.dat.pulses + 1 } }

/-- Enter FREE (R290, R298): the record, the life counter, an empty history, every send window open, the first free period. -/
def State.enterFree (s : State) : State :=
  let s := (s.emitEngine 0x22 (s.dat.period % 2 ^ 32)).addLife 13 1
  let s := { s with dat := { s.dat with tracker := .free, history := [], first := true, freeSince := s.pins.now } }
  s.openWindows.startFree

/-- DATUM_LOST: the datum clock shows no edge for 10 µs. In WAIT only the record is written; in FREE the beat is lost
already. -/
def execDatumLost (s : State) : Host.Outcome State Fault Refusal :=
  .next (
    if !s.alive || s.dat.stopped then s
    else
      let s := { s with dat := { s.dat with stopped := true } }
      match s.dat.tracker with
      | .wait => s.emitEngine 0x22 (s.dat.period % 2 ^ 32)
      | .track => s.enterFree
      | .free => s)

/-- ACCUMULATOR_LIMIT: the accumulator reaches 2^57 without an accepted pulse (R298). -/
def execAccumulatorLimit (s : State) : Host.Outcome State Fault Refusal :=
  .next (if s.alive && s.dat.tracker == .track && s.dat.acc == 2 ^ 57 then s.enterFree else s)

/-- FREE_PERIOD: P cycles after the last free period began, the next one begins. -/
def execFreePeriod (s : State) : Host.Outcome State Fault Refusal :=
  .next (if s.alive && s.dat.tracker == .free && decide (s.dat.period ≤ s.dat.freeCyc) then s.startFree else s)

/-- DATUM_EDGES_RESUMED: the datum clock runs again; the monitor may report the next loss, and free periods are timed from the
datum clock (R288, R298). -/
def execDatumEdgesResumed (s : State) : Host.Outcome State Fault Refusal :=
  .next { s with dat := { s.dat with stopped := false } }

end Sys2Proof.Machine
end

