-- ==== Sys2Proof/Machine/Contexts.lean ====
section
/-! DEFINITION. The context window: the entry image, the six context operations and their end (R242, R318 to R321, R345,
R414). -/

namespace Sys2Proof.Machine

open Sys2Proof

/-! ## The entry image (R318) -/

/-- The fields of an entry, (place, width) in bits of its 128 B. -/
def entryFields : List (Nat × Nat) :=
  [(0, 64), (64, 32), (96, 6), (102, 2), (104, 8), (128, 40), (168, 40), (208, 40), (248, 40), (288, 48), (336, 48), (384, 16),
   (400, 1), (416, 48), (464, 16), (480, 32), (512, 16), (528, 7), (536, 8), (544, 12), (556, 3), (560, 6), (566, 2), (576, 64),
   (640, 48), (704, 11)]

/-- The image in CTX_DATA0 to CTX_DATA15. -/
def CtxWin.image (w : CtxWin) : Nat := leNat (w.data.flatMap fun v => leBytes 8 v.toNat)

/-- CTX_DATA0 to CTX_DATA15 of an image. -/
def imageWords (n : Nat) : List W64 := (List.range 16).map fun i => BitVec.ofNat 64 (bits n (64 * i) 64)

/-- The D fields of an image over an entry; ROUND stays. -/
def CtxEntry.takeD (e : CtxEntry) (n : Nat) : CtxEntry :=
  { e with
    seed := BitVec.ofNat 64 (bits n 0 64), defDeadline := bits n 64 32, evq := bits n 96 6
    trvBase1 := bits n 128 40, trvSize1 := bits n 168 40, trvBase2 := bits n 208 40, trvSize2 := bits n 248 40
    regionTable := bits n 416 48, regionCount := bits n 464 16
    msid := bits n 512 16, sendEvery := bits n 528 7, mosDeadline := bits n 544 12, roundSteps := bits n 704 11 }

/-- STATE as its field has it (R318). -/
def CtxState.code : CtxState → Nat
  | .free => 0 | .active => 1 | .quarantined => 2 | .resetting => 3

/-- ROUND_STATE as its field has it (R318). -/
def RoundState.code : RoundState → Nat
  | .idle => 0 | .exchange => 1 | .closing => 2 | .sealed => 3 | .voidHold => 4 | .undecided => 5

/-- The image of an entry, its E fields included (R318, R320). -/
def State.entryImage (s : State) (ctx : Nat) : Nat :=
  let e := s.ctx ctx
  let free := e.state == .free
  let fs := [e.seed.toNat, e.defDeadline, e.evq, e.state.code, e.resets, e.trvBase1, e.trvSize1, e.trvBase2, e.trvSize2,
    if free then 0 else s.trvUsed ctx false, if free then 0 else s.trvUsed ctx true, if free then 0 else (s.rt ctx).stack.length,
    if e.broken then 1 else 0, e.regionTable, e.regionCount, e.resetT0, e.msid, e.sendEvery, e.gsLeft, e.mosDeadline,
    e.roundState.code, e.passInRound, e.voidRun, e.round.toNat, e.seq, e.roundSteps]
  (List.zip entryFields fs).foldl (fun n f => putBits n f.1.1 f.1.2 f.2) 0

/-! ## Refusals (R151, R242, R320, R414) -/

/-- The Traverse ranges of an entry, in 4 KiB units, each with its tier. -/
def CtxEntry.trvRanges (e : CtxEntry) : List (Nat × Nat × Nat) :=
  [(1, e.trvBase1, e.trvSize1), (2, e.trvBase2, e.trvSize2)].filter fun r => r.2.2 != 0

/-- A range of bytes lies wholly in memory of a tier, in one entry of the address map or in several that adjoin (R151, R378). -/
def State.inTier (s : State) (tier a n : Nat) : Bool :=
  match s.lgd.inForce with
  | none => false
  | some l =>
    let upTo := (List.range l.ranges.length).foldl (fun cur _ =>
      match l.ranges.find? fun g => g.tier == tier && decide (g.base ≤ cur) && decide (cur < g.base + g.size) with
      | some g => g.base + g.size
      | none => cur) a
    decide (a + n ≤ upTo)

/-- The Traverse ranges keep R151: each in memory of its tier, no spill range under SPILL = OFF, none over another
context's. -/
def State.trvRangesOk (s : State) (ctx : Nat) (e : CtxEntry) : Bool :=
  let others := (s.ctxs.filter fun y => y.1 != ctx && y.2.state != .free).flatMap fun y => y.2.trvRanges
  (s.spillOn || e.trvSize2 == 0)
    && e.trvRanges.all (fun r => s.inTier r.1 (4096 * r.2.1) (4096 * r.2.2))
    && e.trvRanges.all (fun r => others.all fun q => !overlap r.2.1 r.2.2 q.2.1 q.2.2)
    && disjoint (e.trvRanges.map (·.2))

/-- Codes of CTX_STATUS.REASON (R414); 0 for none. -/
def reasonField : Nat := 1
/-- STATE. -/
def reasonState : Nat := 2
/-- NOT_IDLE. -/
def reasonNotIdle : Nat := 3
/-- QUEUES. -/
def reasonQueues : Nat := 4
/-- ABSENT. -/
def reasonAbsent : Nat := 5
/-- MSID. -/
def reasonMsid : Nat := 6

/-- What an entry to be written breaks: FIELD, then MSID (R151, R242, R318, R320). -/
def State.entryError (s : State) (ctx n : Nat) (e : CtxEntry) : Nat :=
  let reserved := clearFields n entryFields != 0
  let rounds := decide (64 < e.sendEvery) || decide (1024 < e.roundSteps) || (e.sendEvery != 0 && e.roundSteps == 0)
  if reserved || e.defDeadline = 0 || rounds || !s.trvRangesOk ctx e then reasonField
  else if e.sendEvery ≠ 0 && s.ctxs.any (fun y => y.1 != ctx && y.2.state != .free && y.2.sendEvery != 0 && y.2.msid == e.msid)
  then reasonMsid
  else 0

/-- Every queue of a context is DISABLED. -/
def State.queuesOff (s : State) (ctx : Nat) : Bool := (s.queuesOf ctx).all fun q => (s.cmq q).state == .disabled

/-! ## The operations (R320, R321) -/

/-- An operation may start: CTX_CMD is not ignored (R382, R414). -/
def State.winOpen (s : State) : Bool := s.cfgOpen && !s.lgd.standalone && !s.flt.out

/-- Run an operation from CTX_CMD: BUSY until CONTEXT_OPERATION_DONE, with the reason it will end with; a write while BUSY is
dropped. -/
def State.runCtxOp (s : State) (op : State → Nat → Nat × State) : State :=
  if !s.winOpen then s
  else if s.win.st = 1 then { s with win := { s.win with dropped := true } }
  else
    let c := s.win.sel
    let (r, s1) := if c < s.ctxCount then op s c else (reasonAbsent, s)
    { s1 with win := { s1.win with st := 1, reason := 0, ctx := c, outcome := r } }

/-- A deadline whose Bearing has passed already does not fire in this pass; nor does an entry of the schedule that becomes due with
its context, by its ROUND_PASS, after its Bearing (R292). -/
def State.skipLate (s : State) (ctx : Nat) : State :=
  let late := (List.range 256).filter fun e =>
    s.schedCtx e == ctx && bits (s.schedEntry e).1 16 7 != 0 && s.passMatches e && decide (s.schedBearing e < s.bearing)
      && !s.dat.fired.contains e
  let s := s.markLate ctx
  if s.dat.tracker != .track then s else { s with dat := { s.dat with fired := s.dat.fired ++ late } }

/-- CREATE (R320): every D field and ROUND; E fields at 0, the Traverse WHOLE. -/
def State.opCreate (s : State) (ctx : Nat) : Nat × State :=
  let n := s.win.image
  let e := { (CtxEntry.init.takeD n) with state := .active, round := BitVec.ofNat 64 (bits n 576 64) }
  if (s.ctx ctx).state != .free then (reasonState, s)
  else
    let r := s.entryError ctx n e
    if r ≠ 0 then (r, s)
    else
      let w := (s.rt ctx).window
      (0, ((s.updCtx ctx fun _ => e).updRt ctx fun _ => { CtxRt.init with window := w }).skipLate ctx)

/-- CREATE. -/
def execCreate (s : State) : Host.Outcome State Fault Refusal := .next (s.cfgWrite fun s => s.runCtxOp State.opCreate)

/-- An UPDATE changes the stream or the length of its rounds (R321). -/
def CtxEntry.roundsDiffer (a b : CtxEntry) : Bool := a.msid != b.msid || a.sendEvery != b.sendEvery || a.roundSteps != b.roundSteps

/-- An UPDATE changes a field that only an idle context may change (R320). -/
def CtxEntry.idleDiffer (a b : CtxEntry) : Bool :=
  a.roundsDiffer b || a.seed != b.seed || a.trvBase1 != b.trvBase1 || a.trvSize1 != b.trvSize1 || a.trvBase2 != b.trvBase2
    || a.trvSize2 != b.trvSize2 || a.regionTable != b.regionTable || a.regionCount != b.regionCount

/-- UPDATE (R320, R321). A MOS_DEADLINE changed with the round's fields applies from the next pass. -/
def State.opUpdate (s : State) (ctx : Nat) : Nat × State :=
  let n := s.win.image
  let old := s.ctx ctx
  let new := old.takeD n
  let rounds := old.roundsDiffer new
  if old.state != .active || (rounds && (old.roundState != .idle || old.passInRound != 0)) then (reasonState, s)
  else if old.idleDiffer new && !s.ctxIdle ctx then (reasonNotIdle, s)
  else
    let r := s.entryError ctx n new
    if r ≠ 0 then (r, s)
    else
      let s1 := (s.updCtx ctx fun _ => new).updRt ctx fun r =>
        if old.regionTable = new.regionTable then r else { r with copies := [] }
      let moved := old.mosDeadline != new.mosDeadline
      let gen := old.gsLeft != 0
      if rounds then
        let s2 := s1.updStream ctx fun x => { x with gen := gen, genNext := gen, early := false }
        (0, (if moved then s2.updRt ctx fun x => { x with oldDeadline := some (x.oldDeadline.getD old.mosDeadline) } else s2).skipLate ctx)
      else if moved then (0, (s1.updRt ctx fun x => { x with oldDeadline := none }).skipLate ctx)
      else (0, s1)

/-- UPDATE. -/
def execUpdate (s : State) : Host.Outcome State Fault Refusal := .next (s.cfgWrite fun s => s.runCtxOp State.opUpdate)

/-- DESTROY (R320): STATE becomes FREE; its stack empties (R170, log 152). -/
def State.opDestroy (s : State) (ctx : Nat) : Nat × State :=
  let st := (s.ctx ctx).state
  if !(st == .active || st == .quarantined) then (reasonState, s)
  else if !s.ctxIdle ctx then (reasonNotIdle, s)
  else if !s.queuesOff ctx then (reasonQueues, s)
  else (0, ((s.dropFrames ctx).trvDestroy ctx).updCtx ctx fun e => { e with state := .free })

/-- DESTROY. -/
def execDestroy (s : State) : Host.Outcome State Fault Refusal := .next (s.cfgWrite fun s => s.runCtxOp State.opDestroy)

/-- READ (R320): one atomic image, the entry of a FREE context included. -/
def State.opRead (s : State) (ctx : Nat) : Nat × State :=
  (0, { s with win := { s.win with data := imageWords (s.entryImage ctx) } })

/-- READ. -/
def execRead (s : State) : Host.Outcome State Fault Refusal := .next (s.cfgWrite fun s => s.runCtxOp State.opRead)

/-- SYNC (R320): the engine drops its copies of region records. -/
def State.opSync (s : State) (ctx : Nat) : Nat × State :=
  if (s.ctx ctx).state != .active then (reasonState, s)
  else if !s.ctxIdle ctx then (reasonNotIdle, s)
  else (0, s.updRt ctx fun r => { r with copies := [] })

/-- SYNC. -/
def execSync (s : State) : Host.Outcome State Fault Refusal := .next (s.cfgWrite fun s => s.runCtxOp State.opSync)

/-- RESET (R345): a context reset starts; refused for a context that is FREE or RESETTING. -/
def State.opReset (s : State) (ctx : Nat) : Nat × State :=
  let st := (s.ctx ctx).state
  if st == .active || st == .quarantined then (0, s.startReset ctx false) else (reasonState, s)

/-- RESET. -/
def execReset (s : State) : Host.Outcome State Fault Refusal := .next (s.cfgWrite fun s => s.runCtxOp State.opReset)

/-- CONTEXT_OPERATION_DONE: the operation in progress ends in DONE, or in REFUSED with its reason (R414). -/
def execContextOperationDone (s : State) : Host.Outcome State Fault Refusal :=
  .next (
    if s.winOpen && s.win.st == 1 then
      { s with win := { s.win with st := if s.win.outcome = 0 then 2 else 3, reason := s.win.outcome } }
    else s)

/-- A CTX_CMD written as a register: the operation its low bits name; 0 and 7 are ignored, but for DROPPED while BUSY (R414). -/
def State.writeCtxCmd (s : State) (op : Nat) : State :=
  match op with
  | 1 => s.runCtxOp State.opCreate
  | 2 => s.runCtxOp State.opUpdate
  | 3 => s.runCtxOp State.opDestroy
  | 4 => s.runCtxOp State.opRead
  | 5 => s.runCtxOp State.opSync
  | 6 => s.runCtxOp State.opReset
  | _ => if s.winOpen && s.win.st == 1 then { s with win := { s.win with dropped := true } } else s

end Sys2Proof.Machine
end

