-- ==== Sys2Proof/Machine/Footpath.lean ====
section
/-! DEFINITION. Responses on the Footpath: what each transfer's response does, by what the transfer carries (R236, R238, R305,
R306, R324, R325, R331 to R333, R369, R370, R380, R393). -/

namespace Sys2Proof.Machine

open Sys2Proof

/-- Remove the oldest transfer of a use. -/
def dropUse (u : FpUse) : List FpReq → List FpReq
  | [] => []
  | r :: t => if r.use = u then t else r :: dropUse u t

/-- The detail of FOOTPATH_RESPONSE (R339). -/
def fpDetail (addr : Nat) (r : Resp) : Nat := addr % 2 ^ 52 + r.code * 2 ^ 56

/-- The fault of a bad Footpath response (R238). -/
def fpCause (addr : Nat) (r : Resp) : Cause := Cause.own 0x0202 (fpDetail addr r)

/-- A slot read failed: the queue stops, with its record (R306). -/
def State.slotFailed (s : State) (q : Nat) : State :=
  let e := s.cmq q
  if e.state == .active && e.head != e.pub && decide (q < 4096) then
    (s.updCmq q fun e => { e with state := .stopped, slot := none }).emitCtx e.ctx 0x32 0 (q + e.head * 4294967296)
  else s

/-- A command owes one response less. -/
def State.fpDone (s : State) (id : CmdId) : State := s.updCmd id fun c => { c with fpOwed := c.fpOwed - 1 }

/-- The flag of a WAIT_FLAG has been read: its condition is tested (R324). -/
def State.flagResponse (s : State) (id : CmdId) (addr : Nat) : State :=
  match s.cmd id with
  | some c =>
    if c.phase == .begun && c.op == 0x21 && c.flagMet (s.memLE addr 8) then s.updCmd id fun x => { x with phase := .done } else s
  | none => s

/-- A command's own Footpath write has been answered: a bad response aborts it (R238). -/
def State.ownResponse (s : State) (id : CmdId) (addr : Nat) (r : Resp) : State :=
  let s := s.fpDone id
  if r.bad && s.alive then
    match s.cmd id with
    | some c => s.abort id { (fpCause addr r) with slot := s.slotOfLine c true (lineOf addr) }
    | none => s
  else s

/-- The operand slot a begun command reads through the Footpath at an address: the source of a small COPY (R236); none for a
descriptor or a table. -/
def State.readSlot (s : State) (id : CmdId) (addr : Nat) : Nat :=
  match s.cmd id with
  | some c => if c.phase == .begun then s.slotOfLine c false (lineOf addr) else 15
  | none => 15

/-- What the response to a transfer does beside the bytes it wrote. -/
def State.fpAfter (s : State) (q : FpReq) (r : Resp) : State :=
  match q.use with
  | .record e seq => if s.stopped then s else if r.bad then s.bumpErr (.evqLost e) else s.afterRecord e seq q.now
  | .notify e => if r.bad && !s.stopped then s.bumpErr (.evqLost e) else s
  | .flagRead id =>
    if !s.alive then s else if r.bad then s.abort id (fpCause q.addr r) else s.flagResponse id q.addr
  | .flagWrite id => s.ownResponse id q.addr r
  | .copyWrite id => s.ownResponse id q.addr r
  | .legend => if s.stopped then s else s.fetchResponse r.bad
  | .checkpoint =>
    if s.flt.safe then { s with alm := { s.alm with ckpt := none } } else s.ckptResponse q r.bad
  | .look ctx addr => if s.stopped then s else s.lookRead ctx addr r.bad
  | .state _ _ | .dropped => s
  | .slot n => if !s.alive then s else if r.bad then s.slotFailed n else s.slotCame n q.addr
  | .table id addr | .copyRead id addr =>
    if !s.alive then s else if r.bad then s.abort id { (fpCause addr r) with slot := s.readSlot id addr } else s.tableCame id addr

/-- The response to a transfer that FP0 has sent: an OKAY write reaches memory (R236). -/
def State.fpResponse (s : State) (u : FpUse) (r : Resp) : State :=
  match if s.fpOut.contains u then s.fp.find? fun q => q.use == u else none with
  | none => s
  | some q =>
    let s1 := State.fpPump (State.memPump { s with fp := dropUse u s.fp, fpOut := dropSent u s.fpOut })
    let s2 := if r.bad || q.data.isEmpty || q.use == .checkpoint && !s.flt.safe then s1 else s1.fpWrite q.addr q.data
    s2.fpAfter q r

/-- FOOTPATH_RESPONSE: a response arrives on FP0. A bad one to the read of a slot stops the queue, and one to a read that a command
depends on aborts the command (R238, R306). -/
def execFootpathResponse (u : FpUse) (r : Resp) (s : State) : Host.Outcome State Fault Refusal :=
  .next (
    if s.pins.poreset then s else s.fpResponse u r)

end Sys2Proof.Machine
end

