-- ==== Sys2Proof/Machine/SelfTest.lean ====
section
/-! DEFINITION. The rotating self-test, the SELFTEST commands and full self-tests (R336, R340, R354 to R357). -/

namespace Sys2Proof.Machine

open Sys2Proof

/-- The tiles of a batch that are tested (R354): channels out of service and gated ones are not self-tested (R348, R386). -/
def State.batchTiles (s : State) (b : Nat) : List Nat :=
  (span (16 * b) (min (16 * b + 16) s.build.size.tiles)).filter fun t => s.chOn (s.build.size.chanOf t)

/-- The batches that have a tile to test. -/
def State.batchesOn (s : State) : List Nat := (List.range s.build.size.batches).filter fun b => !(s.batchTiles b).isEmpty

/-- A failure that a test of some tiles can find: in one of them, or in a shared checker (R340). -/
def TestFail.of (tiles : List Nat) (f : Option TestFail) : Option TestFail :=
  f.filter fun f => decide (5 ≤ f.cls) || tiles.contains f.tile

/-- The arrays that hold a batch's tiles. -/
def State.batchArrs (s : State) (b : Nat) : List Nat :=
  (s.batchTiles b).foldl (fun l t => if l.contains (s.arrOfTile t) then l else l ++ [s.arrOfTile t]) []

/-- A batch. -/
def State.batch (s : State) (b : Nat) : Batch := s.tst.batches.getD b ⟨0, false, false, false⟩

/-- Change a batch. -/
def State.updBatch (s : State) (b : Nat) (f : Batch → Batch) : State :=
  { s with tst := { s.tst with batches := updAt s.tst.batches b f } }

/-- Pause or resume arrays. -/
def State.pauseArrs (s : State) (l : List Nat) (on : Bool) : State :=
  { s with arrs := l.foldl (fun as a => updAt as a fun (x : Arr) => { x with paused := on }) s.arrs }

/-- No operation runs on an array. -/
def State.arrIdle (s : State) (a : Nat) : Bool := (s.arrs.getD a Arr.init).op.isNone

/-- The tiles of paused arrays that have work count the cycles of the test as SELFTEST_WINDOW (R84, R354). -/
def State.countPause (s : State) (l : List Nat) (us : Nat) : State :=
  l.foldl (fun s a => (s.tilesOf a).foldl (fun s t =>
    if s.tileOn t && s.tileWork a t then
      s.countWork 0 (s.build.size.chanOf t) 0 [(Stall.selftestWindow.idx, us * s.presentClock t)]
    else s) s) s

/-- The payload of a SELFTEST_DONE record (R357). -/
def selftestPayload (full : Bool) (fail : Option Nat) (forced : Bool) (batches us : Nat) : Nat :=
  (if full then 1 else 0) + (if fail.isNone then 2 else 0) + (if forced then 4 else 0) + min batches 255 * 256
    + (match fail with | some t => t % 65536 | none => 0xFFFF) * 65536 + min us 4294967295 * 4294967296

/-- A SELFTEST_DONE record, to the requester's context or else to the engine queue; TST_LAST holds its payload whether or not
it could be written (R357, R425). -/
def State.testRecord (s : State) (ctx : Option Nat) (p : Nat) : State :=
  let s := { s with tst := { s.tst with last := p % 2 ^ 64 } }
  match ctx with
  | some c => s.emitCtx c 0x41 0 p
  | none => s.emitEngine 0x41 p

/-- What a failure does (R340, R348, R357): a tile isolates its channel, a shared checker takes the engine out of service. -/
def State.testFailed (s : State) (f : TestFail) : State :=
  let s := s.addLife 15 1
  let d := f.tile % 512 + f.cls % 16 * 4096
  if f.cls < 5 then
    s.isolate (s.build.size.chanOf f.tile) (Cause.own 0x0606 d) 0x0606 d (some f.tile)
  else s.leaveService 0x0606 none none (0x1FF + f.cls % 16 * 4096)

/-- The failing tile of a test; 0xFFFF, no tile, for a shared checker. -/
def TestFail.tileOf (f : TestFail) : Nat := if f.cls < 5 then f.tile else 0xFFFF

/-! ## Batches (R354, R355) -/

/-- FORCING_POINT: a batch has not been tested for the forcing time and is due for a forced window (R355). -/
def execForcingPoint (b : Nat) (s : State) : Host.Outcome State Fault Refusal :=
  .next (
    if s.alive && s.batchesOn.contains b && !(s.batch b).running && s.elapsed (s.batch b).last (s.legendOr (·.forceAt) 80 * 1000000)
    then s.updBatch b fun x => { x with due := true }
    else s)

/-- The batch may run in the open self-test window (R355): half the rotation has passed since its last test, its arrays are
idle, and 24 µs of the window remain. Under SELFTEST = FIXED none runs there (R379). -/
def State.idleWindow (s : State) (b : Nat) : Bool :=
  let rot := s.legendOr (·.rotation) 100
  !(match s.lgd.inForce with | some l => l.selftestFixed | none => false) && (match s.dat.window with | some e => decide (s.pins.now + 24000 ≤ e) | none => false)
    && decide (rot * 500000 ≤ s.pins.now - (s.batch b).last) && (s.batchArrs b).all s.arrIdle

/-- A forced window may begin: 1 ms has passed since the previous forced batch (R355). -/
def State.forcedGap (s : State) : Bool := match s.tst.forcedAt with | some t => s.elapsed t 1000000 | none => true

/-- BATCH_TEST: a batch starts in an idle window, or in a forced one once it is due, and pauses its arrays (R354, R355). -/
def execBatchTest (b : Nat) (s : State) : Host.Outcome State Fault Refusal :=
  .next (
    if s.alive && s.batchesOn.contains b && s.tst.batches.all (fun x => !x.running) && s.tst.fullRun.isNone
        && (s.idleWindow b || ((s.batch b).due && s.forcedGap)) then
      let s1 := { s with tst := { s.tst with testAt := s.pins.now, forcedAt := if s.idleWindow b then s.tst.forcedAt else some s.pins.now } }
      (s1.updBatch b fun x => { x with running := true, due := false, forced := !s.idleWindow b }).pauseArrs (s.batchArrs b) true
    else s)

/-- A tested batch is ticked off for the SELFTEST commands that made it due (R356, R357). -/
def Cmd.tickBatch (b : Nat) (forced : Bool) (fail : Option Nat) (c : Cmd) : Cmd :=
  if c.batches.contains b then
    { c with batches := c.batches.filter (· != b), tested := c.tested + 1, testForced := c.testForced || forced
             testFail := c.testFail.or fail }
  else c

/-- SELFTEST commands whose last batch is tested are done, with their records (R356, R357); a batch whose channels have left service
since is not tested any more (R348). -/
def State.settleTests (s : State) : State :=
  (s.cmds.filter fun c => c.op == 0x30 && c.phase == .begun && c.placed && c.fld 0x40 0 1 == 0 &&
      c.batches.all fun b => !s.batchesOn.contains b).foldl
    (fun s c =>
      let s := s.updCmd c.id fun x => { x with phase := .done }
      s.testRecord (some c.ctx) (selftestPayload false c.testFail c.testForced c.tested ((s.pins.now - c.began) / 1000))) s

/-- The tiles of a batch are no longer queued for a test (R336, R357). -/
def State.unqueue (s : State) (l : List Nat) : State :=
  { s with tiles := l.foldl (fun ts t => updAt ts t fun (u : Tile) => { u with queued := false }) s.tiles }

/-- A batch test ends (R354): its arrays resume, and it counts for its rotation and for the commands that made it due; one
made due again while it ran is still to be tested for them. -/
def State.batchEnd (s : State) (b : Nat) (fail : Option TestFail) : State :=
  let x := s.batch b
  let ft := fail.map TestFail.tileOf
  let s := (s.countPause (s.batchArrs b) 24).pauseArrs (s.batchArrs b) false
  let s := (s.updBatch b fun x => { x with running := false, forced := false, last := s.pins.now }).unqueue (s.batchTiles b)
  let s := { s with tst := { s.tst with rotRun := s.tst.rotRun + 1, rotForced := s.tst.rotForced || x.forced
                                        rotFail := s.tst.rotFail.or ft } }
  let s := if x.due then s else { s with cmds := s.cmds.map (Cmd.tickBatch b x.forced ft) }
  let s := s.settleTests
  match fail with
  | some f => s.testFailed f
  | none => s

/-- BATCH_DONE: a batch test ends 24 µs after it began. -/
def execBatchDone (b : Nat) (fail : Option TestFail) (s : State) : Host.Outcome State Fault Refusal :=
  .next (if s.alive && decide (b < s.build.size.batches) && (s.batch b).running && s.elapsed s.tst.testAt 24000 then
    s.batchEnd b (TestFail.of (s.batchTiles b) fail) else s)

/-- ROTATION_END: the end of a rotation period (R354, R357). -/
def execRotationEnd (s : State) : Host.Outcome State Fault Refusal :=
  .next (
    if s.alive && s.elapsed s.tst.rotFrom (s.legendOr (·.rotation) 100 * 1000000) then
      let t := s.tst
      let s := (s.addLife 14 1).testRecord none (selftestPayload false t.rotFail t.rotForced t.rotRun ((s.pins.now - t.rotFrom) / 1000))
      { s with tst := { s.tst with rotFrom := s.pins.now, rotRun := 0, rotForced := false, rotFail := none } }
    else s)

/-! ## SELFTEST (R356) -/

/-- FULL = 0: every batch is due at once. Given again, it ends once no batch it waits for has a tile to test. -/
def State.runSelftest (s : State) (c : Cmd) : State :=
  if c.fld 0x40 0 1 ≠ 0 then s
  else if c.placed then s.settleTests
  else
    let bs := s.batchesOn
    let s := bs.foldl (fun s b => s.updBatch b fun x => { x with due := true }) s
    s.updCmd c.id fun x => { x with placed := true, batches := bs }

/-- SELFTEST with FULL = 0. -/
def execSelftest (c : CmdId) (s : State) : Host.Outcome State Fault Refusal := .next (s.runOp c 0x30 s.runSelftest)

/-- The full tests that are still wanted, in the order of their acceptance. -/
def State.fullWanted (s : State) : List CmdId :=
  (sortBy (fun a b => decide (a.acc ≤ b.acc)) ((s.tst.fullQ.filterMap s.cmd).filter fun c => c.phase == .begun)).map (·.id)

/-- A full test starts when it is the next one and its condition holds: no array runs an operation, or, with PREEMPT, every
sheet is FREE. All arrays pause. -/
def State.startFull (s : State) (c : Cmd) (ready : Bool) : State :=
  let s := if c.placed then s
    else State.updCmd { s with tst := { s.tst with fullQ := s.tst.fullQ ++ [c.id] } } c.id fun x => { x with placed := true }
  if ready && s.tst.fullRun.isNone && s.fullWanted.head? == some c.id && s.tst.batches.all (fun x => !x.running) then
    State.pauseArrs { s with tst := { s.tst with fullRun := some (c.id, s.pins.now) } } (List.range 4) true
  else s

/-- FULL_SELFTEST: FULL = 1 and PREEMPT = 0. Given again, it starts the test once its condition holds. -/
def execFullSelftest (c : CmdId) (s : State) : Host.Outcome State Fault Refusal :=
  .next (s.runOp c 0x30 fun x =>
    if x.fld 0x40 0 2 = 1 then s.startFull x ((List.range 4).all s.arrIdle) else s)

/-- PREEMPT_SELFTEST: FULL = 1 and PREEMPT = 1. -/
def execPreemptSelftest (c : CmdId) (s : State) : Host.Outcome State Fault Refusal :=
  .next (s.runOp c 0x30 fun x =>
    if x.fld 0x40 0 2 = 3 then s.startFull x (s.tiles.all fun t => t.sheets.all fun h => h.st == .free) else s)

/-- A full test ends (R356, R357): it counts as a test of every batch. -/
def State.fullEnd (s : State) (id : CmdId) (since : Nat) (fail : Option TestFail) : State :=
  let n := s.batchesOn.length
  let s := (s.countPause s.arrays 2000).pauseArrs (List.range 4) false
  let s := (s.unqueue (List.range s.build.size.tiles)).addLife 14 1
  let bs := s.tst.batches.map fun (x : Batch) => { x with due := false, last := s.pins.now }
  let s := { s with tst := { s.tst with batches := bs, fullRun := none, fullQ := s.tst.fullQ.filter (· != id) } }
  let s := { s with cmds := s.cmds.map fun c => (List.range s.build.size.batches).foldl (fun c b => Cmd.tickBatch b false (fail.map TestFail.tileOf) c) c }
  let p := selftestPayload true (fail.map TestFail.tileOf) false n ((s.pins.now - since) / 1000)
  let s := match s.cmd id with
    | some c => State.testRecord (s.updCmd id fun x => { x with phase := if x.phase == Phase.begun then Phase.done else x.phase }) (some c.ctx) p
    | none => s.testRecord none p
  let s := s.settleTests
  match fail with
  | some f => s.testFailed f
  | none => s

/-- FULL_TEST_DONE: the full test that runs ends, after its 2 ms (R356). -/
def execFullTestDone (fail : Option TestFail) (s : State) : Host.Outcome State Fault Refusal :=
  .next (
    match s.tst.fullRun with
    | some (id, since) => if s.alive && s.elapsed since 2000000 then
        s.fullEnd id since (TestFail.of ((List.range s.build.size.tiles).filter fun t => s.chOn (s.build.size.chanOf t)) fail) else s
    | none => s)

end Sys2Proof.Machine
end

