-- ==== Sys2Proof/Machine/Startup.lean ====
section
/-! DEFINITION. The reset pins, the start-up they lead to, and BIST (R358, R369, R382 to R384, R401, R406, R408, R425). -/

namespace Sys2Proof.Machine

open Sys2Proof

/-- Footpath writes that FP0 has sent and whose response a reset loses: what they left in memory is not known (R335, R370). -/
def State.loseWrites (s : State) : State :=
  (fpSplit s.fp s.fpOut).1.foldl (fun s r => if r.data.isEmpty then s else s.undefine r.addr r.data.length) s

/-- The Almanac domain through PORESET_N (R358, R408): counters, wear, steps, calendar and supplies stay; the checkpoint
machine is reset, but for SEQ, and the restore window reopens. -/
def Alm.cold (a : Alm) : Alm :=
  { a with restore := .open, ckptOn := false, ckptFailing := false, restoreErr := 0, window := List.replicate 512 0
           ckpt := none, failedAt := none, ageFrom := 0, snapCount := 0, snapPend := false, completed := false }

/-- What both resets restore (R408): every register and every store at its reset value, with the power-on BIST started; the
build, host memory and time are no part of the engine's reset, and a sensor's temperature is not a register's value. -/
def State.restart (s : State) : State :=
  let tiles := (List.range s.tiles.length).map fun t => { Tile.init with temp := (s.tiles.getD t Tile.init).temp }
  { State.reset with
    build := s.build, mem := s.mem, undef := s.undef, free := s.free, pending := s.pending, alm := s.alm, tiles := tiles
    pins := { s.pins with safeAt := none }
    lgd := { State.reset.lgd with rStruct := (2 ^ s.build.size.channels - 1) * 16 } }

/-- PORESET_N is asserted (R401): every domain but the Almanac's is held in reset; SAFE_STATE reads 1 and ALERT_N 1. -/
def State.coldReset (s : State) : State :=
  let s := (s.addLife 4 1).loseWrites
  let r := s.restart
  { r with
    pins := { r.pins with poreset := true, testMode := false, safeAt := some s.pins.now, cfg := .okay }
    flt := { r.flt with safe := true }
    alm := s.alm.cold
    tst := { r.tst with busy := false } }

/-- PORESET_ASSERT. -/
def execPoresetAssert (s : State) : Host.Outcome State Fault Refusal := .next (if s.pins.poreset then s else s.coldReset)

/-! ## The test access port (R387, R406) -/

/-- A truth value as a bit. -/
def bit (b : Bool) : Nat := if b then 1 else 0

/-- Lay fields out in a register: place, width, value. -/
def pack (fs : List (Nat × Nat × Nat)) : Nat := fs.foldl (fun n f => putBits n f.1 f.2.1 f.2.2) 0

/-- IDCODE of the test access port (R406). -/
def State.idcode (s : State) : Nat := pack [(0, 1, 1), (1, 11, s.build.mfr.toNat), (12, 16, 0x4E00 + s.build.size.code), (28, 4, 2)]

/-- TST_BIST (R425). -/
def State.tstBist (s : State) : Nat :=
  let t := s.tst
  pack [(1, 1, bit t.busy), (2, 1, bit t.pass), (4, 4, t.chFail), (8, 1, bit t.sharedFail), (32, 32, t.timeUs)]

/-- TST_BIST_FAIL (R425). -/
def State.tstBistFail (s : State) : Nat := pack [(0, 9, s.tst.stores), (9, 1, bit s.tst.array), (10, 1, bit s.tst.links)]

/-- What an access to an instrument reads: BIST start, scan and clock-generator control are unselectable and read 0 in
the mission setting; BIST results read at any time and disturb nothing, as TST_BIST and, above it, TST_BIST_FAIL report them; what the
clock generators, and in manufacturing test the chains, show is free (R406; log 190). -/
def State.instrument (s : State) (i : Instrument) (k : Nat) : Nat :=
  match i with
  | .bistResults => s.tstBist + s.tstBistFail * 2 ^ 64
  | .clockWatch => Config.freeNat s.free k
  | .bistStart | .clockControl | .scan => if s.pins.testMode then Config.freeNat s.free k else 0

/-- What the selected test instruction puts between TDI and TDO: one bit of BYPASS, which captures 0, the IDCODE, or the
instrument accessed (R387, R406; log 190). -/
def State.tapRead (s : State) (i : Instrument) (k : Nat) : Nat :=
  match s.pins.tap with
  | .bypass => 0
  | .idcode => s.idcode
  | .access => s.instrument i k

/-- A write of TST_BIST.RUN: a diagnostic run, in standalone mode while no run is in progress. -/
def State.runBist (s : State) : State :=
  if s.lgd.standalone && !s.tst.busy && !s.flt.out then { s with tst := { s.tst with busy := true, diag := true } } else s

/-- BIST start through the IEEE 1687 network: selectable only in manufacturing test, with an access instruction loaded (R406). -/
def State.tapBist (s : State) : State :=
  if s.pins.testMode && s.pins.tap == .access && !s.pins.poreset && !s.pins.sysreset then s.runBist else s

/-- One event of the test access port: only the port itself moves, but for a BIST that manufacturing test starts (R406; logs 136, 190). -/
def State.tapEvent (s : State) : TapEvent → State
  | .trst => { s with pins := { s.pins with tap := .idcode } }
  | .load i => { s with pins := { s.pins with tap := i } }
  | .shift i => { s with pins := { s.pins with tdo := s.tapRead i 0 }, free := s.free + 1 }
  | .bistStart => s.tapBist

/-- A run of the port's events. -/
def State.tapEvents (s : State) (l : List TapEvent) : State := l.foldl State.tapEvent s

/-! ## PORESET_N and SYSRESET_N -/

/-- PORESET_RELEASE: start-up begins (R383), with TEST_MODE sampled (R406); SAFE_STATE falls unless SYSRESET_N still holds
it. The row carries the test pins of R406: TEST_MODE, and what has passed on the test access port, which works at any time (DESIGN CHOICE, log 136). -/
def execPoresetRelease (p : TestPins) (s : State) : Host.Outcome State Fault Refusal :=
  .next (
    if s.pins.poreset then
      State.tapEvents { s with
        pins := { s.pins with poreset := false, testMode := p.testMode, coreOut := false }
        flt := { s.flt with safe := s.pins.sysreset }
        tst := { s.tst with busy := true, diag := false } } p.port
    else s.tapEvents p.port)

/-- SYSRESET_ASSERT (R401): all work is abandoned, nothing new is issued and responses are awaited; checkpoints stop (R369). -/
def execSysresetAssert (s : State) : Host.Outcome State Fault Refusal :=
  .next (
    if s.pins.sysreset then s
    else
      let s := s.addLife 5 1
      { s with pins := { s.pins with sysreset := true, sysAt := s.pins.now }, alm := { s.alm with ckptOn := false } })

/-- SYSRESET_N is released (R384, R408): start-up again, the Legend discarded; isolated channels, FLT_ESC and the Almanac stay.
An engine out of service stays out (R343). -/
def State.warmReset (s : State) : State :=
  let s0 := s.loseWrites
  let r := s0.restart
  { r with
    pins := { r.pins with sysreset := false }
    flt := { r.flt with isolated := s.flt.isolated ||| s.flt.isoBusy, degraded := (s.flt.isolated ||| s.flt.isoBusy) != 0
                        escCount := s.flt.escCount, escT0 := s.flt.escT0, escLimit := s.flt.escLimit }
    alm := { s0.alm with ckpt := none } }

/-- SYSRESET_RELEASE: allowed only once SAFE_STATE has been asserted for 1 µs (R401). -/
def execSysresetRelease (s : State) : Host.Outcome State Fault Refusal :=
  .next (
    if !s.pins.sysreset || !s.flt.safe || !s.elapsed (s.pins.safeAt.getD 0) 1000 then s
    else if s.flt.out || s.pins.poreset then { s with pins := { s.pins with sysreset := false } }
    else s.warmReset)

/-! ## BIST (R383, R425) -/

/-- BIST_RUN. -/
def execBistRun (s : State) : Host.Outcome State Fault Refusal := .next (s.cfgWrite fun s => s.runBist)

/-- A run found no failure. -/
def bistClean (r : BistResult) : Bool :=
  r.stores % 512 == 0 && !r.array && !r.links && r.chFail % 16 == 0 && !r.shared

/-- What a diagnostic run can find whose array test covers the channels of a mask (R413, R425): cells and links fail in those channels
only, so that another channel fails only with a private SRAM, in the store codes of R339. -/
def bistWithin (r : BistResult) (chs : Nat) : BistResult :=
  let priv := [1, 2, 3, 4, 7].any fun n => bits r.stores n 1 == 1
  { r with array := r.array && chs != 0, links := r.links && chs != 0, chFail := if priv then r.chFail else r.chFail &&& chs }

/-- The channels the array test of the run in progress covers (R383, R425). -/
def State.bistChans (s : State) : Nat := if s.tst.diag then bits s.lgd.rStruct 4 4 % 2 ^ s.build.size.channels else 15

/-- A run ends: its results reach the TST_ registers; the power-on run isolates the channels that failed, counted as any
isolation, and a failing Atlas bank or shared store takes the engine out of service (R383, R425). -/
def State.bistEnd (s : State) (r : BistResult) : State :=
  let r := bistWithin r s.bistChans
  let diag := s.tst.diag
  let s := { s with tst := { s.tst with
    busy := false, diag := false, pass := bistClean r, chFail := r.chFail % 16, sharedFail := r.shared, timeUs := r.timeUs % 2 ^ 32
    stores := r.stores % 512, array := r.array, links := r.links } }
  if diag then s
  else
    let s := { s with lgd := { s.lgd with bistDone := true } }
    let s := if r.shared then s.leaveService 0x0606 none none 0x1FF else s
    ((maskBits (r.chFail % 16) 4).filter s.chOn).foldl (fun s ch => s.isolate ch (Cause.own 0x0606 0x1FF) 0x0606 0x1FF none) s

/-- BIST_DONE: the run in progress ends. -/
def execBistDone (r : BistResult) (s : State) : Host.Outcome State Fault Refusal :=
  .next (if s.tst.busy && s.cfgOpen && !s.flt.out then s.bistEnd r else s)

end Sys2Proof.Machine
end

