-- ==== Sys2Proof/Machine/Regs.lean ====
section
/-! DEFINITION. The CFG register space: where each register sits, what a read returns and what a write does, with the
responses of R395 (R7, R14 to R16, R365, R395, R407 to R425). -/

namespace Sys2Proof.Machine

open Sys2Proof

/-! ## The map (R409) -/

/-- The registers. -/
inductive Reg
  | gpeId | gpeReset | fltStatus | fltEsc | fltDetail | modeStage | modeReq | modeStatus
  | modeUnit (u : Nat)
  | lgdCtl | lgdStatus | lgdData | lgdFetch | lgdSerial | lgdPendSerial | lgdStruct | lgdAtlas | lgdClocks
  | ctxSel | ctxCmd | ctxStatus
  | ctxData (i : Nat)
  | mosStatus | mosRoundCtl | updStatus | trvStatus | datStatus | datPeriod | datPass
  | schedLo (i : Nat)
  | schedHi (i : Nat)
  | evqBase (q : Nat)
  | evqCtl (q : Nat)
  | evqHead (q : Nat)
  | evqTail (q : Nat)
  | evqNotifyAddr (q : Nat)
  | evqNotifyGap (q : Nat)
  | err (i : ErrId)
  | perf (i : PerfId)
  | stlSnapReg (set i : Nat)
  | stlSnap | stlClear | almStatus | almCtl | almTai | almTaiFrac | almSnap | almSat | almSatSnap
  | almWearSat (k : Nat)
  | almWearSatSnap (k : Nat)
  | almLife (k : Nat)
  | almLifeSnap (k : Nat)
  | almWear (t : Nat)
  | almWearSnap (t : Nat)
  | almRestore (w : Nat)
  | pwrStatus
  | pwrTile (t : Nat)
  | tstBist | tstBistFail | tstRotation | tstLast
  | tstQueued (k : Nat)
  | cmqBase (q : Nat)
  | cmqCtl (q : Nat)
  | cmqDoorbell (q : Nat)
  | cmqStatus (q : Nat)
  deriving DecidableEq, Repr

/-- An index within a run of n registers of 8 B from a base. -/
def regRun (o base n : Nat) : Option Nat := if base ≤ o && decide (o < base + 8 * n) then some ((o - base) / 8) else none

/-- The performance counter at an offset. -/
def perfAt (o : Nat) : Option PerfId :=
  let set := (o - 0x20000) / 256
  let i := (o - 0x20000) % 256 / 8
  if o = 0x6008 then some .commits
  else if o = 0x6010 then some .skips
  else if o = 0x7008 then some .pushes
  else if o = 0x7010 then some .pops
  else if o = 0x7018 then some .discards
  else if o = 0x7020 then some .drops
  else if 0x20000 ≤ o && o < 0x20D00 && (set < 5 || 8 ≤ set) && i < 18 then some (.stall set i)
  else if 0x22100 ≤ o && o < 0x22120 then some (.convoy ((o - 0x22100) / 8))
  else if o = 0x22120 then some .prefetchLost
  else if o = 0x22128 then some .laDrop
  else if o = 0x40008 then some .droops
  else none

/-- Registers of their own offset. -/
def singleRegs : List (Nat × Reg) :=
  [(0, .gpeId), (8, .gpeReset), (0x1000, .fltStatus), (0x1008, .fltEsc), (0x1010, .fltDetail), (0x2000, .modeStage),
   (0x2008, .modeReq), (0x2010, .modeStatus), (0x3000, .lgdCtl), (0x3008, .lgdStatus), (0x3010, .lgdData), (0x3018, .lgdFetch),
   (0x3020, .lgdSerial), (0x3028, .lgdPendSerial), (0x3040, .lgdStruct), (0x3048, .lgdAtlas), (0x3050, .lgdClocks)]
  ++ [(0x4000, .ctxSel), (0x4008, .ctxCmd), (0x4010, .ctxStatus), (0x5000, .mosStatus), (0x5008, .mosRoundCtl),
   (0x6000, .updStatus), (0x7000, .trvStatus), (0x8000, .datStatus), (0x8008, .datPeriod), (0x8010, .datPass),
   (0x22000, .stlSnap), (0x22008, .stlClear), (0x30000, .almStatus), (0x30008, .almCtl), (0x30010, .almTai)]
  ++ [(0x30018, .almTaiFrac), (0x30020, .almSnap), (0x30028, .almSat), (0x30080, .almSatSnap), (0x40000, .pwrStatus),
   (0x50000, .tstBist), (0x50008, .tstBistFail), (0x50010, .tstRotation), (0x50018, .tstLast)]

/-- Runs of registers: base, count, and the register of an index. -/
def runRegs : List (Nat × Nat × (Nat → Reg)) :=
  [(0x2040, 7, .modeUnit), (0x4080, 16, .ctxData), (0x30030, 4, .almWearSat), (0x30088, 4, .almWearSatSnap), (0x31000, 64, .almLife),
   (0x31200, 64, .almLifeSnap), (0x32000, 256, .almWear), (0x32800, 256, .almWearSnap), (0x33000, 512, .almRestore),
   (0x41000, 256, .pwrTile), (0x50020, 4, .tstQueued)]

/-- The schedule registers: entry 256·b + e. -/
def schedAt (o : Nat) : Option Reg :=
  if 0xA000 ≤ o && o < 0xC000 then
    let i := (o - 0xA000) / 16
    some (if o % 16 = 0 then .schedLo i else .schedHi i)
  else none

/-- The snapshot registers. -/
def snapAt (o : Nat) : Option Reg :=
  let set := (o - 0x21000) / 256
  let i := (o - 0x21000) % 256 / 8
  if 0x21000 ≤ o && o < 0x21D00 && (set < 5 || 8 ≤ set) && i < 18 then some (.stlSnapReg set i) else none

/-- The registers of an event queue, but for EVQ_LOST. -/
def evqAt (o : Nat) : Option Reg :=
  if 0x10000 ≤ o && o < 0x11000 then
    let q := (o - 0x10000) / 64
    match o % 64 with
    | 0x00 => some (.evqBase q)
    | 0x08 => some (.evqCtl q)
    | 0x10 => some (.evqHead q)
    | 0x18 => some (.evqTail q)
    | 0x20 => some (.evqNotifyAddr q)
    | 0x28 => some (.evqNotifyGap q)
    | _ => none
  else none

/-- The registers of a command queue. -/
def cmqAt (o : Nat) : Option Reg :=
  if 0x100000 ≤ o && o < 0x120000 then
    let q := (o - 0x100000) / 32
    match o % 32 with
    | 0x00 => some (.cmqBase q)
    | 0x08 => some (.cmqCtl q)
    | 0x10 => some (.cmqDoorbell q)
    | _ => some (.cmqStatus q)
  else none

/-- The register at a CFG offset; none where the map places none (R407, R409). -/
def regAt (o : Nat) : Option Reg :=
  if o % 8 ≠ 0 then none
  else
    (((singleRegs.find? fun x => x.1 == o).map (·.2)).or
      ((errAt o).map Reg.err)).or
      (((perfAt o).map Reg.perf).or
        ((schedAt o).or ((snapAt o).or ((evqAt o).or ((cmqAt o).or
          (runRegs.findSome? fun r => (regRun o r.1 r.2.1).map r.2.2))))))

/-- The register belongs to a channel or a tile that is not built: it reads 0 and ignores writes (R407). -/
def State.unbuilt (s : State) (r : Reg) : Bool :=
  let ch := s.build.size.channels
  let t := s.build.size.tiles
  let set := fun k => decide (k % 8 < 4) && decide (ch ≤ k % 8)
  match r with
  | .modeUnit u => decide (u < 4) && decide (ch ≤ u)
  | .perf (.stall k _) => set k
  | .stlSnapReg k _ => set k
  | .perf (.convoy c) => decide (ch ≤ c)
  | .almWear k | .almWearSnap k | .pwrTile k => decide (t ≤ k)
  | .almWearSat k | .almWearSatSnap k | .tstQueued k => decide (t ≤ 64 * k)
  | _ => false

/-! ## Reads -/

/-- A mask from a list of truth values. -/
def maskOf (l : List Bool) : Nat := l.foldr (fun b n => bit b + 2 * n) 0

/-- GPE_ID (R7). -/
def State.gpeId (s : State) : Nat :=
  let z := s.build.size
  pack [(0, 16, 0x0A7E), (16, 8, 0x4E), (24, 4, 2), (28, 4, 1), (32, 8, s.build.drop.toNat), (40, 4, z.code), (44, 4, z.channels),
    (48, 9, z.tiles)]

/-- FLT_STATUS (R344). -/
def State.fltStatus (s : State) : Nat :=
  let f := s.flt
  pack [(0, 2, if f.out then 2 else bit f.degraded), (2, 4, f.isolated), (6, 1, bit f.alert), (7, 1, bit f.safe), (8, 16, f.cause),
    (24, 21, f.portsOpen)]

/-- The epoch of the oldest command that runs in a unit of R411; APPLIED where none runs. SELFTEST runs on the safety monitor, which
is none of them (R317), and nothing runs in a channel out of service. -/
def State.oldest (s : State) (u applied : Nat) : Nat :=
  let mine := s.cmds.filter fun c => (c.phase == .begun || c.phase == .done || c.phase == .aborting) &&
    (if u < 4 then s.chOn u && s.runsOn u { c with phase := .begun }
     else if u = 4 then decide (0x20 ≤ c.op) && decide (c.op ≤ 0x23)
     else if u = 5 then c.op == 0x0B
     else decide (0x10 ≤ c.op) && decide (c.op ≤ 0x12))
  match sortBy (fun a b => decide (a.acc ≤ b.acc)) mine with
  | c :: _ => c.run.epoch
  | [] => applied

/-- MODE_UNITu (R411). -/
def State.modeUnit (s : State) (u : Nat) : Nat :=
  let a := if u < 4 then s.mode.chApplied.getD u 1 else s.mode.applied
  pack [(0, 16, a), (16, 1, if u < 4 then bit (s.chOn u) else 1), (32, 16, s.oldest u a)]

/-- LGD_STATUS.LOAD's code (R381). -/
def LoadState.code : LoadState → Nat
  | .idle => 0 | .loading => 1 | .verifying => 2 | .verified => 3 | .failed => 4

/-- LGD_STATUS (R381). -/
def State.lgdStatus (s : State) : Nat :=
  let g := s.lgd
  let f := fun (p : Legend → Nat) => match g.inForce with | some l => p l | none => 0
  pack [(0, 3, g.load.code), (3, 1, bit g.inForce.isSome), (4, 1, bit g.standalone), (5, 4, f (·.channels)), (9, 2, f (·.gang)),
    (11, 1, bit g.keyslot), (12, 8, g.reason), (20, 1, bit g.badCmd), (21, 1, bit g.bistDone)]

/-- Streams in EXCHANGE or CLOSING (R242). -/
def State.streams (s : State) : Nat :=
  (s.ctxs.filter fun c => c.2.state != .free && c.2.sendEvery != 0 && (c.2.roundState == .exchange || c.2.roundState == .closing)).length

/-- Updates that wait for their round's seal (R281, R421). -/
def State.pendingUpdates (s : State) : Nat :=
  (s.rts.flatMap fun r => r.2.stream.updates.filter fun u => u.complete && !u.committed).length

/-- TRV_STATUS (R162, R388, R421): a port's staging holds the frames it has not committed; a port that is not built is neither ready
nor has staging. -/
def State.trvStatus (s : State) : Nat :=
  let built := fun p => decide (p < s.build.size.trvPorts)
  let ready := fun p => built p && (s.flt.safe || (!s.lgd.standalone && s.trvStagingFree p != 0))
  let free := fun p => if built p then s.trvStagingFree p else 0
  pack [(0, 1, bit (ready 0)), (1, 1, bit (ready 1)), (8, 11, free 0), (24, 11, free 1)]

/-- DAT_PERIOD (R418): the nominal period while the history is empty, 0 before the first seal. -/
def State.datPeriod (s : State) : Nat :=
  let nominal := match s.lgd.inForce with | some g => g.nominal | none => 0
  pack [(0, 40, if s.lgd.standalone then 0 else if s.dat.history.isEmpty then nominal else s.dat.period), (40, 4, s.dat.history.length)]

/-- An error counter register (R365). -/
def ErrCtr.word (c : ErrCtr) : Nat := pack [(0, 32, c.value), (32, 1, bit c.sat), (33, 1, bit c.thr), (40, 24, c.threshold)]

/-- A performance counter register (R365). -/
def PerfCtr.word (c : PerfCtr) : Nat := pack [(0, 48, c.value), (48, 1, bit c.wrap)]

/-- ALM_STATUS.RESTORE's code (R359). -/
def RestoreState.code : RestoreState → Nat
  | .open => 0 | .restored => 1 | .none => 2 | .ignored => 3

/-- ALM_STATUS (R359). -/
def State.almStatus (s : State) : Nat :=
  let a := s.alm
  pack [(0, 1, bit a.backup), (1, 1, bit a.backupOk), (2, 1, bit a.retained), (3, 2, a.restore.code), (5, 1, bit a.calValid),
    (6, 1, bit a.ckptOn), (7, 1, bit a.ckptFailing), (8, 8, a.restoreErr)]

/-- The wear derating switch; before a seal FMAX reads its reset value, that of no derating (R408, R424). -/
def State.wearOn (s : State) : Bool := match s.lgd.inForce with | some l => l.wear | none => false

/-- PWR_TILE (R424). -/
def State.pwrTile (s : State) (t : Nat) : Nat :=
  let u := s.tiles.getD t Tile.init
  let st := s.alm.step.getD t 0
  pack [(0, 5, st), (8, 8, unsigned 8 u.temp), (16, 16, s.presentClock t), (32, 16, fmaxOf s.wearOn st), (48, 1, bit u.drooping)]

/-- PWR_STATUS. -/
def State.pwrStatus (s : State) : Nat :=
  let ts := s.tiles.take s.build.size.tiles
  let hot := ts.foldl (fun m (t : Tile) => max m t.temp) (ts.headD Tile.init).temp
  pack [(0, 16, s.fmaxLow s.wearOn s.legendChannels), (16, 8, unsigned 8 hot), (32, 9, (ts.filter (·.drooping)).length)]

/-- TST_ROTATION (R408, R425): a batch is past its forcing point once the forcing time has passed since its test; one that a SELFTEST
command alone made due is not. No rotation has started before a Legend is sealed. -/
def State.tstRotation (s : State) : Nat :=
  let forcing := (List.range s.build.size.batches).any fun b =>
    (s.batch b).due && s.elapsed (s.batch b).last (s.legendOr (·.forceAt) 80 * 1000000)
  pack [(0, 8, s.tst.rotRun), (8, 1, bit forcing), (16, 16, if s.lgd.standalone then 0 else (s.pins.now - s.tst.rotFrom) / 1000000),
    (32, 16, s.legendOr (·.rotation) 100)]

/-- CMQ_STATUS's STATE code (R306). -/
def QState.code : QState → Nat
  | .disabled => 0 | .active => 1 | .paused => 2 | .stopped => 3 | .draining => 4

/-- CMQ_CTL of a queue. -/
def State.cmqCtl (s : State) (q : Nat) : Nat :=
  let e := s.cmq q
  pack [(0, 1, bit (e.state != .disabled && e.state != .draining)), (2, 5, e.log2), (16, 16, e.ctx)]

/-- CMQ_STATUS of a queue. -/
def State.cmqStatus (s : State) (q : Nat) : Nat :=
  let e := s.cmq q
  pack [(0, 3, e.state.code), (3, 1, bit e.cfgErr), (4, 4, ((s.cmdsOf q).filter Cmd.waiting).length), (8, 2, s.arrOfQueue q),
    (32, 32, e.head)]

/-- EVQ_CTL of a queue. -/
def State.evqCtl (s : State) (q : Nat) : Nat :=
  let e := s.evq q
  pack [(0, 1, bit e.enable), (1, 5, e.log2), (6, 2, e.notify), (8, 1, bit e.disabling), (9, 1, bit e.cfgErr)]

/-- 64 truth values of a list from a place, as a register. -/
def window64 (l : List Bool) (k : Nat) : Nat := maskOf ((l.drop (64 * k)).take 64)

/-- The value of a register (R15, R18); WO fields read 0. -/
def State.regValue (s : State) (r : Reg) : Nat :=
  match r with
  | .gpeId => s.gpeId
  | .gpeReset => pack [(32, 1, bit s.flt.busy), (33, 4, s.flt.isoBusy)]
  | .fltStatus => s.fltStatus
  | .fltEsc => pack [(0, 8, s.flt.escCount), (8, 32, s.flt.escT0), (40, 8, s.flt.escLimit)]
  | .fltDetail => s.flt.detail
  | .modeStage => s.mode.stage
  | .modeReq => 0
  | .modeStatus => pack [(0, 16, s.mode.requested), (16, 16, s.mode.applied), (32, 1, bit s.mode.pending), (33, 1, bit s.mode.rejected)]
  | .modeUnit u => s.modeUnit u
  | .lgdCtl => 0
  | .lgdStatus => s.lgdStatus
  | .lgdData => 0
  | .lgdFetch => s.lgd.fetchAddr
  | .lgdSerial => if s.lgd.standalone then 0 else match s.lgd.inForce with | some l => l.serial.toNat | none => 0
  | .lgdPendSerial => match s.lgd.staged with | some l => l.serial.toNat | none => 0
  | .lgdStruct => s.lgd.rStruct
  | .lgdAtlas => s.lgd.rAtlas
  | .lgdClocks => s.lgd.rClocks
  | .ctxSel => s.win.sel
  | .ctxCmd => 0
  | .ctxStatus => pack [(0, 2, s.win.st), (4, 4, s.win.reason), (8, 1, bit s.win.dropped), (16, 16, s.win.ctx)]
  | .ctxData i => (s.win.data.getD i 0).toNat
  | .mosStatus => pack [(0, 12, s.legendOr (·.rank) 0), (16, 13, s.legendOr (·.ranks) 1), (32, 4, s.legendOr (·.lanes) 1), (48, 5, s.streams)]
  | .mosRoundCtl => pack [(32, 2, s.mos.result)]
  | .updStatus => pack [(0, 1, bit (s.cmds.any fun c => c.op == 0x12 && c.phase == .begun)), (16, 11, min 2047 s.pendingUpdates)]
  | .trvStatus => s.trvStatus
  | .datStatus => pack [(0, 2, s.dat.tracker.code), (16, 13, s.bearing), (48, 16, s.dat.pass.toNat)]
  | .datPeriod => s.datPeriod
  | .datPass => s.dat.pass.toNat
  | .schedLo i => (Tab.get (0, 0) s.dat.sched i).1
  | .schedHi i => (Tab.get (0, 0) s.dat.sched i).2
  | .evqBase q => (s.evq q).base
  | .evqCtl q => s.evqCtl q
  | .evqHead q => (s.evq q).head
  | .evqTail q => pack [(0, 32, (s.evq q).tail), (32, 17, (s.evq q).reserved)]
  | .evqNotifyAddr q => (s.evq q).addr
  | .evqNotifyGap q => (s.evq q).gap
  | .err i => (s.err i).word
  | .perf i => (s.perf i).word
  | .stlSnapReg st i => ((s.stl.snap.getD st []).getD i PerfCtr.init).word
  | .stlSnap => pack [(32, 32, s.stl.count)]
  | .stlClear => 0
  | .almStatus => s.almStatus
  | .almCtl => 0
  | .almTai => if s.alm.calValid then s.alm.calSec else 0
  | .almTaiFrac => if s.alm.calValid then s.alm.calFrac else 0
  | .almSnap => pack [(32, 32, s.alm.snapCount)]
  | .almSat => s.alm.sat
  | .almSatSnap => s.alm.satSnap
  | .almWearSat k => window64 s.alm.wearSat k
  | .almWearSatSnap k => window64 s.alm.wearSatSnap k
  | .almLife k => s.alm.life.getD k 0
  | .almLifeSnap k => s.alm.lifeSnap.getD k 0
  | .almWear t => s.alm.wear.getD t 0
  | .almWearSnap t => s.alm.wearSnap.getD t 0
  | .almRestore w => (s.alm.window.getD w 0).toNat
  | .pwrStatus => s.pwrStatus
  | .pwrTile t => s.pwrTile t
  | .tstBist => s.tstBist
  | .tstBistFail => s.tstBistFail
  | .tstRotation => s.tstRotation
  | .tstLast => s.tst.last
  | .tstQueued k => window64 (s.tiles.map (·.queued)) k
  | .cmqBase q => (s.cmq q).base
  | .cmqCtl q => s.cmqCtl q
  | .cmqDoorbell _ => 0
  | .cmqStatus q => s.cmqStatus q

/-- What a CFG read of an offset returns; none for DECERR (R395, R407). -/
def State.readReg (s : State) (o : Nat) : Option Nat :=
  (regAt o).map fun r => if s.unbuilt r then 0 else s.regValue r % 2 ^ 64

/-! ## Writes -/

/-- A write to a locked field: ignored, counted, and reported (R15, R330). -/
def State.lockedWrite (s : State) (o : Nat) : State := (s.bumpErr .lockedWrite).emitEngine 0x33 (o % 2 ^ 32)

/-- MODE_STAGE (R299). -/
def State.writeStage (s : State) (o : Nat) (v : W64) : State :=
  if s.mode.pending then s.lockedWrite o else { s with mode := { s.mode with stage := bits v.toNat 0 9 } }

/-- LGD_CTL (R381): the actions of the bits that are set, from bit 0 up. -/
def State.writeLgdCtl (s : State) (v : W64) : State :=
  let on := fun i => bits v.toNat i 1 == 1
  let s := if on 0 then s.lgdBegin else s
  let s := if on 1 && !s.flt.out then s.fetchLegend else s
  let s := if on 2 then s.lgdSeal else s
  if on 3 then s.lgdDiscard else s

/-- CTX_SEL and CTX_DATA: dropped while BUSY (R414). -/
def State.writeWin (s : State) (f : CtxWin → CtxWin) : State :=
  if s.win.st = 1 then { s with win := { s.win with dropped := true } } else { s with win := f s.win }

/-- MOS_ROUND_CTL (R420). -/
def State.writeRoundCtl (s : State) (v : W64) : State :=
  let c := bits v.toNat 0 16
  match bits v.toNat 16 2 with
  | 1 => s.roundResume c
  | 2 => s.roundSeal c
  | 3 => s.roundVoid c
  | _ => s

/-- A schedule register: that of the active bank is locked once a Legend is sealed (R293). -/
def State.writeSched (s : State) (o i : Nat) (f : Nat × Nat → Nat × Nat) : State :=
  if !s.lgd.standalone && i / 256 == s.bank then s.lockedWrite o
  else { s with dat := { s.dat with sched := s.dat.sched.upd (0, 0) i f } }

/-- An RWL register of the Legend group (R413). -/
def State.writeRwl (s : State) (o : Nat) (f : Lgd → Lgd) : State :=
  if s.lgd.standalone then { s with lgd := f s.lgd } else s.lockedWrite o

/-- A word of the ALM_RESTORE window, locked once a Legend is sealed (R413). -/
def State.writeWindow (s : State) (o w : Nat) (v : W64) : State :=
  if s.lgd.standalone then { s with alm := { s.alm with window := setAt s.alm.window w v } } else s.lockedWrite o

/-- ALM_CTL: a write with both bits set is ignored (R423). -/
def State.writeAlmCtl (s : State) (v : W64) : State :=
  match bits v.toNat 0 2 with
  | 1 => s.restore
  | 2 => s.noRestore
  | _ => s

/-- A performance counter register: WRAP is W1C (R365); a wrap of this very cycle stays (R17). The other W1C bits, MODE_STATUS.REJECTED,
BAD_CMD, DROPPED and CFG_ERR, are set by CFG writes alone, of which a cycle has one. -/
def State.writePerf (s : State) (i : PerfId) (v : W64) : State :=
  if bits v.toNat 48 1 = 1 && (s.perf i).wrapAt != some s.pins.now then s.setPerf i { (s.perf i) with wrap := false } else s

/-- What a write to a register does (R15). -/
def State.writeReg (s : State) (o : Nat) (r : Reg) (v : W64) : State :=
  let n := v.toNat
  match r with
  | .gpeReset => s.writeReset v
  | .modeStage => s.writeStage o v
  | .modeReq => s.modeReq v
  | .modeStatus => if bits n 33 1 = 1 then { s with mode := { s.mode with rejected := false } } else s
  | .lgdCtl => s.writeLgdCtl v
  | .lgdStatus => if bits n 20 1 = 1 then { s with lgd := { s.lgd with badCmd := false } } else s
  | .lgdData => s.lgdData v
  | .lgdFetch => { s with lgd := { s.lgd with fetchAddr := bits n 0 52 } }
  | .lgdStruct => s.writeRwl o fun g => { g with rStruct := pack [(0, 2, bits n 0 2), (4, 4, bits n 4 4)] }
  | .lgdAtlas => s.writeRwl o fun g => { g with rAtlas := pack [(0, 4, bits n 0 4), (16, 48, bits n 16 48)] }
  | .lgdClocks => s.writeRwl o fun g => { g with rClocks := bits n 0 48 }
  | .ctxSel => s.writeWin fun w => { w with sel := bits n 0 16 }
  | .ctxCmd => s.writeCtxCmd (bits n 0 3)
  | .ctxStatus => if bits n 8 1 = 1 then { s with win := { s.win with dropped := false } } else s
  | .ctxData i => s.writeWin fun w => { w with data := setAt w.data i v }
  | .mosRoundCtl => s.writeRoundCtl v
  | .schedLo i => s.writeSched o i fun e => (pack [(0, 23, bits n 0 23), (24, 21, bits n 24 21)], e.2)
  | .schedHi i => s.writeSched o i fun e => (e.1, bits n 0 52)
  | .evqBase q => s.writeEvqBase q v
  | .evqCtl q => s.writeEvqCtl q v
  | .evqHead q => s.writeEvqHead q (bits n 0 32)
  | .evqNotifyAddr q => s.updEvq q fun e => { e with addr := bits n 0 52 }
  | .evqNotifyGap q => s.updEvq q fun e => { e with gap := bits n 0 32 }
  | .err i => s.writeErr i v
  | .perf i => s.writePerf i v
  | .stlSnap =>
    if bits n 0 1 = 1 then s.stlSnap else s
  | .stlClear =>
    if bits n 0 1 = 1 then s.stlClear else s
  | .almCtl => s.writeAlmCtl v
  | .almTai => { s with alm := { s.alm with taiPend := some n } }
  | .almSnap => if bits n 0 1 = 1 then { s with alm := { s.alm with snapPend := true } } else s
  | .almRestore w => s.writeWindow o w v
  | .tstBist => if bits n 0 1 = 1 then s.runBist else s
  | .cmqBase q => s.writeCmqBase q v
  | .cmqCtl q => s.writeCmqCtl q v
  | .cmqDoorbell q => s.doorbell q (bits n 0 32)
  | .cmqStatus q => s.writeCmqStatus q v
  | .gpeId | .fltStatus | .fltEsc | .fltDetail | .modeUnit _ | .lgdSerial | .lgdPendSerial | .mosStatus | .updStatus | .trvStatus
  | .datStatus | .datPeriod | .datPass | .evqTail _ | .stlSnapReg _ _ | .almStatus | .almTaiFrac | .almSat | .almSatSnap
  | .almWearSat _ | .almWearSatSnap _ | .almLife _ | .almLifeSnap _ | .almWear _ | .almWearSnap _ | .pwrStatus | .pwrTile _
  | .tstBistFail | .tstRotation | .tstLast | .tstQueued _ => s

/-- REGISTER_WRITE: a CFG write (R395): DECERR where no register is (log 117), SLVERR for a partial strobe, else OKAY; ignored after
SAFE_STATE. While SYSRESET_N is asserted every write gets OKAY and is ignored; CFG is in reset with PORESET_N. -/
def execRegisterWrite (o : Nat) (v : W64) (strobe : Byte) (s : State) : Host.Outcome State Fault Refusal :=
  .next (
    let answer := fun (s : State) (r : CfgResp) => { s with pins := { s.pins with cfg := r } }
    if s.pins.poreset then s
    else if s.pins.sysreset then answer s .okay
    else match regAt o with
      | none => answer s .decerr
      | some r =>
        if strobe != 0xFF#8 then answer s .slverr
        else s.cfgWrite fun s => if s.unbuilt r then s else s.writeReg o r v)

end Sys2Proof.Machine
end

