-- ==== Sys2Proof/Machine/Dispatch.lean ====
section
/-! DEFINITION. What each command does: one arm for each row of the table, each one direct call of its meaning. -/

namespace Sys2Proof.Machine

open Sys2Proof

/-- The effect of a command on everything but the queue of waiting commands. -/
def exec (i : Instr) (s : State) : Host.Outcome State Fault Refusal :=
  match i with
  | .gpPair c => Sys2Proof.Machine.execGpPair c s
  | .gpData c => Sys2Proof.Machine.execGpData c s
  | .gpWeight c => Sys2Proof.Machine.execGpWeight c s
  | .mm c => Sys2Proof.Machine.execMm c s
  | .gpGrouped c => Sys2Proof.Machine.execGpGrouped c s
  | .convData c => Sys2Proof.Machine.execConvData c s
  | .convWeight c => Sys2Proof.Machine.execConvWeight c s
  | .matvec c => Sys2Proof.Machine.execMatvec c s
  | .survey c => Sys2Proof.Machine.execSurvey c s
  | .deriv c => Sys2Proof.Machine.execDeriv c s
  | .pushMark c => Sys2Proof.Machine.execPushMark c s
  | .discardToMark c => Sys2Proof.Machine.execDiscardToMark c s
  | .discardAll c => Sys2Proof.Machine.execDiscardAll c s
  | .reduceScatter c => Sys2Proof.Machine.execReduceScatter c s
  | .vector c => Sys2Proof.Machine.execVector c s
  | .mosaicGather c => Sys2Proof.Machine.execMosaicGather c s
  | .replay c => Sys2Proof.Machine.execReplay c s
  | .apply c => Sys2Proof.Machine.execApply c s
  | .norm c => Sys2Proof.Machine.execNorm c s
  | .copy c => Sys2Proof.Machine.execCopy c s
  | .fill c => Sys2Proof.Machine.execFill c s
  | .fence c => Sys2Proof.Machine.execFence c s
  | .waitFlag c => Sys2Proof.Machine.execWaitFlag c s
  | .signalFlag c => Sys2Proof.Machine.execSignalFlag c s
  | .atBearing c => Sys2Proof.Machine.execAtBearing c s
  | .selftest c => Sys2Proof.Machine.execSelftest c s
  | .fullSelftest c => Sys2Proof.Machine.execFullSelftest c s
  | .preemptSelftest c => Sys2Proof.Machine.execPreemptSelftest c s
  | .doorbell q v => Sys2Proof.Machine.execDoorbell q v s
  | .commandAccept q => Sys2Proof.Machine.execCommandAccept q s
  | .commandIssue q => Sys2Proof.Machine.execCommandIssue q s
  | .commandBegin q => Sys2Proof.Machine.execCommandBegin q s
  | .frameResolve c => Sys2Proof.Machine.execFrameResolve c s
  | .commandComplete c => Sys2Proof.Machine.execCommandComplete c s
  | .deadline c => Sys2Proof.Machine.execDeadline c s
  | .abortDone c => Sys2Proof.Machine.execAbortDone c s
  | .abortTimeout c => Sys2Proof.Machine.execAbortTimeout c s
  | .tileBeat t stalls upset => Sys2Proof.Machine.execTileBeat t stalls upset s
  | .anchorReady t => Sys2Proof.Machine.execAnchorReady t s
  | .drainAccept t => Sys2Proof.Machine.execDrainAccept t s
  | .drainDone t => Sys2Proof.Machine.execDrainDone t s
  | .flitTransfer t link upset => Sys2Proof.Machine.execFlitTransfer t link upset s
  | .partialEast t => Sys2Proof.Machine.execPartialEast t s
  | .lineRequest ch => Sys2Proof.Machine.execLineRequest ch s
  | .atlasLineArrive ch thread uncorrectable => Sys2Proof.Machine.execAtlasLineArrive ch thread uncorrectable s
  | .runAhead ch thread => Sys2Proof.Machine.execRunAhead ch thread s
  | .nextOpPrefetch arr => Sys2Proof.Machine.execNextOpPrefetch arr s
  | .memReadResponse port line resp => Sys2Proof.Machine.execMemReadResponse port line resp s
  | .memWriteResponse port line resp => Sys2Proof.Machine.execMemWriteResponse port line resp s
  | .footpathResponse use resp => Sys2Proof.Machine.execFootpathResponse use resp s
  | .notifyGap evq => Sys2Proof.Machine.execNotifyGap evq s
  | .flagInterval c => Sys2Proof.Machine.execFlagInterval c s
  | .invalidation addr size written => Sys2Proof.Machine.execInvalidation addr size written s
  | .invFilterFree slot => Sys2Proof.Machine.execInvFilterFree slot s
  | .bankConvoy ch => Sys2Proof.Machine.execBankConvoy ch s
  | .scrub hit => Sys2Proof.Machine.execScrub hit s
  | .traversePush port bytes => Sys2Proof.Machine.execTraversePush port bytes s
  | .traverseCommit port => Sys2Proof.Machine.execTraverseCommit port s
  | .traverseEntryFree ctx => Sys2Proof.Machine.execTraverseEntryFree ctx s
  | .reduce lane bytes => Sys2Proof.Machine.execReduce lane bytes s
  | .gather lane bytes => Sys2Proof.Machine.execGather lane bytes s
  | .vectorFrame lane bytes => Sys2Proof.Machine.execVectorFrame lane bytes s
  | .rankReady ctx => Sys2Proof.Machine.execRankReady ctx s
  | .close lane bytes => Sys2Proof.Machine.execClose lane bytes s
  | .decide lane bytes => Sys2Proof.Machine.execDecide lane bytes s
  | .mosaicDeadline ctx => Sys2Proof.Machine.execMosaicDeadline ctx s
  | .mosGrace ctx => Sys2Proof.Machine.execMosGrace ctx s
  | .mosDecideWait ctx => Sys2Proof.Machine.execMosDecideWait ctx s
  | .mosResume ctx => Sys2Proof.Machine.execMosResume ctx s
  | .mosSeal ctx => Sys2Proof.Machine.execMosSeal ctx s
  | .mosVoid ctx => Sys2Proof.Machine.execMosVoid ctx s
  | .datumPulse valid pass => Sys2Proof.Machine.execDatumPulse valid pass s
  | .datumLost => Sys2Proof.Machine.execDatumLost s
  | .accumulatorLimit => Sys2Proof.Machine.execAccumulatorLimit s
  | .freePeriod => Sys2Proof.Machine.execFreePeriod s
  | .lookahead entry => Sys2Proof.Machine.execLookahead entry s
  | .selftestWindow entry => Sys2Proof.Machine.execSelftestWindow entry s
  | .checkpoint entry => Sys2Proof.Machine.execCheckpoint entry s
  | .sendOpen entry => Sys2Proof.Machine.execSendOpen entry s
  | .sendClose entry => Sys2Proof.Machine.execSendClose entry s
  | .atBearingReached c => Sys2Proof.Machine.execAtBearingReached c s
  | .modeReq v => Sys2Proof.Machine.execModeReq v s
  | .create => Sys2Proof.Machine.execCreate s
  | .update => Sys2Proof.Machine.execUpdate s
  | .destroy => Sys2Proof.Machine.execDestroy s
  | .read => Sys2Proof.Machine.execRead s
  | .sync => Sys2Proof.Machine.execSync s
  | .reset => Sys2Proof.Machine.execReset s
  | .contextResetDone ctx => Sys2Proof.Machine.execContextResetDone ctx s
  | .enable q v => Sys2Proof.Machine.execEnable q v s
  | .queueDisable q v => Sys2Proof.Machine.execQueueDisable q v s
  | .restart q v => Sys2Proof.Machine.execRestart q v s
  | .evqEnable q v => Sys2Proof.Machine.execEvqEnable q v s
  | .evqDisable q v => Sys2Proof.Machine.execEvqDisable q v s
  | .evqHead q v => Sys2Proof.Machine.execEvqHead q v s
  | .sequencerMismatch u => Sys2Proof.Machine.execSequencerMismatch u s
  | .isolationDone ch => Sys2Proof.Machine.execIsolationDone ch s
  | .clockMonitor tile mhz => Sys2Proof.Machine.execClockMonitor tile mhz s
  | .supply rail mv => Sys2Proof.Machine.execSupply rail mv s
  | .safeState => Sys2Proof.Machine.execSafeState s
  | .safeStateTimeout => Sys2Proof.Machine.execSafeStateTimeout s
  | .droop tile mhz => Sys2Proof.Machine.execDroop tile mhz s
  | .droopClear tile => Sys2Proof.Machine.execDroopClear tile s
  | .computeReset v => Sys2Proof.Machine.execComputeReset v s
  | .computeResetDone => Sys2Proof.Machine.execComputeResetDone s
  | .isolate v => Sys2Proof.Machine.execIsolate v s
  | .resetHang h => Sys2Proof.Machine.execResetHang h s
  | .forcingPoint batch => Sys2Proof.Machine.execForcingPoint batch s
  | .batchTest batch => Sys2Proof.Machine.execBatchTest batch s
  | .batchDone batch fail => Sys2Proof.Machine.execBatchDone batch fail s
  | .rotationEnd => Sys2Proof.Machine.execRotationEnd s
  | .fullTestDone fail => Sys2Proof.Machine.execFullTestDone fail s
  | .almanacSecond => Sys2Proof.Machine.execAlmanacSecond s
  | .wearSample samples => Sys2Proof.Machine.execWearSample samples s
  | .toBackup => Sys2Proof.Machine.execToBackup s
  | .toMain => Sys2Proof.Machine.execToMain s
  | .backupLow => Sys2Proof.Machine.execBackupLow s
  | .almanacPor => Sys2Proof.Machine.execAlmanacPor s
  | .checkpointForced => Sys2Proof.Machine.execCheckpointForced s
  | .checkpointRetry => Sys2Proof.Machine.execCheckpointRetry s
  | .restore => Sys2Proof.Machine.execRestore s
  | .noRestore => Sys2Proof.Machine.execNoRestore s
  | .almTai v => Sys2Proof.Machine.execAlmTai v s
  | .almSnap => Sys2Proof.Machine.execAlmSnap s
  | .stlSnap => Sys2Proof.Machine.execStlSnap s
  | .stlClear => Sys2Proof.Machine.execStlClear s
  | .clear offset v => Sys2Proof.Machine.execClear offset v s
  | .lgdBegin => Sys2Proof.Machine.execLgdBegin s
  | .lgdData v => Sys2Proof.Machine.execLgdData v s
  | .fetch => Sys2Proof.Machine.execFetch s
  | .legendVerified => Sys2Proof.Machine.execLegendVerified s
  | .lgdSeal => Sys2Proof.Machine.execLgdSeal s
  | .discard => Sys2Proof.Machine.execDiscard s
  | .bistRun => Sys2Proof.Machine.execBistRun s
  | .bistDone r => Sys2Proof.Machine.execBistDone r s
  | .poresetAssert => Sys2Proof.Machine.execPoresetAssert s
  | .poresetRelease pins => Sys2Proof.Machine.execPoresetRelease pins s
  | .sysresetAssert => Sys2Proof.Machine.execSysresetAssert s
  | .sysresetRelease => Sys2Proof.Machine.execSysresetRelease s
  | .registerWrite offset v strobe => Sys2Proof.Machine.execRegisterWrite offset v strobe s
  | .datumEdgesResumed => Sys2Proof.Machine.execDatumEdgesResumed s
  | .vddAonBReturn => Sys2Proof.Machine.execVddAonBReturn s
  | .contextOperationDone => Sys2Proof.Machine.execContextOperationDone s
  | .timebaseTick => Sys2Proof.Machine.execTimebaseTick s

end Sys2Proof.Machine
end

