-- ==== Sys2Proof/WellFormed.lean ====
section
/-! DEFINITION. Which commands are well formed: each operand lies in the range the manual gives it. A command that is not well
formed names a queue, a port, a tile, an entry or a frame that no build of the block has. -/

namespace Sys2Proof

/-- A command queue: 4,096 of them (R303, R409). -/
def queueOk (q : Nat) : Bool := decide (q < 4096)

/-- The name of an accepted command: its queue, and a 32-bit acceptance count (R304). -/
def cmdOk (c : CmdId) : Bool := queueOk c.q && decide (c.n < 2 ^ 32)

/-- An event queue: 64 of them (R326). -/
def evqOk (q : Nat) : Bool := decide (q < 64)

/-- A channel (R4). -/
def chanOk (c : Nat) : Bool := decide (c < 4)

/-- A tile of NV2-X256 (R5). -/
def tileOk (t : Nat) : Bool := decide (t < 256)

/-- A feeder thread of a channel (R221). -/
def threadOk (t : Nat) : Bool := decide (t < 32)

/-- A lane of the Mosaic (R243). -/
def laneOk (l : Nat) : Bool := decide (l < 4)

/-- A Traverse port (R156). -/
def trvPortOk (p : Nat) : Bool := decide (p < 2)

/-- A MEM port (R391). -/
def memPortOk (p : Nat) : Bool := decide (p < 16)

/-- A line of the 52-bit address space (R10, R215). -/
def lineOk (l : Nat) : Bool := decide (l < 2 ^ 44)

/-- A context ID (R318). -/
def ctxOk (c : Nat) : Bool := decide (c < 65536)

/-- An entry of a schedule bank (R293). -/
def entryOk (e : Nat) : Bool := decide (e < 256)

/-- A self-test batch (R354). -/
def batchOk (b : Nat) : Bool := decide (b < 16)

/-- A CFG offset: 24 bits (R395). -/
def offsetOk (o : Nat) : Bool := decide (o < 2 ^ 24)

/-- A Mosaic frame of whole 64 B beats (R252, R396). -/
def beatsOk (l : List Byte) : Bool := decide (0 < l.length) && l.length % 64 == 0

/-- A Traverse frame of whole 128 B beats (R156, R396). -/
def trvBeatsOk (l : List Byte) : Bool := decide (0 < l.length) && l.length % 128 == 0

/-- The bytes another agent wrote at an invalidation's base: at most 2 MiB, the largest range (R398). -/
def writtenOk (l : List Byte) : Bool := decide (l.length ≤ 2097152)

/-- Stall cycles before a beat: fewer than a counter holds (R365). -/
def stallsOk (n : Nat) : Bool := decide (n < 2 ^ 48)

/-- An upset of a beat: an output of a sheet, which holds at most 16,384 (R71). -/
def upsetOk (u : Option Upset) : Bool := match u with | some x => decide (x.out < 16384) | none => true

/-- Flipped bits of a flit: the 1,024 of its data and its parity bit (R82). -/
def flipsOk (l : List Nat) : Bool := l.all fun i => decide (i ≤ 1024)

/-- A number below a bound. -/
def below (n m : Nat) : Bool := decide (n < m)

/-- A Footpath transfer names a queue or a command there is (R236). -/
def useOk : FpUse → Bool
  | .slot q => queueOk q
  | .table c a => cmdOk c && decide (a < 2 ^ 52)
  | .look c a => ctxOk c && decide (a < 2 ^ 52)
  | .record e q => evqOk e && decide (q < 2 ^ 32)
  | .notify e => evqOk e
  | .flagRead c | .flagWrite c | .copyWrite c => cmdOk c
  | .copyRead c a => cmdOk c && decide (a < 2 ^ 52)
  | .state c a => ctxOk c && decide (a < 2 ^ 52)
  | .legend | .checkpoint | .dropped => true

/-- A failing checker: a tile and a class of R340. -/
def testFailOk : Option TestFail → Bool
  | some f => decide (f.tile < 512) && decide (f.cls < 8)
  | none => true

/-- Results of a BIST run fit their register fields (R425). -/
def bistOk (r : BistResult) : Bool := decide (r.stores < 512) && decide (r.chFail < 16) && decide (r.timeUs < 2 ^ 32)

/-- A store code of R339. -/
def storeOk (n : Nat) : Bool := decide (n < 9)

/-- Where an error was found (R240). -/
def hitOk : ScrubHit → Bool
  | .corrected s => storeOk s
  | .cacheLine s _ l => storeOk s && lineOk l
  | .consumed s _ l c => storeOk s && lineOk l && cmdOk c
  | .owned s _ c => storeOk s && cmdOk c
  | .staging p _ => trvPortOk p
  | .channelControl ch s _ => chanOk ch && storeOk s
  | .control s _ => storeOk s

/-- A sequencer (R339). -/
def unitOk : SeqUnit → Bool
  | .channel ch => chanOk ch
  | .command | .context | .traverse | .mosaic | .safety => true

/-- A hung step names channels by a mask and a unit by its code (R339, R350). -/
def hangOk : Hang → Bool
  | .context c m u => ctxOk c && decide (m < 16) && (u == 0 || (decide (4 ≤ u) && decide (u ≤ 8)))
  | .compute m => decide (m < 16)
  | .isolation m => decide (m < 16)

/-- The command is well formed. -/
def Instr.wf : Instr → Bool
  | .gpPair c | .gpData c | .gpWeight c | .mm c | .gpGrouped c | .convData c | .convWeight c | .matvec c | .survey c | .deriv c
  | .pushMark c | .discardToMark c | .discardAll c | .reduceScatter c | .vector c | .mosaicGather c | .replay c | .apply c
  | .norm c | .copy c | .fill c | .fence c | .waitFlag c | .signalFlag c | .atBearing c | .selftest c | .fullSelftest c
  | .preemptSelftest c => cmdOk c
  | .doorbell q _ => queueOk q
  | .commandAccept q | .commandIssue q | .commandBegin q => queueOk q
  | .frameResolve c | .commandComplete c | .deadline c | .abortDone c | .abortTimeout c => cmdOk c
  | .tileBeat t st u => tileOk t && stallsOk st && upsetOk u
  | .anchorReady t | .drainAccept t | .drainDone t | .partialEast t => tileOk t
  | .flitTransfer t _ f => tileOk t && flipsOk f
  | .lineRequest ch => chanOk ch
  | .atlasLineArrive ch th _ | .runAhead ch th => chanOk ch && threadOk th
  | .nextOpPrefetch a => chanOk a
  | .memReadResponse p l _ | .memWriteResponse p l _ => memPortOk p && lineOk l
  | .footpathResponse u _ => useOk u
  | .notifyGap e => evqOk e
  | .flagInterval c => cmdOk c
  | .invalidation _ _ w => writtenOk w.bytes
  | .invFilterFree k => below k 16
  | .bankConvoy ch => chanOk ch
  | .scrub h => hitOk h
  | .traversePush p b => trvPortOk p && trvBeatsOk b
  | .traverseCommit p => trvPortOk p
  | .traverseEntryFree c => ctxOk c
  | .reduce l b | .gather l b | .vectorFrame l b | .close l b | .decide l b => laneOk l && beatsOk b
  | .rankReady c | .mosaicDeadline c | .mosGrace c | .mosDecideWait c | .mosResume c | .mosSeal c | .mosVoid c => ctxOk c
  | .datumPulse _ _ | .datumLost | .accumulatorLimit | .freePeriod => true
  | .lookahead e | .selftestWindow e | .checkpoint e | .sendOpen e | .sendClose e => entryOk e
  | .atBearingReached c => cmdOk c
  | .modeReq _ | .create | .update | .destroy | .read | .sync | .reset => true
  | .contextResetDone c => ctxOk c
  | .enable q _ | .queueDisable q _ | .restart q _ => queueOk q
  | .evqEnable q _ | .evqDisable q _ | .evqHead q _ => evqOk q
  | .sequencerMismatch u => unitOk u
  | .isolationDone ch => chanOk ch
  | .clockMonitor t f | .droop t f => tileOk t && below f 65536
  | .supply r m => below r 4 && below m 65536
  | .safeState | .safeStateTimeout => true
  | .droopClear t => tileOk t
  | .computeReset _ | .computeResetDone | .isolate _ => true
  | .resetHang h => hangOk h
  | .forcingPoint b | .batchTest b => batchOk b
  | .batchDone b f => batchOk b && testFailOk f
  | .rotationEnd => true
  | .fullTestDone f => testFailOk f
  | .almanacSecond => true
  | .wearSample l => below l.length 257
  | .toBackup | .toMain | .backupLow | .almanacPor | .checkpointForced | .checkpointRetry | .restore | .noRestore | .almTai _
  | .almSnap | .stlSnap | .stlClear => true
  | .clear o _ => offsetOk o
  | .lgdBegin | .lgdData _ | .fetch | .legendVerified | .lgdSeal | .discard | .bistRun => true
  | .bistDone r => bistOk r
  | .poresetAssert | .poresetRelease _ | .sysresetAssert | .sysresetRelease => true
  | .registerWrite o _ _ => offsetOk o
  | .datumEdgesResumed | .vddAonBReturn | .contextOperationDone | .timebaseTick => true

end Sys2Proof
end

