-- ==== Sys2Proof/Safety.lean ====
section
/-! DEFINITION. What counts as a safe state and a safe run of the block: the forms its tables keep, and a run in which no step
stops. -/

namespace Sys2Proof

/-- The commands that store nothing in host memory in any state: they run no operation that writes a result, take no frame or
Footpath response that carries one, leave no output undefined and change no record of a region or an update. -/
def Instr.quiet : Instr → Bool
  | .discardToMark _ | .discardAll _ | .fence _ | .waitFlag _ | .signalFlag _ | .atBearing _ | .selftest _ |
    .fullSelftest _ | .preemptSelftest _ | .doorbell _ _ | .commandAccept _ | .commandIssue _ | .commandBegin _ |
    .frameResolve _ | .deadline _ | .tileBeat _ _ _ | .anchorReady _ | .drainAccept _ |
    .lineRequest _ | .atlasLineArrive _ _ _ | .runAhead _ _ | .nextOpPrefetch _ | .memReadResponse _ _ _ |
    .memWriteResponse _ _ _ | .notifyGap _ | .flagInterval _ | .invFilterFree _ | .bankConvoy _ | .scrub _ |
    .traverseCommit _ | .traverseEntryFree _ | .mosResume _ | .freePeriod | .lookahead _ | .selftestWindow _ |
    .checkpoint _ | .sendClose _ | .atBearingReached _ | .modeReq _ | .create | .update | .destroy | .read | .sync |
    .enable _ _ | .queueDisable _ _ | .restart _ _ | .evqEnable _ _ | .evqDisable _ _ | .evqHead _ _ |
    .sequencerMismatch _ | .isolationDone _ | .clockMonitor _ _ | .supply _ _ | .safeState | .safeStateTimeout | .droop _ _ |
    .droopClear _ | .computeReset _ | .computeResetDone | .isolate _ | .resetHang _ | .forcingPoint _ | .batchTest _ |
    .batchDone _ _ | .rotationEnd | .fullTestDone _ | .almanacSecond | .wearSample _ | .toBackup | .toMain | .backupLow |
    .almanacPor | .checkpointForced | .checkpointRetry | .restore | .noRestore | .almTai _ | .almSnap | .stlSnap |
    .stlClear | .clear _ _ | .lgdBegin | .lgdData _ | .fetch | .legendVerified | .lgdSeal | .discard | .bistRun |
    .bistDone _ | .poresetRelease _ | .sysresetAssert | .datumEdgesResumed | .vddAonBReturn | .contextOperationDone |
    .timebaseTick => true
  | .flitTransfer _ _ _ | .contextResetDone _ | .gpPair _ | .gpData _ | .gpWeight _ | .mm _ | .gpGrouped _ | .convData _ | .convWeight _ | .matvec _ | .survey _ |
    .deriv _ | .pushMark _ | .reduceScatter _ | .vector _ | .mosaicGather _ | .replay _ | .apply _ | .norm _ | .copy _ |
    .fill _ | .commandComplete _ | .abortDone _ | .abortTimeout _ | .drainDone _ | .partialEast _ | .footpathResponse _ _ |
    .invalidation _ _ _ | .traversePush _ _ | .reduce _ _ | .gather _ _ | .vectorFrame _ _ | .rankReady _ | .close _ _ |
    .decide _ _ | .mosaicDeadline _ | .mosGrace _ | .mosDecideWait _ | .mosSeal _ | .mosVoid _ | .datumPulse _ _ |
    .datumLost | .accumulatorLimit | .sendOpen _ | .reset | .poresetAssert | .sysresetRelease | .registerWrite _ _ _ => false

end Sys2Proof

namespace Sys2Proof.Machine

open Sys2Proof

/-- Every table is in its canonical form: host memory, the undefined bytes, contexts, queues and the schedule. -/
def State.tablesOk (s : State) : Bool :=
  Memory.wf s.mem && Tab.wf none s.undef && Tab.wf CtxEntry.init s.ctxs && Tab.wf CtxRt.init s.rts
    && Tab.wf CmQueue.init s.cmqs && Tab.wf EvQueue.init s.evqs && Tab.wf (0, 0) s.dat.sched

/-- The Bearing accumulator never passes the bound at which it stops (R291). -/
def State.accOk (s : State) : Bool := decide (s.dat.acc ≤ 2 ^ 57)

/-- The waiting commands are well formed. -/
def State.queueWf (s : State) : Bool := s.pending.all Instr.wf

/-- The next record that belongs to no command is written to an event queue at once: the event path is open, the queue is
enabled, two slots have room and no lost count waits (R326). -/
def State.takes (s : State) (q : Nat) : Prop :=
  s.alive = true ∧ (s.evq q).open_ = true ∧ 2 ≤ (s.evq q).room ∧ (s.evq q).pend = 0

/-- The banks of registers and units have their lengths: life, wear and derating registers, tiles, arrays, self-test batches
and Mosaic drop counters. -/
def State.sizesOk (s : State) : Prop :=
  s.alm.life.length = 64 ∧ s.alm.wear.length = 256 ∧ s.alm.step.length = 256 ∧ s.tiles.length = 256 ∧ s.arrs.length = 4 ∧
  s.tst.batches.length = 16 ∧ s.mos.drops.length = 10

/-- A command of an opcode has begun and its work goes on (R308): what the row of its operation acts on. -/
def State.runs (s : State) (x : Cmd) (op : Nat) : Prop :=
  s.alive = true ∧ s.cmd x.id = some x ∧ x.phase = .begun ∧ x.op = op

/-- An address lies outside every field of bits of a list: position, width, value. -/
def outside (fs : List (Nat × Nat × Nat)) (a : Nat) : Prop := ∀ f ∈ fs, a < f.1 / 8 ∨ (f.1 + f.2.1 - 1) / 8 < a

/-- Of two states, the second has the first's stall counters, event queues, records and Footpath transfers where the reading of
lines has nothing to count or to send on: no look-ahead list waits, and no invalidation filters a line or has taken a speculative
one (R230, R232, R233). -/
def State.readQuiet (s t : State) : Prop :=
  s.feed.look = [] → s.feed.lost = [] → (s.feed.inv.all fun r => r.isNone) = true →
    t.stl = s.stl ∧ t.evqs = s.evqs ∧ t.log = s.log ∧ t.fp = s.fp ∧ t.fpOut = s.fpOut ∧ t.fpRun = s.fpRun

/-- Of two states, the second has the first's records and none beside them that names a command or a context: what counters and
queues of the engine record (R326, R365). -/
def State.ownRecords (s t : State) : Prop := ∃ rs, t.log = s.log ++ rs ∧ ∀ r ∈ rs, r.ctx = 0xFFFF ∧ r.queue = 0xFFFF

/-- Of two states, the second differs in its commands, memory, the writes that the MEM ports have, feeding, arrays and tiles, and in what
the counting of cycles and the reading of lines leave: stall counters, and the records and transfers of those counts. -/
def State.ran (s t : State) : Prop :=
  t = { s with cmds := t.cmds, mem := t.mem, undef := t.undef, memq := t.memq, feed := t.feed, arrs := t.arrs, tiles := t.tiles,
               stl := t.stl, evqs := t.evqs, log := t.log, fp := t.fp, fpOut := t.fpOut, fpRun := t.fpRun }

/-- Of two states, the second differs as one that has run, and otherwise only in what the reading of lines may count. -/
def State.worked (s t : State) : Prop := s.ran t ∧ s.readQuiet t

/-- Every other command is as it was. -/
def State.othersKept (s t : State) (id : CmdId) : Prop := ∀ c, c ≠ id → t.cmd c = s.cmd c

/-- Every other command is as it was, but for the bytes the feeders have delivered toward its drains, which follow what a drain writes
in a region (R61, R215). -/
def State.othersDrain (s t : State) (id : CmdId) : Prop :=
  ∀ c, c ≠ id → (t.cmd c).map (fun y => { y with regIn := [] }) = (s.cmd c).map fun y => { y with regIn := [] }

/-- No operation waits for its metadata on a channel's array: the lines that come there place none. -/
def State.placedOn (s : State) (ch : Nat) : Prop := ∀ c, s.opOfCh ch = some c → (s.arrs.getD (s.arrOfCh ch) Arr.init).fed = true

/-- A tile in service whose array runs a command on sheets or partials, and is not paused: what a tile's event acts on. -/
def State.tileRuns (s : State) (t : Nat) (x : Cmd) : Prop :=
  s.alive = true ∧ s.tileOn t = true ∧ s.opOfTile t = some x.id ∧ s.cmd x.id = some x ∧ x.phase = .begun ∧ x.isArrayOp = true ∧
  x.run.spur = false ∧ (s.arrs.getD (s.arrOfTile t) Arr.init).paused = false

/-- The counts of the Almanac fit their 64-bit registers (R360, R362). -/
def State.countsOk (s : State) : Prop := ∀ k, s.alm.life.getD k 0 < 2 ^ 64 ∧ s.alm.wear.getD k 0 < 2 ^ 64

/-- The error counters that the register map has: one for each of the 64 event queues, one for each of the 10 reasons to drop a Mosaic
frame, and the single ones (R409). -/
def ErrId.mapped : ErrId → Bool
  | .evqLost q => decide (q < 64)
  | .mosDrop k => decide (k < 10)
  | .lockedWrite | .suppressed | .specError | .datReject | .headOverrun | .laSkip | .badDoorbell => true

/-- Every field of the register is RO (R15; 19_register_map.md). -/
def Reg.readOnly : Reg → Bool
  | .gpeId | .fltStatus | .fltEsc | .fltDetail | .modeUnit _ | .lgdSerial | .lgdPendSerial | .mosStatus | .updStatus | .trvStatus
  | .datStatus | .datPeriod | .datPass | .evqTail _ | .stlSnapReg _ _ | .almStatus | .almTaiFrac | .almSat | .almSatSnap
  | .almWearSat _ | .almWearSatSnap _ | .almLife _ | .almLifeSnap _ | .almWear _ | .almWearSnap _ | .pwrStatus | .pwrTile _
  | .tstBistFail | .tstRotation | .tstLast | .tstQueued _ => true
  | .gpeReset | .modeStage | .modeReq | .modeStatus | .lgdCtl | .lgdStatus | .lgdData | .lgdFetch | .lgdStruct | .lgdAtlas | .lgdClocks
  | .ctxSel | .ctxCmd | .ctxStatus | .ctxData _ | .mosRoundCtl | .schedLo _ | .schedHi _ | .evqBase _ | .evqCtl _ | .evqHead _
  | .evqNotifyAddr _ | .evqNotifyGap _ | .err _ | .perf _ | .stlSnap | .stlClear | .almCtl | .almTai | .almSnap | .almRestore _
  | .tstBist | .cmqBase _ | .cmqCtl _ | .cmqDoorbell _ | .cmqStatus _ => false

/-- The registers whose fields are all WO (R15; 19_register_map.md). -/
def Reg.writeOnly (r : Reg) : Bool :=
  r == .modeReq || r == .lgdCtl || r == .lgdData || r == .ctxCmd || r == .stlClear || r == .almCtl
    || (match r with | .cmqDoorbell _ => true | _ => false)

/-- A run of n steps that no fault and no refusal ends. -/
def SafeRun (n : Nat) (s : State) : Prop := ∃ t, Host.Core.run core n s = .next t

end Sys2Proof.Machine
end

