-- ==== Sys2Proof/Certificates/Slice0/Obligations.lean ====
section
/-! DEFINITION. The statements about the block, for the provers. Each says in its comment which rules of the manual it
rests on; one that rests on a choice of the model names the log entry. -/

open Sys2Proof Sys2Proof.Machine

/-! ## The queue of commands, time and reset -/

/-- One step takes the command at the front of the queue and runs it on the state with the queue's rest. -/
def Obligations.StepRunsFrontCommand : Prop :=
  ∀ (c : Instr) (rest : List Instr) (s : State), s.pending = c :: rest → step s = exec c { s with pending := rest }

/-- With no command waiting, one control clock cycle of 1 ns passes (log 3): time advances, the phase of the datum clock moves on, and n
cycles of that clock pass with it, one for each whole million of the phase. While the clock runs, or FREE replaces it (R298), the interval
counter advances by n and the Bearing accumulator by n times inc, stopping at 2⁵⁷ (R291), while WAIT holds it at 0 (R289), and FREE counts
its period; a clock that stands leaves all of them. Nothing else changes. -/
def Obligations.EmptyQueuePassesOneCycle : Prop :=
  ∀ s : State, s.pending = [] → ∃ t, step s = .next t ∧
    t = { s with pins := { s.pins with now := s.pins.now + 1 }, dat := t.dat } ∧
    let n := (s.dat.phase + s.datumKhz) / 1000000
    t.dat.phase = (s.dat.phase + s.datumKhz) % 1000000 ∧
    t.dat = { s.dat with phase := t.dat.phase, cyc := t.dat.cyc, acc := t.dat.acc, freeCyc := t.dat.freeCyc } ∧
    (s.dat.tracker ≠ .free → s.dat.stopped = true → t.dat.acc = s.dat.acc ∧ t.dat.cyc = s.dat.cyc ∧ t.dat.freeCyc = s.dat.freeCyc) ∧
    (s.dat.tracker = .free ∨ s.dat.stopped = false →
      t.dat.acc = (if s.dat.tracker = .wait then 0 else min (2 ^ 57) (s.dat.acc + n * s.dat.inc)) ∧ t.dat.cyc = s.dat.cyc + n ∧
      t.dat.freeCyc = if s.dat.tracker = .free then s.dat.freeCyc + n else s.dat.freeCyc)

/-- Right after the release of PORESET_N (R289, R382, R383, R408, R409, R411): standalone mode with the power-on BIST running, the tracker in
WAIT with Bearing 0, epoch 1, no queue enabled, every context FREE, the THRESHOLD of every error counter 1,024, those of the 64 event
queues and the 10 Mosaic drop reasons among them, and no command waiting. That state meets every invariant stated below. -/
def Obligations.ResetIsStandalone : Prop :=
  let s := State.reset
  s.lgd.standalone = true ∧ s.lgd.inForce = none ∧ s.tst.busy = true ∧ s.dat.tracker = .wait ∧ s.bearing = 0 ∧
  s.mode.requested = 1 ∧ s.mode.applied = 1 ∧ s.alm.restore = .open ∧ s.flt.out = false ∧ s.flt.isolated = 0 ∧ s.pending = [] ∧
  (∀ q, (s.cmq q).state = .disabled ∧ (s.evq q).enable = false) ∧ (∀ c, (s.ctx c).state = .free) ∧
  (∀ i : ErrId, i.mapped = true → (s.err i).threshold = 1024 ∧ (s.err i).value = 0) ∧
  s.tablesOk = true ∧ s.accOk = true ∧ s.sizesOk ∧ s.countsOk

/-- GPE_ID (R7): at offset 0 it reads the vendor, the block, version 2.1, and the drop, configuration, channels and tiles as built, whatever
is in service, with bits [63:57] 0; a write to it is ignored. -/
def Obligations.GpeIdReads : Prop :=
  (∀ s : State, ∃ n, s.readReg 0 = some n ∧ bits n 0 16 = 0x0A7E ∧ bits n 16 8 = 0x4E ∧ bits n 24 4 = 2 ∧ bits n 28 4 = 1 ∧
    bits n 32 8 = s.build.drop.toNat ∧ bits n 57 7 = 0 ∧
    (bits n 40 4, bits n 44 4, bits n 48 9) ∈ ([(1, 1, 1), (2, 1, 4), (3, 1, 16), (4, 4, 64), (5, 4, 256)] : List (Nat × Nat × Nat)) ∧
    bits n 40 4 = s.build.size.code ∧ ∀ t : State, t.build = s.build → t.readReg 0 = some n) ∧
  ∀ (s : State) (v : W64), s.cfgOpen = true → exec (.registerWrite 0 v 0xFF#8) s = .next s.okay

/-! ## What every step keeps -/

/-- Every step keeps host memory, the undefined bytes, the context table, the queues and the schedule in canonical form. -/
def Obligations.StepKeepsTables : Prop :=
  ∀ s t : State, step s = .next t → s.tablesOk = true → t.tablesOk = true

/-- Every step keeps the Bearing accumulator at or below 2⁵⁷, where it stops (R291). -/
def Obligations.StepKeepsAccumulatorBound : Prop :=
  ∀ s t : State, step s = .next t → s.accOk = true → t.accOk = true

/-- Every step keeps the lengths of the register banks and of the lists of tiles and arrays. -/
def Obligations.StepKeepsSizes : Prop :=
  ∀ s t : State, step s = .next t → s.sizesOk → t.sizesOk

/-- No step lets a life or wear counter fall, or leave its 64 bits, and none lets a derating step fall, unless the Almanac's own
power-on reset is the command (R358, R360, R362, R363): the counters saturate and are never cleared. -/
def Obligations.AlmanacNeverFalls : Prop :=
  ∀ s t : State, step s = .next t → s.pending.head? ≠ some .almanacPor →
    (s.countsOk → t.countsOk ∧ (∀ k, k < 28 → s.alm.life.getD k 0 ≤ t.alm.life.getD k 0) ∧
      (∀ k, k < 256 → s.alm.wear.getD k 0 ≤ t.alm.wear.getD k 0)) ∧
    (∀ k, k < 256 → s.alm.step.getD k 0 ≤ t.alm.step.getD k 0)

/-- Only PORESET_N returns an engine that is out of service, and only PORESET_N returns a channel that is isolated (R343, R344,
R384). -/
def Obligations.OutOfServiceUntilPoreset : Prop :=
  ∀ s t : State, step s = .next t → s.pending.head? ≠ some .poresetAssert →
    (s.flt.out = true → t.flt.out = true) ∧ ∀ c, s.flt.isolated.testBit c = true → t.flt.isolated.testBit c = true

/-- Every command answers a next state, in every state: the engine has no stop without a record, a counter or a register (R1, R334, R395),
so no meaning faults or refuses. By the model's choice a command whose precondition does not hold leaves the state as it is (log 132), the
delivered block is a constant (log 2), and time passes on an empty queue only (log 3); so no command changes the block, the queue of
commands that wait, or time. -/
def Obligations.EveryCommandAnswers : Prop :=
  ∀ (c : Instr) (s : State), ∃ t, exec c s = .next t ∧ t.build = s.build ∧ t.pending = s.pending ∧ t.pins.now = s.pins.now

/-! ## The Almanac and the counters -/

/-- Writing 1 to STL_SNAP.TAKE copies every stall counter into its snapshot register and advances COUNT, and nothing else; writing
1 to ALM_SNAP.TAKE copies every life and wear counter with ALM_SAT and ALM_WEAR_SAT at the next timebase tick, advances that
bank's COUNT, and the snapshot holds what the counters hold at the end of the tick. The COUNTs read in bits [63:32] of the
SNAP registers (R366). Two clauses are the model's choice: commands with no cycle between them lie in one cycle, so that a stall counter
that counts, or is cleared, after the snapshot leaves the snapshot equal to the counters (log 165); and ALMANAC_SECOND ends in a tick,
so that its snapshot holds the second's counts (log 13). -/
def Obligations.SnapshotsCopyEveryCounterAtOnce : Prop :=
  ∀ s : State, s.cfgOpen = true →
    (∃ t w, exec .stlSnap s = .next t ∧
      t = State.okay { s with stl := { s.stl with snap := s.stl.live, snapAt := some s.pins.now, count := (s.stl.count + 1) % 2 ^ 32 } } ∧
      t.regValue .stlSnap = (s.stl.count + 1) % 2 ^ 32 * 2 ^ 32 ∧ exec .stlClear t = .next w ∧ w.stl.snap = w.stl.live ∧
      ∀ st i n, (t.addPerf (.stall st i) n).stl.snap = (t.addPerf (.stall st i) n).stl.live) ∧
    ∃ u t w, exec .almSnap s = .next u ∧ u = State.okay { s with alm := { s.alm with snapPend := true } } ∧ exec .timebaseTick u = .next t ∧
      t = State.okay { s with alm := t.alm } ∧ t.alm.lifeSnap = t.alm.life ∧ t.alm.life = s.alm.life ∧ t.alm.satSnap = t.alm.sat ∧
      t.alm.wearSnap = t.alm.wear ∧ t.alm.wear = s.alm.wear ∧ t.alm.wearSatSnap = t.alm.wearSat ∧ t.alm.snapPend = false ∧
      t.regValue .almSnap = (s.alm.snapCount + 1) % 2 ^ 32 * 2 ^ 32 ∧
      exec .almanacSecond u = .next w ∧ w.alm.lifeSnap = w.alm.life ∧ w.alm.satSnap = w.alm.sat ∧ w.alm.wearSnap = w.alm.wear ∧
      w.alm.wearSatSnap = w.alm.wearSat ∧ w.alm.snapPend = false

/-- TIMEBASE_TICK, ALM_TAI and ALMANAC_SECOND (R360, R361): a tick advances the calendar by 1/32,768 s once it has been set, else leaves it; a
written value of seconds takes effect at the next tick and sets CAL_VALID; until then the calendar reads 0. Neither touches anything beside
the Almanac and the response of CFG. In a second, life counters 0 and 2 count seconds of the domain and of its backup supply, 1 counts
POWER_ON_SECONDS, which PORESET_N and a core rail out of range stop; every other life counter, and everything outside the
Almanac, is as before. That the whole second counts as the state stands at its end (log 13), and that a core rail reported out of range
stays so until PORESET_N is released (log 88), is the model's choice. -/
def Obligations.CalendarAndSecondsAreCounted : Prop :=
  (∀ s : State, s.alm.taiPend = none → s.alm.snapPend = false → s.alm.calFrac < 32768 → s.alm.calSec < 2 ^ 64 →
    ∃ t, exec .timebaseTick s = .next t ∧ t = { s with alm := { s.alm with ticks := t.alm.ticks, calSec := t.alm.calSec, calFrac := t.alm.calFrac } } ∧
      (s.alm.calValid = false → t.alm.calSec = s.alm.calSec ∧ t.alm.calFrac = s.alm.calFrac ∧ t.regValue .almTai = 0) ∧
      (s.alm.calValid = true →
        (t.alm.calSec * 32768 + t.alm.calFrac) = (s.alm.calSec * 32768 + s.alm.calFrac + 1) % 2 ^ 79)) ∧
  (∀ (s : State) (v : W64), s.cfgOpen = true → s.alm.snapPend = false →
    ∃ u t, exec (.almTai v) s = .next u ∧ u = State.okay { s with alm := { s.alm with taiPend := some v.toNat } } ∧
      exec .timebaseTick u = .next t ∧ t.alm.calSec = v.toNat ∧ t.alm.calFrac = 0 ∧ t.alm.calValid = true ∧
      t.regValue .almTai = v.toNat ∧ t = State.okay { s with alm := t.alm }) ∧
  ∀ s : State, s.sizesOk → (∀ k, k < 3 → s.alm.life.getD k 0 < 2 ^ 64 - 2) → ∃ t, exec .almanacSecond s = .next t ∧
    t = { s with alm := t.alm } ∧ t.alm.life.getD 0 0 = s.alm.life.getD 0 0 + 1 ∧
    t.alm.life.getD 1 0 = s.alm.life.getD 1 0 + (if s.pins.poreset = true ∨ s.pins.coreOut = true then 0 else 1) ∧
    t.alm.life.getD 2 0 = s.alm.life.getD 2 0 + (if s.alm.backup = true then 1 else 0) ∧
    (∀ k, 3 ≤ k → t.alm.life.getD k 0 = s.alm.life.getD k 0) ∧ t.alm.wear = s.alm.wear ∧ t.alm.step = s.alm.step

/-- TO_BACKUP, TO_MAIN, BACKUP_LOW and VDD_AON_B_RETURN (R359, R371): each move of the supply counts in its life counter and writes one
ALMANAC record while the event path works; the falling edge of BACKUP_OK writes one; nothing else of the state changes. -/
def Obligations.SupplyMovesCountAndReport : Prop :=
  ∀ s : State, s.sizesOk →
    (s.alm.backup = false → s.alm.life.getD 10 0 < 2 ^ 64 - 2 → s.takes s.engineEvq → exec .toBackup s = .next
      (({ s with alm := { s.alm with backup := true, life := setAt s.alm.life 10 (s.alm.life.getD 10 0 + 1) } }).writeRec s.engineEvq
        ⟨0x48, 0xFFFF, 0xFFFF, 0, 2 + s.alm.life.getD 0 0 * 2 ^ 32⟩ false)) ∧
    (s.alm.backup = true → s.alm.life.getD 11 0 < 2 ^ 64 - 2 → s.takes s.engineEvq → exec .toMain s = .next
      (({ s with alm := { s.alm with backup := false, life := setAt s.alm.life 11 (s.alm.life.getD 11 0 + 1) } }).writeRec s.engineEvq
        ⟨0x48, 0xFFFF, 0xFFFF, 0, 3 + s.alm.life.getD 0 0 * 2 ^ 32⟩ false)) ∧
    (s.alm.backupOk = true → s.takes s.engineEvq → exec .backupLow s = .next
      (({ s with alm := { s.alm with backupOk := false } }).writeRec s.engineEvq
        ⟨0x48, 0xFFFF, 0xFFFF, 0, 4 + s.alm.life.getD 0 0 * 2 ^ 32⟩ false)) ∧
    exec .vddAonBReturn s = .next { s with alm := { s.alm with backupOk := true } }

/-- ALMANAC_POR: the domain's own power-on reset clears its counters, wear, steps and calendar and reopens the restore, and touches
nothing outside the domain (R358). -/
def Obligations.AlmanacPorClearsTheDomain : Prop :=
  ∀ s : State, ∃ t, exec .almanacPor s = .next t ∧ t = { s with alm := t.alm } ∧
    (∀ k, t.alm.life.getD k 0 = 0 ∧ t.alm.wear.getD k 0 = 0 ∧ t.alm.step.getD k 0 = 0) ∧ t.alm.calValid = false ∧
    t.alm.retained = false ∧ t.alm.restore = .open ∧ t.alm.seq = 1

/-- WEAR_SAMPLE (R362): each built tile of a channel in service adds its issuing cycles shifted right by 14 times the weight of
its temperature, saturating at 2⁶⁴ − 1, and no other tile's wear changes; each built tile sampled has the temperature it was sampled
at, and nothing else of any tile changes. Nothing else changes, where no counter sticks; one that does sets its SAT bit, with a record. -/
def Obligations.WearSampleAddsWeightedCycles : Prop :=
  ∀ (s : State) (l : List (Nat × Int)), s.sizesOk → s.countsOk →
    let adds := fun (k : Nat) => if k < l.length ∧ k < s.build.size.tiles ∧ s.chOn (s.build.size.chanOf k) = true then
      (l.getD k (0, 0)).1 / 16384 * wearWeight (l.getD k (0, 0)).2 else 0
    ∃ t, exec (.wearSample l) s = .next t ∧
      t = { s with alm := { s.alm with wear := t.alm.wear, wearSat := t.alm.wearSat }, tiles := t.tiles,
                   evqs := t.evqs, log := t.log, fp := t.fp, fpOut := t.fpOut, fpRun := t.fpRun } ∧
      (∀ k, k < 256 → t.alm.wear.getD k 0 = min (2 ^ 64 - 1) (s.alm.wear.getD k 0 + adds k)) ∧
      (∀ k, t.tiles.getD k Tile.init = if k < l.length ∧ k < s.build.size.tiles ∧ k < 256 then
        { s.tiles.getD k Tile.init with temp := (l.getD k (0, 0)).2 } else s.tiles.getD k Tile.init) ∧
      ((∀ k, k < 256 → s.alm.wear.getD k 0 + adds k < 2 ^ 64 - 1) →
        t = { s with alm := { s.alm with wear := t.alm.wear }, tiles := t.tiles })

/-- CHECKPOINT_FORCED, CHECKPOINT_RETRY and the CHECKPOINT entry of the schedule (R363, R368 to R370): at the age I − 20 ms, 100 ms after a
failed attempt, or by its entry once the interval has elapsed, a checkpoint takes a snapshot of the
life and wear counters and sends one Footpath write of its slot, the one of the two that SEQ selects; memory changes only with
the response. -/
def Obligations.CheckpointWritesOneSlot : Prop :=
  ∀ (s : State) (g : Legend) (c : Instr) (forced : Bool), s.lgd.inForce = some g →
    ((c = .checkpointForced ∧ s.ckptFree = true ∧ s.alm.ageFrom + (g.ckptI * 1000 - 20) * 1000000 ≤ s.pins.now ∧ forced = true) ∨
     (c = .checkpointRetry ∧ s.alive = true ∧ s.alm.ckptOn = true ∧
       ∃ since, s.alm.failedAt = some (since, forced) ∧ since + 100 * 1000000 ≤ s.pins.now) ∨
     (∃ e, c = .checkpoint e ∧ s.entryDue 3 e = true ∧ s.ckptFree = true ∧ s.ckptElapsed = true ∧ forced = false)) →
    ∃ t, exec c s = .next t ∧ t.alm.ckpt = some (s.pins.now, forced) ∧ t.alm.lifeSnap = s.alm.life ∧ t.alm.wearSnap = s.alm.wear ∧
      t.alm.life = s.alm.life ∧ t.alm.seq = s.alm.seq ∧ t.mem = s.mem ∧
      (∃ r, t.fp.getLast? = some r ∧ r.use = .checkpoint ∧ r.addr = g.jbase + 4096 * (s.alm.seq % 2) ∧ r.data.length = 4096) ∧
      ∀ e, s.entryDue 3 e = true → s.ckptFree = false ∨ s.ckptElapsed = false →
        exec (.checkpoint e) s = .next { s with dat := { s.dat with fired := s.dat.fired ++ [e] } }

/-- RESTORE and NO_RESTORE (R369, R371, R384): while the decision is open, an accepted image is added to the life and wear counters, saturating,
and its SEQ plus 1 is next; NO_RESTORE starts at SEQ 1; with RETAINED set, an accepted image is ignored. Each of the three decides the
restore and sets RETAINED, and the calendar is never taken from an image. The age of the last checkpoint runs from there only where none
has completed. An image that is refused only leaves its reason and one record, and once the restore is decided neither row does anything
(R423), also after SYSRESET_N, which by the model's reading leaves a decided restore decided (log 170). -/
def Obligations.RestoreDecidesOnce : Prop :=
  ∀ s : State, s.cfgOpen = true →
    let img := s.alm.image
    let at_ := fun (o n : Nat) => leNat ((img.drop o).take n)
    let decided := fun (r : RestoreState) => { s.alm with
      restore := r, retained := true, ckptOn := s.alm.ckptOn || s.alive
      ageFrom := if s.alive = true ∧ s.alm.completed = false then s.pins.now else s.alm.ageFrom }
    (s.alm.restore ≠ .open → exec .noRestore s = .next s.okay ∧ exec .restore s = .next s.okay) ∧
    (s.alm.restore = .open →
      (s.imageError img = 0 → s.alm.retained = true → exec .restore s = .next (State.okay { s with alm := decided .ignored })) ∧
      (s.imageError img ≠ 0 → s.takes s.engineEvq → exec .restore s = .next
        (({ s with alm := { s.alm with restoreErr := s.imageError img } }).writeRec s.engineEvq
          ⟨0x48, 0xFFFF, 0xFFFF, 0, 5 + s.imageError img * 2 ^ 32⟩ false).okay)) ∧
    (s.alm.restore = .open →
      exec .noRestore s = .next (State.okay { s with alm := { decided .none with seq := 1 } }) ∧
      (s.imageError img = 0 → s.alm.retained = false → ∃ t, exec .restore s = .next t ∧
        t = State.okay { s with alm := t.alm, evqs := t.evqs, log := t.log, fp := t.fp, fpOut := t.fpOut, fpRun := t.fpRun } ∧
        t.alm = { decided .restored with life := t.alm.life, wear := t.alm.wear, sat := t.alm.sat, wearSat := t.alm.wearSat,
                                         step := t.alm.step, seq := (at_ 8 8 + 1) % 2 ^ 64 } ∧
        (∀ k, k < 28 → t.alm.life.getD k 0 = min (2 ^ 64 - 1) (s.alm.life.getD k 0 + at_ (0x40 + 8 * k) 8)) ∧
        (∀ k, k < 256 → t.alm.wear.getD k 0 = min (2 ^ 64 - 1) (s.alm.wear.getD k 0 + at_ (0x400 + 8 * k) 8)) ∧
        ∀ k, s.alm.step.getD k 0 ≤ t.alm.step.getD k 0))

/-- STL_CLEAR and CLEAR (R365): STL_CLEAR zeroes every stall, BUSY and WORK counter with its WRAP bit; a CLEAR sets an error
counter's VALUE to 0 and clears SAT and THR, with THRESHOLD as written. Each changes only these counters. A clear in the control
clock cycle of an increment leaves VALUE at that cycle's increments, where by the model's choice commands with no cycle between them lie
in one cycle (log 165), and the event of a THRESHOLD that they reach can then come again (log 116). -/
def Obligations.CountersClear : Prop :=
  ∀ s : State, s.cfgOpen = true →
    (∃ t, exec .stlClear s = .next t ∧ t = State.okay { s with stl := { s.stl with live := t.stl.live, snap := t.stl.snap } } ∧
      (s.stl.snapAt ≠ some s.pins.now → t.stl.snap = s.stl.snap) ∧
      ∀ st i, (t.perf (.stall st i)).wrap = false ∧ (t.perf (.stall st i)).value =
        if (s.perf (.stall st i)).recent.1 = s.pins.now then (s.perf (.stall st i)).recent.2 else 0) ∧
    ∀ (o : Nat) (i : ErrId) (v : W64), errAt o = some i →
      let r := if (s.err i).recent.1 = s.pins.now then (s.err i).recent.2 else 0
      let n := bits v.toNat 40 24
      (n = 0 ∨ r < n → exec (.clear o v) s = .next (s.setErr i ⟨r, false, false, n, false, none, (s.err i).recent⟩).okay) ∧
      (n ≠ 0 → n ≤ r → ∃ t, exec (.clear o v) s = .next t ∧
        (s.alive = false → t = (s.setErr i ⟨r, false, true, n, true, some s.pins.now, (s.err i).recent⟩).okay))

/-! ## The Legend, start-up and the reset pins -/

/-- BEGIN, LGD_DATA, FETCH and DISCARD (R380, R381, R412): a CFG load starts empty and takes 8 bytes a write, least significant first; the
load goes to verification with the last byte; a fetch starts with one 4 KiB read at LGD_FETCH; DISCARD drops what is loading,
or verified and not yet sealed or applied, with the fetch's reads. BEGIN or FETCH during a load, FETCH from an address that is no
multiple of 4 KiB or in a test mode, and LGD_DATA outside a CFG load only set BAD_CMD. The Legend in force is not touched. A read that FP0
has sent stays outstanding until its response, which is then discarded (R392). -/
def Obligations.LegendLoads : Prop :=
  ∀ s : State, s.cfgOpen = true →
    let bad := State.okay { s with lgd := { s.lgd with badCmd := true } }
    let fresh := fun (cfg : Bool) => State.okay { s with lgd := { s.lgd with
      load := .loading, viaCfg := cfg, bytes := [], fetchBad := false, staged := none, reason := 0 } }
    (s.lgd.busy = false → exec .lgdBegin s = .next (fresh true)) ∧
    (s.lgd.busy = true → exec .lgdBegin s = .next bad) ∧
    (∀ v : W64, s.lgd.load = .loading → s.lgd.viaCfg = true → exec (.lgdData v) s = .next (State.okay { s with lgd := { s.lgd with
      bytes := s.lgd.bytes ++ leBytes 8 v.toNat
      load := if loadEnds (s.lgd.bytes ++ leBytes 8 v.toNat) then .verifying else .loading } })) ∧
    (∀ v : W64, s.lgd.load ≠ .loading ∨ s.lgd.viaCfg = false → exec (.lgdData v) s = .next bad) ∧
    (s.flt.out = false →
      (s.lgd.busy = false → s.pins.testMode = false → s.lgd.fetchAddr % 4096 = 0 → s.lgd.fetchAddr < 2 ^ 52 → ∃ t, exec .fetch s = .next t ∧
        t = { fresh false with fp := t.fp, fpOut := t.fpOut, fpRun := t.fpRun } ∧ t.fp = s.fp ++ [⟨.legend, false, s.lgd.fetchAddr, [], 4096⟩]) ∧
      (s.lgd.busy = false → s.pins.testMode = false → s.lgd.fetchAddr % 4096 = 0 → 2 ^ 52 ≤ s.lgd.fetchAddr →
        exec .fetch s = .next { fresh false with lgd := { (fresh false).lgd with load := .verifying, fetchBad := true } }) ∧
      (s.lgd.busy = true ∨ s.pins.testMode = true ∨ s.lgd.fetchAddr % 4096 ≠ 0 → exec .fetch s = .next bad)) ∧
    (s.lgd.load = .loading ∨ s.lgd.load = .verified → ∃ t, exec .discard s = .next t ∧
      t = State.okay { s with lgd := { s.lgd with load := .idle, bytes := [], staged := none, reason := 0 }, fp := t.fp, fpOut := t.fpOut } ∧
      (∀ r ∈ t.fp, r.use ≠ .legend) ∧ t.fpOut = s.fpOut.map (fun u => if u = .legend then .dropped else u) ∧
      (t.fp.filter fun r => r.use != .dropped) = s.fp.filter fun r => r.use != .legend && r.use != .dropped) ∧
    (s.lgd.load ≠ .loading → s.lgd.load ≠ .verified → exec .discard s = .next s.okay)

/-- LEGEND_VERIFIED (R9, R375 to R378, R381, R385): verification ends in VERIFIED with the Legend staged exactly where every check passes,
and in FAILED with nothing staged where one does not, REASON being the number of the first that fails: 1 FETCH, 2 FRAMING, 3 VERSION,
4 CONFIG, 5 FIELD, 6 CONSISTENCY, 7 ISOLATED, 8 RUNNING, 9 KEY, 10 SIGNATURE. The Legend in force stays, and nothing outside the Legend unit
changes. That it waits for the end of the power-on BIST, and that a channel whose isolation has started counts as ISOLATED, is how the model
seals over passed channels only (R383; log 171). -/
def Obligations.VerificationStagesOrFails : Prop :=
  ∀ s : State, s.pins.poreset = false → s.pins.sysreset = false → s.flt.out = false → s.lgd.load = .verifying →
    let l := s.lgd.bytes
    let first := fun (secs : List (Nat × List Byte)) =>
      let g := parseLegend l secs
      if ¬(bytesAt l 5 1 % 16 = 2 ∧ bytesAt l 5 1 / 16 ≤ 1) then 3
      else if bytesAt l 6 1 % 16 ≠ s.build.size.code then 4
      else if fieldsOk s.build.size g = false then 5
      else if s.consistent g = false then 6
      else if g.channels &&& (s.flt.isolated ||| s.flt.isoBusy) ≠ 0 then 7
      else if s.runningOk g = false then 8
      else if s.keySlot l = none then 9
      else if signatureOk l = false then 10 else 0
    let code := if s.lgd.fetchBad = true then 1 else match framing l with | none => 2 | some secs => first secs
    (s.lgd.bistDone = false → exec .legendVerified s = .next s) ∧
    (s.lgd.bistDone = true → ∃ t, exec .legendVerified s = .next t ∧ t.lgd.inForce = s.lgd.inForce ∧
      t = { s with lgd := { s.lgd with load := t.lgd.load, reason := t.lgd.reason, staged := t.lgd.staged, keyslot := t.lgd.keyslot, bytes := [] } } ∧
      t.lgd.reason = code ∧
      (code = 0 → ∀ secs, framing l = some secs →
        t.lgd.load = .verified ∧ t.lgd.staged = some (parseLegend l secs) ∧ s.keySlot l = some t.lgd.keyslot) ∧
      (code ≠ 0 → t.lgd.load = .failed ∧ t.lgd.staged = none ∧ t.lgd.keyslot = s.lgd.keyslot))

/-- LGD_SEAL (R289, R299, R376, R381 to R383, R408): sealing puts the verified Legend in force and ends standalone mode: epoch 1, the Bearing
in WAIT at 0, no context, every command queue DISABLED and empty, no command, the THRESHOLD of every error counter from the Legend, those
of the 64 event queues and the 10 Mosaic drop reasons among them. A queue's other registers, host memory and the Almanac's counts stay. -/
def Obligations.SealingPutsTheLegendInForce : Prop :=
  ∀ (s : State) (g : Legend), s.cfgOpen = true → s.lgd.staged = some g → s.lgd.load = .verified → s.lgd.standalone = true →
    s.pins.testMode = false → s.flt.out = false → ∃ t, exec .lgdSeal s = .next t ∧
      t.lgd.inForce = some g ∧ t.lgd.standalone = false ∧ t.lgd.load = .idle ∧ t.lgd.staged = none ∧
      t.mode.requested = 1 ∧ t.mode.applied = 1 ∧ t.mode.pending = false ∧ t.dat.tracker = .wait ∧ t.bearing = 0 ∧
      t.ctxs = [] ∧ t.cmds = [] ∧ t.flt.escLimit = g.engLimit ∧
      (s.tablesOk = true → ∀ q, t.cmq q = { s.cmq q with state := .disabled, nums := [], slot := none, pub := (s.cmq q).head }) ∧
      (s.tablesOk = true → s.sizesOk → ∀ i : ErrId, i.mapped = true → (t.err i).threshold = g.errThreshold) ∧ t.mem = s.mem ∧ t.alm.life = s.alm.life ∧ t.alm.wear = s.alm.wear ∧
      t.pins = s.okay.pins

/-- BIST_RUN and BIST_DONE (R383, R384, R413, R425): a diagnostic run starts only in standalone mode with no run in progress; a run ends with
its results in the TST_ registers, of which a diagnostic run finds a cell or a link failing in the channels of LGD_STRUCT only, and one that is diagnostic, or finds no channel and no shared store failing, changes nothing else; each
channel in service that the power-on run finds failing is isolated, unless that takes the engine out of service, as a failing
shared store does. Two points are the model's choice: the cause it then latches, 0x0606 SELFTEST, for which no rule names a code (log 99),
and that the results of a diagnostic run's private stores stand for every channel, since LGD_STRUCT.CHANNELS limits the array test only (log
193). -/
def Obligations.BistRunsAndEnds : Prop :=
  ∀ s : State, s.cfgOpen = true →
    (s.lgd.standalone = true → s.tst.busy = false → s.flt.out = false →
      exec .bistRun s = .next (State.okay { s with tst := { s.tst with busy := true, diag := true } })) ∧
    (s.lgd.standalone = false ∨ s.tst.busy = true ∨ s.flt.out = true → exec .bistRun s = .next s.okay) ∧
    ∀ found : BistResult, s.tst.busy = true → s.flt.out = false →
      let r := bistWithin found s.bistChans
      (s.tst.diag = false → r.shared = found.shared ∧ r.stores = found.stores ∧ r.array = found.array ∧ r.links = found.links ∧
        ∀ ch, ch < 4 → r.chFail.testBit ch = found.chFail.testBit ch) ∧
      ∃ t, exec (.bistDone found) s = .next t ∧
      t.tst = { s.tst with busy := false, diag := false, pass := bistClean r, chFail := r.chFail % 16, sharedFail := r.shared
                           timeUs := r.timeUs % 2 ^ 32, stores := r.stores % 512, array := r.array, links := r.links } ∧
      t.mem = s.mem ∧ t.lgd = { s.lgd with bistDone := s.lgd.bistDone || !s.tst.diag } ∧
      ((r.chFail % 16 = 0 ∧ r.shared = false) ∨ s.tst.diag = true → t = { s with tst := t.tst, lgd := t.lgd }) ∧
      (s.tst.diag = false → r.shared = true → t.flt.out = true ∧ t.flt.cause = 0x0606 ∧ t.flt.isolated = s.flt.isolated) ∧
      (s.tst.diag = false → r.shared = false → ∀ ch, ch < 4 → r.chFail.testBit ch = true → s.chOn ch = true →
        t.flt.isoBusy.testBit ch = true ∨ t.flt.isolated.testBit ch = true ∨ t.flt.out = true)

/-- PORESET_ASSERT and PORESET_RELEASE (R335, R343, R358, R387, R401, R406, R408): PORESET_N holds every domain but the Almanac's in reset,
counts itself in life counter 4 and returns the engine to service, with SAFE_STATE 1 until its release, at which TEST_MODE is
sampled and start-up begins. Host memory stays but for the bytes of Footpath writes that are outstanding. What has passed on the test access
port comes with the release's row, at any time, by the model's choice (log 136): TRST_N selects IDCODE, an instruction loaded selects
BYPASS, IDCODE or an instrument, a data scan shows what is selected, 0 for BYPASS and the IDCODE, BIST results at any time, and in the mission
setting 0 for BIST start, scan and clock control, whose start of a BIST does nothing there; how these words lie in a scan is the model's
(log 190). That VDD_CORE counts as out of range until the release is its choice as well (log 88). -/
def Obligations.PoresetResetsAllButTheAlmanac : Prop :=
  ∀ s : State,
    (s.pins.poreset = false → s.sizesOk → s.alm.life.getD 4 0 < 2 ^ 64 - 2 → ∃ t, exec .poresetAssert s = .next t ∧
      t.pins.poreset = true ∧ t.flt.safe = true ∧ t.flt.out = false ∧ t.flt.isolated = 0 ∧ t.lgd.standalone = true ∧
      t.lgd.inForce = none ∧ t.ctxs = [] ∧ t.cmqs = [] ∧ t.cmds = [] ∧ t.evqs = [] ∧ t.fp = [] ∧ t.memq = [] ∧ t.dat = State.reset.dat ∧
      t.mode = State.reset.mode ∧ (s.fp = [] → t.mem = s.mem ∧ t.undef = s.undef) ∧
      (s.tablesOk = true → ∀ a, (∀ r ∈ s.fp, a < r.addr ∨ r.addr + r.data.length ≤ a) → t.memByte a = s.memByte a) ∧
      t.alm.life = setAt s.alm.life 4 (s.alm.life.getD 4 0 + 1) ∧ t.alm.wear = s.alm.wear ∧ t.alm.step = s.alm.step ∧
      t.alm.calSec = s.alm.calSec ∧ t.alm.restore = .open) ∧
    (s.pins.poreset = true → exec .poresetAssert s = .next s) ∧
    (s.pins.poreset = true → ∀ p : TestPins, exec (.poresetRelease p) s = .next (State.tapEvents { s with
      pins := { s.pins with poreset := false, testMode := p.testMode, coreOut := false }
      flt := { s.flt with safe := s.pins.sysreset }
      tst := { s.tst with busy := true, diag := false } } p.port)) ∧
    (s.pins.poreset = false → ∀ p : TestPins, exec (.poresetRelease p) s = .next (s.tapEvents p.port)) ∧
    (s.tapEvents [] = s ∧ ∀ e l, s.tapEvents (e :: l) = (s.tapEvent e).tapEvents l) ∧
    s.tapEvent .trst = { s with pins := { s.pins with tap := .idcode } } ∧
    (∀ i, s.tapEvent (.load i) = { s with pins := { s.pins with tap := i } }) ∧
    (∀ i, ∃ n, s.tapEvent (.shift i) = { s with pins := { s.pins with tdo := n }, free := s.free + 1 } ∧
      (s.pins.tap = .bypass → n = 0) ∧
      (s.pins.tap = .idcode → bits n 0 1 = 1 ∧ bits n 1 11 = s.build.mfr.toNat ∧ bits n 12 16 = 0x4E00 + s.build.size.code ∧ bits n 28 4 = 2) ∧
      (s.pins.tap = .access → i = .bistResults → n = s.tstBist + s.tstBistFail * 2 ^ 64) ∧
      (s.pins.tap = .access → s.pins.testMode = false → i = .bistStart ∨ i = .scan ∨ i = .clockControl → n = 0)) ∧
    (s.pins.testMode = false ∨ s.pins.tap ≠ .access ∨ s.lgd.standalone = false ∨ s.tst.busy = true → s.tapEvent .bistStart = s) ∧
    (s.pins.testMode = true → s.pins.tap = .access → s.pins.poreset = false → s.pins.sysreset = false → s.lgd.standalone = true →
      s.tst.busy = false → s.flt.out = false → s.tapEvent .bistStart = { s with tst := { s.tst with busy := true, diag := true } })

/-- SYSRESET_ASSERT and SYSRESET_RELEASE (R335, R343, R348, R369, R384, R401, R408): SYSRESET_N counts itself in life counter 5 and stops
checkpoints; its release, allowed only 1 µs after SAFE_STATE has risen, starts up again with the Legend discarded, while isolated channels,
FLT_ESC, the Almanac, the last CFG response and host memory stay, but for the bytes of Footpath writes that are outstanding. An engine
out of service stays out of it: there, by the model's choice, the release only lets the pin go (log 94). -/
def Obligations.SysresetStartsUpAgain : Prop :=
  ∀ s : State,
    (s.pins.sysreset = false → s.sizesOk → s.alm.life.getD 5 0 < 2 ^ 64 - 2 → exec .sysresetAssert s = .next { s with
      pins := { s.pins with sysreset := true, sysAt := s.pins.now }
      alm := { s.alm with life := setAt s.alm.life 5 (s.alm.life.getD 5 0 + 1), ckptOn := false } }) ∧
    (s.pins.sysreset = true → exec .sysresetAssert s = .next s) ∧
    (s.pins.sysreset = false ∨ s.flt.safe = false ∨ s.pins.now < s.pins.safeAt.getD 0 + 1000 → exec .sysresetRelease s = .next s) ∧
    (s.pins.sysreset = true → s.flt.safe = true → s.pins.safeAt.getD 0 + 1000 ≤ s.pins.now → s.flt.out = true ∨ s.pins.poreset = true →
      exec .sysresetRelease s = .next { s with pins := { s.pins with sysreset := false } }) ∧
    (s.pins.sysreset = true → s.flt.safe = true → s.pins.safeAt.getD 0 + 1000 ≤ s.pins.now → s.flt.out = false → s.pins.poreset = false →
      ∃ t, exec .sysresetRelease s = .next t ∧ t.pins.sysreset = false ∧ t.lgd.standalone = true ∧ t.lgd.inForce = none ∧
        t.ctxs = [] ∧ t.cmqs = [] ∧ t.cmds = [] ∧ t.fp = [] ∧ t.memq = [] ∧ t.dat.tracker = .wait ∧ t.flt.isolated = s.flt.isolated ||| s.flt.isoBusy ∧
        t.flt.escCount = s.flt.escCount ∧ t.flt.escT0 = s.flt.escT0 ∧ t.alm = { s.alm with ckpt := none } ∧
        t.pins.cfg = s.pins.cfg ∧ (s.fp = [] → t.mem = s.mem ∧ t.undef = s.undef) ∧
        (s.tablesOk = true → ∀ a, (∀ r ∈ s.fp, a < r.addr ∨ r.addr + r.data.length ≤ a) → t.memByte a = s.memByte a) ∧
        t.tst.busy = true)

/-- REGISTER_WRITE (R7, R14 to R17, R293, R299, R395, R407, R413) and CFG reads: under SYSRESET_N a write is answered OKAY and ignored, as after
SAFE_STATE; else DECERR where the map places no register, SLVERR for a strobe of fewer than 8 bytes, and neither writes anything; else
OKAY, with the write's effect by the field's access code. RO: nothing changes. RW: CTX_SEL takes its field and a read returns it. W1C: a 1
clears REJECTED, BAD_CMD, DROPPED or a WRAP not set in this very cycle, and a 0 leaves it. RWL: LGD_STRUCT, LGD_ATLAS, LGD_CLOCKS and
ALM_RESTORE take their fields in standalone mode; from the seal on, and for the schedule's active bank and MODE_STAGE while a request is
pending, the write is ignored and counted as a locked write. A WO register reads 0, one that is not built reads 0 and ignores writes, and a
read finds a register exactly where the map places one. That DECERR comes before the strobe is looked at is the model's choice (log 117), and so is that
"this very cycle" means an equal control time, commands with no cycle between them lying in one (log 165). -/
def Obligations.RegisterWriteAnswers : Prop :=
  (∀ (s : State) (o : Nat) (v : W64) (strobe : Byte), s.pins.poreset = false →
    (s.pins.sysreset = true → exec (.registerWrite o v strobe) s = .next s.okay) ∧
    (s.pins.sysreset = false → regAt o = none → exec (.registerWrite o v strobe) s = .next { s with pins := { s.pins with cfg := .decerr } }) ∧
    (s.pins.sysreset = false → (regAt o).isSome = true → strobe ≠ 0xFF#8 →
      exec (.registerWrite o v strobe) s = .next { s with pins := { s.pins with cfg := .slverr } }) ∧
    (s.pins.sysreset = false → (regAt o).isSome = true → s.flt.safe = true → exec (.registerWrite o v 0xFF#8) s = .next s.okay)) ∧
  (∀ (s : State) (o : Nat) (r : Reg) (v : W64), s.cfgOpen = true → regAt o = some r →
    let n := v.toNat
    let writes := fun (t : State) => exec (.registerWrite o v 0xFF#8) s = .next t.okay
    let locked := writes (s.lockedWrite o) ∧ (s.flt.lockedWrite.value < 4294967295 →
      (s.lockedWrite o).flt.lockedWrite.value = s.flt.lockedWrite.value + 1)
    (s.unbuilt r = true ∨ r.readOnly = true → writes s) ∧
    (r = .ctxSel → s.win.st ≠ 1 → writes { s with win := { s.win with sel := bits n 0 16 } } ∧
      ({ s with win := { s.win with sel := bits n 0 16 } } : State).readReg o = some (bits n 0 16)) ∧
    (r = .modeStage → if s.mode.pending = true then locked else writes { s with mode := { s.mode with stage := bits n 0 9 } } ∧
      ({ s with mode := { s.mode with stage := bits n 0 9 } } : State).readReg o = some (bits n 0 9)) ∧
    (r = .modeStatus → writes { s with mode := { s.mode with rejected := s.mode.rejected && bits n 33 1 == 0 } }) ∧
    (r = .lgdStatus → writes { s with lgd := { s.lgd with badCmd := s.lgd.badCmd && bits n 20 1 == 0 } }) ∧
    (r = .ctxStatus → writes { s with win := { s.win with dropped := s.win.dropped && bits n 8 1 == 0 } }) ∧
    (∀ i, r = .perf i → s.unbuilt r = false → ((s.perf i).wrapAt = some s.pins.now ∨ bits n 48 1 = 0 → writes s) ∧
      ((s.perf i).wrapAt ≠ some s.pins.now → bits n 48 1 = 1 → writes (s.setPerf i { s.perf i with wrap := false }))) ∧
    (r = .lgdStruct → if s.lgd.standalone = true then writes { s with lgd := { s.lgd with rStruct := bits n 0 2 + bits n 4 4 * 16 } } else locked) ∧
    (r = .lgdAtlas → if s.lgd.standalone = true then writes { s with lgd := { s.lgd with rAtlas := bits n 0 4 + bits n 16 48 * 65536 } } else locked) ∧
    (r = .lgdClocks → if s.lgd.standalone = true then writes { s with lgd := { s.lgd with rClocks := bits n 0 48 } } else locked) ∧
    (∀ k, r = .almRestore k → if s.lgd.standalone = true then writes { s with alm := { s.alm with window := setAt s.alm.window k v } } else locked) ∧
    (∀ i, r = .schedHi i → if s.lgd.standalone = false ∧ i / 256 = bits s.mode.set 8 1 then locked else
      writes { s with dat := { s.dat with sched := s.dat.sched.upd (0, 0) i fun e => (e.1, bits n 0 52) } }) ∧
    (∀ i, r = .schedLo i → if s.lgd.standalone = false ∧ i / 256 = bits s.mode.set 8 1 then locked else
      writes { s with dat := { s.dat with sched := s.dat.sched.upd (0, 0) i fun e => (bits n 0 23 + bits n 24 21 * 2 ^ 24, e.2) } })) ∧
  ∀ (s : State) (o : Nat), (s.readReg o = none ↔ regAt o = none) ∧ (o % 8 ≠ 0 → s.readReg o = none) ∧
    ∀ r, regAt o = some r → (∃ n, s.readReg o = some n ∧ n < 2 ^ 64) ∧ (s.unbuilt r = true ∨ r.writeOnly = true → s.readReg o = some 0) ∧
      (s.unbuilt r = false → r.writeOnly = false → s.readReg o = some (s.regValue r % 2 ^ 64))

/-! ## The Datum, the Bearing and epochs -/

/-- DATUM_PULSE (R255, R286, R287, R297, R300): a pulse without DATUM_VALID, or earlier than an eighth of the tracked period after the last
accepted one, is counted in the Datum reject counter and moves neither the pass, the tracker nor the Bearing; any other is accepted. The
events of the ending pass that are still due fire first. A pending epoch requested in an earlier cycle is then applied by every unit: each
channel in service, and the units that show MODE_STATUS.APPLIED; one requested in this very cycle still waits. Then the tracker is in TRACK,
the Bearing restarts at 0, the pass number is the one carried, whatever it is, and the pass-in-round counter of each context that exists
advances, from SEND_EVERY − 1 back to 0, and to 0 after a RESUME. -/
def Obligations.PulseIsAcceptedOrRejected : Prop :=
  ∀ (s : State) (valid : Bool) (pass : W64), s.alive = true → s.dat.stopped = false →
    (valid = false ∨ (s.dat.tracker ≠ .wait ∧ 8 * s.dat.cyc < s.dat.period) → ∃ t, exec (.datumPulse valid pass) s = .next t ∧
      t.dat.pass = s.dat.pass ∧ t.dat.tracker = s.dat.tracker ∧ t.dat.acc = s.dat.acc ∧ t.dat.cyc = s.dat.cyc ∧
      (s.dat.reject.value < 4294967295 → t.dat.reject.value = s.dat.reject.value + 1) ∧ t.mem = s.mem ∧ t.ctxs = s.ctxs ∧ t.cmds = s.cmds) ∧
    (valid = true → s.dat.tracker = .wait ∨ s.dat.period ≤ 8 * s.dat.cyc → ∃ t, exec (.datumPulse valid pass) s = .next t ∧
      t.dat.pass = pass ∧ t.dat.tracker = .track ∧ t.bearing = 0 ∧ t.dat.cyc = 0 ∧ t.dat.fired = [] ∧
      (s.mode.pending = true → s.mode.reqAt < s.pins.now → t.mode.applied = s.mode.requested ∧ t.mode.set = s.mode.pendingSet ∧
        t.mode.pending = false ∧ (∀ u, 4 ≤ u → bits (t.modeUnit u) 0 16 = s.mode.requested % 2 ^ 16) ∧
        ∀ ch, ch < 4 → t.mode.chApplied.getD ch 1 = if s.chOn ch = true then s.mode.requested else s.mode.chApplied.getD ch 1) ∧
      (s.mode.pending = false ∨ s.pins.now ≤ s.mode.reqAt → t.mode = s.mode) ∧
      (s.tablesOk = true → ∀ c, (s.fireAll.ctx c).state ≠ .free → (s.fireAll.ctx c).sendEvery ≠ 0 → (t.rt c).waitPulse = false ∧
        (t.ctx c).passInRound =
          if (s.fireAll.rt c).waitPulse = true then 0 else ((s.fireAll.ctx c).passInRound + 1) % (s.fireAll.ctx c).sendEvery) ∧
      (s.dueEvents = [] → s.fireAll = s))

/-- DATUM_LOST, DATUM_EDGES_RESUMED, ACCUMULATOR_LIMIT and FREE_PERIOD (R288, R289, R291, R298): in WAIT the loss is only reported; in TRACK
the tracker enters FREE, with an empty history and the Bearing restarted; in FREE the beat is lost already. The accumulator's limit
enters FREE exactly when the accumulator stands at 2⁵⁷; a free period restarts the Bearing once P cycles of the datum clock have
passed since the one before, and not earlier; the edges' return lets the next loss be reported. That a DATUM_LOST in FREE writes no record is
the model's choice (log 110). -/
def Obligations.LosingTheBeat : Prop :=
  ∀ s : State,
    (exec .datumEdgesResumed s = .next { s with dat := { s.dat with stopped := false } }) ∧
    (s.alive = true → s.dat.stopped = false → s.dat.tracker = .wait → s.takes s.engineEvq → exec .datumLost s = .next
      (({ s with dat := { s.dat with stopped := true } }).writeRec s.engineEvq ⟨0x22, 0xFFFF, 0xFFFF, 0, s.dat.period % 2 ^ 32⟩ false)) ∧
    (s.alive = true → s.dat.stopped = false → s.dat.tracker = .free →
      exec .datumLost s = .next { s with dat := { s.dat with stopped := true } }) ∧
    (s.alive = true → s.dat.stopped = false → s.dat.tracker = .track → ∃ t, exec .datumLost s = .next t ∧ t.dat.stopped = true ∧
      t.dat.tracker = .free ∧ t.bearing = 0 ∧ t.dat.history = [] ∧ t.dat.freeCyc = 0 ∧ t.dat.pass = s.dat.pass) ∧
    (s.alive = true → s.dat.tracker = .track → s.dat.acc = 2 ^ 57 → ∃ t, exec .accumulatorLimit s = .next t ∧
      t.dat.tracker = .free ∧ t.bearing = 0 ∧ t.dat.history = [] ∧ t.dat.freeCyc = 0 ∧ t.dat.stopped = s.dat.stopped) ∧
    (s.dat.acc ≠ 2 ^ 57 → exec .accumulatorLimit s = .next s) ∧
    (s.alive = true → s.dat.tracker = .free → s.dat.period ≤ s.dat.freeCyc → ∃ t, exec .freePeriod s = .next t ∧ t.dat.tracker = .free ∧
      t.bearing = 0 ∧ t.dat.freeCyc = 0 ∧ t.dat.pass = s.dat.pass ∧ t.dat.history = s.dat.history) ∧
    (s.dat.freeCyc < s.dat.period → exec .freePeriod s = .next s)

/-- MODE_REQ (R299, R300, R302): the number after the last one requested, 1 after 0xFFFF, is accepted with the staged set while none is pending
and a Legend is sealed, and is pending from the cycle of the write on; any other write only sets REJECTED. -/
def Obligations.EpochRequests : Prop :=
  (∀ e, nextEpoch e = if e = 0xFFFF then 1 else e + 1) ∧
  ∀ (s : State) (v : W64), s.cfgOpen = true →
    (s.lgd.standalone = false → s.mode.pending = false → bits v.toNat 0 16 = nextEpoch s.mode.requested →
      exec (.modeReq v) s = .next (State.okay { s with mode := { s.mode with
        requested := nextEpoch s.mode.requested, pending := true, reqAt := s.pins.now, pendingSet := s.mode.stage
        force := bits v.toNat 16 1 == 1 && s.dat.tracker == .free } })) ∧
    (s.lgd.standalone = true ∨ s.mode.pending = true ∨ bits v.toNat 0 16 ≠ nextEpoch s.mode.requested →
      exec (.modeReq v) s = .next (State.okay { s with mode := { s.mode with rejected := true } }))

/-- FORCE (R302): written while the tracker is not in FREE it has no effect beyond the request itself. In FREE, a request that pends is applied
at the start of the next free period when its FORCE was set there, with a record that carries Bearing 0, and is not when FORCE was not;
the pass, the contexts and the commands stay. -/
def Obligations.ForceAppliesInFree : Prop :=
  (∀ (s : State) (v : W64), s.cfgOpen = true → s.dat.tracker ≠ .free →
    exec (.modeReq v) s = exec (.modeReq (v &&& 0xFFFFFFFFFFFEFFFF#64)) s) ∧
  (∀ (s : State) (v : W64), s.cfgOpen = true → s.dat.tracker = .free → s.lgd.standalone = false → s.mode.pending = false →
    bits v.toNat 0 16 = nextEpoch s.mode.requested → ∃ t, exec (.modeReq v) s = .next t ∧ t.mode.pending = true ∧
      t.mode.applied = s.mode.applied ∧ (t.mode.force = true ↔ bits v.toNat 16 1 = 1)) ∧
  ∀ s : State, s.alive = true → s.dat.tracker = .free → s.dat.period ≤ s.dat.freeCyc → s.mode.pending = true → s.mode.reqAt < s.pins.now →
    ∃ t, exec .freePeriod s = .next t ∧ t.dat.pass = s.dat.pass ∧ t.dat.tracker = .free ∧ t.ctxs = s.ctxs ∧ t.cmds = s.cmds ∧
      (s.mode.force = true → t.mode.applied = s.mode.requested ∧ t.mode.set = s.mode.pendingSet ∧ t.mode.pending = false ∧
        ∀ ch, ch < 4 → s.chOn ch = true → t.mode.chApplied.getD ch 1 = s.mode.requested) ∧
      (s.mode.force = true → s.takes s.engineEvq → ∃ r rest, t.log = s.log ++ r :: rest ∧ r.type = 0x24 ∧ r.bearing = 0) ∧
      (s.mode.force = false → t.mode = s.mode)

/-- The entries of the Bearing schedule (R229, R230, R292 to R295, R369): a due entry whose turn has come fires once in a pass. A SELFTEST
entry opens a window of ARG bearing units, and one that is open for longer stays open; a SEND_OPEN entry opens its context's send window
and a SEND_CLOSE entry closes it, where a SEND_OPEN entry will open it again; a LOOKAHEAD entry sends the reads of its list to the
Footpath, and one whose context there is none, or whose list is not where a list may be, only counts a skip. An entry that has fired
does nothing more. The model's choice: a malformed LOOKAHEAD entry is one skip (log 54), the send window is kept by context number (log 112),
and the longer of two self-test windows holds (log 191). -/
def Obligations.ScheduleEntriesFire : Prop :=
  ∀ (s : State) (e : Nat),
    let c := s.schedCtx e
    let n := bits (s.schedEntry e).1 40 5
    let a := bits (s.schedEntry e).2 0 52
    let fired := { s with dat := { s.dat with fired := s.dat.fired ++ [e] } }
    (s.entryDue 2 e = true → exec (.selftestWindow e) s = .next { s with dat := { s.dat with
      fired := s.dat.fired ++ [e]
      window := some (max (s.pins.now + bits (s.schedEntry e).2 0 12 * s.dat.period * 1000000 / (4096 * s.datumKhz)) (s.dat.window.getD 0)) } }) ∧
    (s.entryDue 5 e = true →
      (s.hasOpener c = true → exec (.sendClose e) s = .next (fired.updRt c fun r => { r with window := false })) ∧
      (s.hasOpener c = false → exec (.sendClose e) s = .next fired)) ∧
    (s.entryDue 4 e = true → Tab.wf CtxRt.init s.rts = true → ∃ t, exec (.sendOpen e) s = .next t ∧
      t.dat.fired = s.dat.fired ++ [e] ∧ (t.rt c).window = true ∧
      t.mos.out = s.mos.out ++ (s.mos.held.filter fun x => x.1 == c).map (·.2) ∧
      t.mos.held = s.mos.held.filter fun x => x.1 != c) ∧
    (s.entryDue 1 e = true →
      (s.ctxExists c = false ∨ n = 0 ∨ 16 < n ∨ a % 64 ≠ 0 ∨ s.inMap a (16 * n) = false → ∃ t, exec (.lookahead e) s = .next t ∧
        t.dat.fired = s.dat.fired ++ [e] ∧ t.feed = s.feed ∧ t.mem = s.mem ∧ t.ctxs = s.ctxs ∧
        (s.stl.laSkip.value < 4294967295 → t.stl.laSkip.value = s.stl.laSkip.value + 1)) ∧
      (s.ctxExists c = true → 1 ≤ n → n ≤ 16 → a % 64 = 0 → s.inMap a (16 * n) = true → ∃ t, exec (.lookahead e) s = .next t ∧
        t = { fired with feed := t.feed, fp := t.fp, fpOut := t.fpOut, fpRun := t.fpRun } ∧
        t.feed = { s.feed with look := s.feed.look ++ [⟨c, none, lookPieces a n, [], [], s.dat.pulses + 2⟩] } ∧
        t.fp = s.fp ++ (lookPieces a n).map fun p => ⟨.look c p.1, false, p.1, [], 16 * p.2⟩)) ∧
    (s.dat.fired.contains e = true → ∀ i ∈ [Instr.lookahead e, .selftestWindow e, .checkpoint e, .sendOpen e, .sendClose e], exec i s = .next s)

/-! ## Contexts -/

/-- CREATE, UPDATE, DESTROY, READ and SYNC through the window (R318 to R320, R414): an operation that passes its checks has its effect on the
selected context and ends in DONE with CONTEXT_OPERATION_DONE; the window shows BUSY until then. One that does not changes the window only and
ends in REFUSED with the first REASON that applies, in the order ABSENT, STATE, NOT_IDLE, QUEUES, FIELD, MSID. CREATE and UPDATE take the
D fields of the image; UPDATE leaves the others; DESTROY frees an idle context and empties its stack; SYNC drops the copies of region records; READ
changes the window only, and another context's entry never changes. That the entry of a destroyed context keeps its other fields (log 90), and
that its stack leaves with it (log 152), is the model's choice. -/
def Obligations.ContextOperations : Prop :=
  ∀ s : State, s.winOpen = true → s.win.st ≠ 1 → s.win.sel < s.ctxCount → s.tablesOk = true →
    let c := s.win.sel
    ((s.ctx c).state = .free → s.entryError c s.win.image
        { (CtxEntry.init.takeD s.win.image) with state := .active, round := BitVec.ofNat 64 (bits s.win.image 576 64) } = 0 →
      ∃ t, exec .create s = .next t ∧ t.ctx c = { (CtxEntry.init.takeD s.win.image) with
        state := .active, round := BitVec.ofNat 64 (bits s.win.image 576 64) } ∧ (t.rt c).stack = [] ∧
        (∀ k, k ≠ c → t.ctx k = s.ctx k) ∧ t.mem = s.mem ∧ t.win.st = 1 ∧ t.win.outcome = 0) ∧
    ((s.ctx c).state = .active → s.entryError c s.win.image ((s.ctx c).takeD s.win.image) = 0 →
      ((s.ctx c).roundsDiffer ((s.ctx c).takeD s.win.image) = true → (s.ctx c).roundState = .idle ∧ (s.ctx c).passInRound = 0) →
      (s.ctxIdle c = true) → ∃ t, exec .update s = .next t ∧ t.ctx c = (s.ctx c).takeD s.win.image ∧
        (∀ k, k ≠ c → t.ctx k = s.ctx k) ∧ t.mem = s.mem ∧ t.win.st = 1 ∧ t.win.outcome = 0) ∧
    ((s.ctx c).state = .active ∨ (s.ctx c).state = .quarantined → s.ctxIdle c = true → s.queuesOff c = true →
      ∃ t, exec .destroy s = .next t ∧ t.ctx c = { s.ctx c with state := .free } ∧ (∀ k, k ≠ c → t.ctx k = s.ctx k) ∧
        (t.rt c).stack = [] ∧ t.mem = s.mem ∧ t.win.st = 1 ∧ t.win.outcome = 0) ∧
    (let no := fun (r : Nat) => State.okay { s with win := { s.win with st := 1, reason := 0, ctx := c, outcome := r } }
      let e := s.ctx c
      let img := s.win.image
      let new := e.takeD img
      let err := s.entryError c img { (CtxEntry.init.takeD img) with state := .active, round := BitVec.ofNat 64 (bits img 576 64) }
      let idle := s.ctxIdle c = true
      (e.state ≠ .free → exec .create s = .next (no 2)) ∧ (e.state = .free → err ≠ 0 → exec .create s = .next (no err) ∧ (err = 1 ∨ err = 6)) ∧
      (let rounds := e.roundsDiffer new = true ∧ ¬(e.roundState = .idle ∧ e.passInRound = 0);
        (e.state ≠ .active ∨ rounds → exec .update s = .next (no 2)) ∧
        (e.state = .active → ¬rounds → ¬idle → e.idleDiffer new = true → exec .update s = .next (no 3)) ∧
        (e.state = .active → ¬rounds → idle ∨ e.idleDiffer new = false → s.entryError c img new ≠ 0 →
          exec .update s = .next (no (s.entryError c img new)))) ∧
      (e.state = .free ∨ e.state = .resetting → exec .destroy s = .next (no 2)) ∧
      (e.state = .active ∨ e.state = .quarantined → (¬idle → exec .destroy s = .next (no 3)) ∧
        (idle → s.queuesOff c = false → exec .destroy s = .next (no 4))) ∧
      (e.state ≠ .active → exec .sync s = .next (no 2)) ∧ (e.state = .active → ¬idle → exec .sync s = .next (no 3)) ∧
      (e.state = .free ∨ e.state = .resetting → exec .reset s = .next (no 2))) ∧
    (∀ u : State, u.winOpen = true → u.win.st ≠ 1 → u.ctxCount ≤ u.win.sel →
      ∀ i ∈ [Instr.create, .update, .destroy, .read, .sync, .reset], exec i u = .next (State.okay { u with
        win := { u.win with st := 1, reason := 0, ctx := u.win.sel, outcome := 5 } })) ∧
    (exec .read s = .next (State.okay { s with win := { s.win with
      data := imageWords (s.entryImage c), st := 1, reason := 0, ctx := c, outcome := 0 } })) ∧
    ((s.ctx c).state = .active → s.ctxIdle c = true → ∃ t, exec .sync s = .next t ∧ (t.rt c).copies = [] ∧
      t = State.okay { s with rts := t.rts, win := t.win } ∧ t.win.st = 1 ∧ t.win.outcome = 0) ∧
    ∀ u : State, u.winOpen = true → u.win.st = 1 → exec .contextOperationDone u = .next { u with win := { u.win with
      st := if u.win.outcome = 0 then 2 else 3, reason := u.win.outcome } }

/-- RESET and CONTEXT_RESET_DONE (R306, R345, R346, R352): the reset makes the context RESETTING and stops its queues, whose published commands
are discarded; when its work has ended, RESETS and RESET_T0 follow the window of R352, the context is QUARANTINED at
ctx_limit and else ACTIVE, its stack is empty and its round OPEN, and its commands have left. Host memory stays where none of them had an
abort still to end. -/
def Obligations.ContextResetStartsAndEnds : Prop :=
  ∀ s : State, s.tablesOk = true →
    (s.winOpen = true → s.win.st ≠ 1 → s.win.sel < s.ctxCount → (s.ctx s.win.sel).state = .active ∨ (s.ctx s.win.sel).state = .quarantined →
      ∃ t, exec .reset s = .next t ∧ (t.ctx s.win.sel).state = .resetting ∧ (t.rt s.win.sel).resetting.isSome = true ∧
        t.win.st = 1 ∧ t.win.outcome = 0 ∧
        ∀ q, (s.cmq q).ctx = s.win.sel → (s.cmq q).state = .active → (t.cmq q).state = .stopped ∧ (t.cmq q).head = (s.cmq q).pub) ∧
    ∀ (c : Nat) (r : ResetRun) (g : Legend), s.lgd.inForce = some g → s.alive = true → (s.rt c).resetting = some r →
      s.resetQuiet c = true → ∃ t, exec (.contextResetDone c) s = .next t ∧ t.cmds.all (fun x => x.ctx != c) = true ∧
        ((t.ctx c).resetT0, (t.ctx c).resets) = escalate s.powerSeconds g.ctxWindow (s.ctx c).resetT0 (s.ctx c).resets ∧
        (t.ctx c).state = (if r.quarantined = true ∨ g.ctxLimit ≤ (t.ctx c).resets then .quarantined else .active) ∧
        (t.ctx c).roundState = .idle ∧ (t.ctx c).broken = false ∧ (t.rt c).stack = [] ∧ (t.rt c).resetting = none ∧
        (∀ k, k ≠ c → t.ctx k = s.ctx k) ∧ ((∀ x ∈ s.cmds, x.ctx = c → x.waiting = true) → t.mem = s.mem)

/-! ## Command queues and event queues -/

/-- ENABLE, QUEUE_DISABLE and RESTART (R303, R306, R415): a DISABLED queue whose fields are legal becomes ACTIVE and empty; an ACTIVE, PAUSED or
STOPPED one is DISABLED at once where no command of it is left, else DRAINING; a STOPPED one becomes ACTIVE again. Only that queue changes.
Of the ring its base is judged, not its length. That a write which repeats LOG2SIZE and CONTEXT sets no CFG_ERR is the model's choice (log
12). -/
def Obligations.CommandQueueControl : Prop :=
  ∀ (s : State) (q : Nat) (v : W64), s.cfgOpen = true → q < 4096 → s.tablesOk = true →
    let alone := fun (t : State) => t = State.okay { s with cmqs := t.cmqs } ∧ ∀ k, k ≠ q → t.cmq k = s.cmq k
    let same := bits v.toNat 2 5 = (s.cmq q).log2 ∧ bits v.toNat 16 16 = (s.cmq q).ctx
    ((s.cmq q).state = .disabled → s.lgd.standalone = false → bits v.toNat 16 16 < s.ctxCount →
      (s.ctx (bits v.toNat 16 16)).state = .active → 4 ≤ bits v.toNat 2 5 → bits v.toNat 2 5 ≤ 16 → (s.cmq q).base % 4096 = 0 →
      s.inMap (s.cmq q).base 1 = true → ∃ t, exec (.enable q v) s = .next t ∧ alone t ∧
        t.cmq q = { s.cmq q with
          log2 := bits v.toNat 2 5, ctx := bits v.toNat 16 16, state := .active, head := 0, pub := 0, nums := [], slot := none }) ∧
    ((s.cmq q).state = .active ∨ (s.cmq q).state = .paused ∨ (s.cmq q).state = .stopped → same →
      ∃ t, exec (.queueDisable q v) s = .next t ∧ alone t ∧
        t.cmq q = { s.cmq q with slot := none, state := if (s.cmdsOf q).isEmpty then .disabled else .draining }) ∧
    ((s.cmq q).state = .draining → same → exec (.queueDisable q v) s = .next s.okay) ∧
    ((s.cmq q).state = .stopped → same → (s.ctx (s.cmq q).ctx).state ≠ .resetting →
      ∃ t, exec (.restart q v) s = .next t ∧ alone t ∧ t.cmq q = { s.cmq q with state := .active })

/-- DOORBELL and COMMAND_ACCEPT (R236, R304, R305, R307, R324, R326, R415): a PUB within the ring publishes and numbers the new slots of its
context, and lets a WAIT_FLAG of the queue read its flag again; a PUB that leaves the ring or goes back publishes nothing and is counted;
the slot at HEAD is read through the Footpath, asked for with COMMAND_ACCEPT by the model's choice (log 154); acceptance takes the slot that
has been read, advances HEAD and reserves one record slot in the context's event queue. -/
def Obligations.CommandsArePublishedAndAccepted : Prop :=
  ∀ (s : State) (q : Nat) (v : W64), s.tablesOk = true →
    let pub := v.toNat % 2 ^ 32
    (s.cfgOpen = true → q < 4096 → (s.cmq q).state ≠ .disabled → (pub + 2 ^ 32 - (s.cmq q).head) % 2 ^ 32 ≤ 2 ^ (s.cmq q).log2 →
      serialGe 32 pub (s.cmq q).pub = true → ∃ t, exec (.doorbell q v) s = .next t ∧ (t.cmq q).pub = pub ∧
        (t.cmq q).nums.length = (s.cmq q).nums.length + (pub + 2 ^ 32 - (s.cmq q).pub) % 2 ^ 32 ∧
        (t.ctx (s.cmq q).ctx).seq = ((s.ctx (s.cmq q).ctx).seq + (pub + 2 ^ 32 - (s.cmq q).pub) % 2 ^ 32) % 2 ^ 48 ∧
        (∀ k, k ≠ q → t.cmq k = s.cmq k) ∧ (∀ k, k ≠ (s.cmq q).ctx → t.ctx k = s.ctx k) ∧
        t = State.okay { s with cmqs := t.cmqs, ctxs := t.ctxs, cmds := t.cmds, fp := t.fp, fpOut := t.fpOut, fpRun := t.fpRun } ∧
        (∀ x, x ∈ t.cmds → ∃ y ∈ s.cmds, x = y ∨ x = { y with since := s.pins.now }) ∧
        ((∀ x ∈ s.cmdsOf q, x.phase = .begun → x.op ≠ 0x21) → t.cmds = s.cmds ∧ t.fp = s.fp)) ∧
    (s.cfgOpen = true → q < 4096 → (s.cmq q).state ≠ .disabled →
      (2 ^ (s.cmq q).log2 < (pub + 2 ^ 32 - (s.cmq q).head) % 2 ^ 32 ∨ serialGe 32 pub (s.cmq q).pub = false) →
      ∃ t, exec (.doorbell q v) s = .next t ∧ t.cmqs = s.cmqs ∧ t.ctxs = s.ctxs ∧
        (s.badDoorbell.value < 4294967295 → t.badDoorbell.value = s.badDoorbell.value + 1)) ∧
    (s.slotWanted q = true → ∃ t, exec (.commandAccept q) s = .next t ∧ t = { s with fp := t.fp, fpOut := t.fpOut, fpRun := t.fpRun } ∧
      t.fp = s.fp ++ [⟨.slot q, false, (s.cmq q).base + 128 * ((s.cmq q).head % 2 ^ (s.cmq q).log2), [], 128⟩]) ∧
    (s.canAccept q = true → ∃ t, exec (.commandAccept q) s = .next t ∧ t.cmds.length = s.cmds.length + 1 ∧
      (∃ c, c ∈ t.cmds ∧ c.id = CmdId.mk q (s.cmq q).head ∧ c.ctx = (s.cmq q).ctx ∧ c.phase = .accepted ∧ (s.cmq q).slot = some c.raw) ∧
      (t.cmq q).head = ((s.cmq q).head + 1) % 2 ^ 32 ∧ (t.cmq q).slot = none ∧ (t.evq (s.ctx (s.cmq q).ctx).evq).reserved =
        (s.evq (s.ctx (s.cmq q).ctx).evq).reserved + 1 ∧ t.mem = s.mem)

/-- EVQ_ENABLE, EVQ_DISABLE, EVQ_HEAD and NOTIFY_GAP (R326, R332, R416, R417): a legal queue is enabled empty; disabling waits for reserved slots;
a HEAD up to TAIL is taken, one past it is ignored and counted; a gap, whose 0 is taken as 1 µs, that ends with a record waiting makes its
notification. That a record within the gap is owed one notification at its end is the model's reading of COALESCE (log 106). -/
def Obligations.EventQueueControl : Prop :=
  ∀ (s : State) (q : Nat) (v : W64), q < 64 → s.tablesOk = true →
    (s.cfgOpen = true → (s.evq q).enable = false → (s.evq q).disabling = false → 7 ≤ bits v.toNat 1 5 → bits v.toNat 1 5 ≤ 16 →
      (s.evq q).base % 4096 = 0 → s.inMap (s.evq q).base 1 = true → ∃ t, exec (.evqEnable q v) s = .next t ∧
        t = State.okay { s with evqs := t.evqs } ∧ (∀ k, k ≠ q → t.evq k = s.evq k) ∧ (t.evq q).enable = true ∧ (t.evq q).head = 0 ∧
        (t.evq q).tail = 0 ∧ (t.evq q).reserved = 0 ∧ (t.evq q).pend = 0 ∧ (t.evq q).log2 = bits v.toNat 1 5 ∧
        (t.evq q).notify = bits v.toNat 6 2) ∧
    (s.cfgOpen = true → (s.evq q).enable = true → bits v.toNat 1 5 = (s.evq q).log2 → ∃ t, exec (.evqDisable q v) s = .next t ∧
      t = State.okay { s with evqs := t.evqs } ∧ (∀ k, k ≠ q → t.evq k = s.evq k) ∧ (t.evq q).enable = false ∧
      (t.evq q).disabling = ((s.evq q).reserved != 0)) ∧
    (s.cfgOpen = true → (v.toNat % 2 ^ 32 + 2 ^ 32 - (s.evq q).head) % 2 ^ 32 ≤ ((s.evq q).tail + 2 ^ 32 - (s.evq q).head) % 2 ^ 32 →
      ∃ t, exec (.evqHead q v) s = .next t ∧ (t.evq q).head = v.toNat % 2 ^ 32 ∧
        t = State.okay { s with evqs := t.evqs, log := t.log, fp := t.fp, fpOut := t.fpOut, fpRun := t.fpRun } ∧
        (∀ k, k ≠ q → t.evq k = s.evq k)) ∧
    (s.cfgOpen = true → ((s.evq q).tail + 2 ^ 32 - (s.evq q).head) % 2 ^ 32 < (v.toNat % 2 ^ 32 + 2 ^ 32 - (s.evq q).head) % 2 ^ 32 →
      ∃ t, exec (.evqHead q v) s = .next t ∧ (t.evq q).head = (s.evq q).head ∧
        (s.headOverrun.value < 4294967295 → t.headOverrun.value = s.headOverrun.value + 1)) ∧
    (s.alive = true → (s.evq q).gapRunning = true → s.pins.now < (s.evq q).gapAt + max 1 (s.evq q).gap * 1000 → exec (.notifyGap q) s = .next s) ∧
    (s.alive = true → (s.evq q).gapRunning = true → (s.evq q).gapAt + max 1 (s.evq q).gap * 1000 ≤ s.pins.now →
      ((s.evq q).owes = true → exec (.notifyGap q) s = .next
        ((s.notify q (s.evq q).acked).updEvq q
          fun e => { e with owes := false, gapAt := s.pins.now })) ∧
      ((s.evq q).owes = false → exec (.notifyGap q) s = .next (s.updEvq q fun e => { e with gapRunning := false })))

/-- A record that is no command record is written where its queue has room for it, with the next SEQ at the slot TAIL names, and
else is dropped, counted in EVQ_LOST and added to the pending lost count, which is written at once where one slot is left; its 32 bytes are SEQ, TYPE, SEV, CONTEXT, QUEUE, the Bearing with
the tracker's state, TAG, the pass and the payload, least significant byte first (R13, R326, R327). While a lost count is pending, the
EVENTS_LOST record that carries it goes first, and clears it. -/
def Obligations.RecordsAreWrittenOrCounted : Prop :=
  ∀ (s : State) (q : Nat) (b : RecBody), s.tablesOk = true →
    let e := s.evq q
    let t := s.emit q b
    let is := fun (r : Rec) (seq : Nat) => r.seq = seq ∧ r.type = b.type ∧ r.sev = sevOf b.type ∧ r.ctx = b.ctx ∧ r.queue = b.queue ∧
      r.bearing = s.bearing ∧ r.tracker = s.dat.tracker.code ∧ r.tag = b.tag ∧ r.pass = s.dat.pass.toNat % 2 ^ 32 ∧
      r.payload = b.payload % 2 ^ 96
    let lost := fun (r : Rec) (seq n : Nat) => r.seq = seq ∧ r.type = 0x30 ∧ r.ctx = 0xFFFF ∧ r.queue = 0xFFFF ∧ r.payload = n % 2 ^ 96
    let slot := fun (r : Rec) => FpReq.mk (.record q r.seq) false (e.base + 32 * (r.seq % 2 ^ e.log2)) r.bytes 32
    let ring := s.alive = true ∧ e.open_ = true ∧ e.log2 ≤ 16 ∧ e.head < 2 ^ 32 ∧ e.tail < 2 ^ 32
    let calm := e.lost.value < 4294967295 ∧ e.lost.value + 1 ≠ e.lost.threshold
    let counts := (t.evq q).lost.value = e.lost.value + 1
    (∀ r : Rec, r.bytes.length = 32 ∧ r.bytes = leBytes 4 r.seq ++ leBytes 1 r.type ++ leBytes 1 r.sev ++ leBytes 2 r.ctx ++ leBytes 2 r.queue ++
      leBytes 2 (r.bearing + r.tracker * 2 ^ 13) ++ leBytes 4 r.tag ++ leBytes 4 r.pass ++ leBytes 12 r.payload) ∧
    (s.takes q → ∃ r : Rec, t.log = s.log ++ [r] ∧ is r e.tail ∧ (t.evq q).tail = (e.tail + 1) % 2 ^ 32 ∧ t.fp = s.fp ++ [slot r]) ∧
    (ring → e.pend = 0 → e.room = 1 → calm → ∃ l : Rec, t.log = s.log ++ [l] ∧ lost l e.tail 1 ∧ (t.evq q).pend = 0 ∧ counts ∧
      (t.evq q).tail = (e.tail + 1) % 2 ^ 32 ∧ t.fp = s.fp ++ [slot l]) ∧
    (ring → e.pend ≠ 0 →
      (3 ≤ e.room → ∃ l r : Rec, t.log = s.log ++ [l, r] ∧ lost l e.tail e.pend ∧ is r ((e.tail + 1) % 2 ^ 32) ∧ (t.evq q).pend = 0 ∧
        (t.evq q).tail = (e.tail + 2) % 2 ^ 32 ∧ t.fp = s.fp ++ [slot l, slot r]) ∧
      (e.room = 2 → calm → ∃ l m : Rec, t.log = s.log ++ [l, m] ∧ lost l e.tail e.pend ∧ lost m ((e.tail + 1) % 2 ^ 32) 1 ∧ (t.evq q).pend = 0 ∧
        counts ∧ (t.evq q).tail = (e.tail + 2) % 2 ^ 32 ∧ t.fp = s.fp ++ [slot l, slot m]) ∧
      (e.room = 1 → calm → ∃ l : Rec, t.log = s.log ++ [l] ∧ lost l e.tail e.pend ∧ (t.evq q).pend = 1 ∧ counts ∧
        (t.evq q).tail = (e.tail + 1) % 2 ^ 32 ∧ t.fp = s.fp ++ [slot l])) ∧
    (s.alive = true → e.open_ = false ∨ e.room = 0 → calm →
      t.log = s.log ∧ t.fp = s.fp ∧ counts ∧ (t.evq q).pend = e.pend + 1 ∧ (t.evq q).tail = e.tail) ∧
    (s.alive = false → t = s)

/-! ## The life of a command -/

/-- COMMAND_ISSUE (R179, R236, R319): the descriptors, tables and region records of a command are read through the Footpath, asked for with this
row by the model's choice (log 154). Once they have been read, a command that passes every check is issued, and nothing but it and its
context's copies of region records changes; one that fails a check leaves with one fault record that carries the check's code, and
memory is as before. -/
def Obligations.IssueChecksDecide : Prop :=
  ∀ (s : State) (q : Nat) (c : Cmd), s.alive = true → ((s.cmdsOf q).find? fun c => c.phase == .accepted) = some c →
    (s.ctx c.ctx).state ≠ .resetting →
    ((s.issueTables c).all c.hasPiece = false → ∃ t, exec (.commandIssue q) s = .next t ∧
      t = { s with fp := t.fp, fpOut := t.fpOut, fpRun := t.fpRun } ∧
      (∀ p ∈ s.issueTables c, c.hasPiece p = true ∨ ∃ r ∈ t.fp, r.use = .table c.id p.1) ∧
      ∃ rs, t.fp = s.fp ++ rs ∧ ∀ r ∈ rs, r.data = [] ∧ ∃ p ∈ s.issueTables c, r.use = .table c.id p.1 ∧ r.addr = p.1) ∧
    ((s.issueTables c).all c.hasPiece = true →
      (s.issueChecks (s.loadDescs c) = none → ∃ t, exec (.commandIssue q) s = .next t ∧ t = { s with cmds := t.cmds, rts := t.rts } ∧
        (s.tablesOk = true → ∀ k, k ≠ c.ctx → t.rt k = s.rt k) ∧
        t.cmds = s.cmds.map (fun x => if x.id = c.id then { x with
          slots := (s.loadDescs c).slots, probs := (s.loadDescs c).probs, phase := .issued } else x)) ∧
      (∀ f, s.issueChecks (s.loadDescs c) = some f → ∃ t, exec (.commandIssue q) s = .next t ∧ t.cmd c.id = none ∧ t.mem = s.mem ∧
        ∃ r, t.log = s.log ++ [r] ∧ r.type = 2 ∧ r.payload % 2 ^ 16 = f.code % 2 ^ 16))

/-- FRAME_RESOLVE and COMMAND_BEGIN (R164, R165, R178, R183, R187, R190, R236, R238, R301, R308): the next command of its queue resolves and pins
its frames under no other hold, and begins once no hold, no cause and no busy unit stops it, and its shape record or pointer list has been
read: from then on it has begun, with the epoch in force. Until they are read, COMMAND_BEGIN asks for them, by the model's choice (log 154). A
shape that fits no bucket aborts the command. -/
def Obligations.CommandsBegin : Prop :=
  ∀ (s : State) (q : Nat) (c : Cmd), s.nextBegin q = some c → s.ready c = true →
    (c.id.q = q → (s.holdOf c = 0 ∨ s.holdOf c = 4) → s.brokenCause c = none →
      exec (.frameResolve c.id) s = .next (s.updCmd c.id fun x => { x with frames := s.resolve c })) ∧
    (s.holdOf c = 0 → (s.beginTables c).all c.hasPiece = false → ∃ t, exec (.commandBegin q) s = .next t ∧
      t = { s with fp := t.fp, fpOut := t.fpOut, fpRun := t.fpRun } ∧
      ∀ p ∈ s.beginTables c, c.hasPiece p = true ∨ ∃ r ∈ t.fp, r.use = .table c.id p.1) ∧
    (s.holdOf c = 0 → (s.beginTables c).all c.hasPiece = true →
      ((s.epochCause c).or ((s.regionCause c).or ((s.brokenCause c).or (s.secondCause c)))) = none →
      let c1 := { c with frames := s.resolve c }
      let s1 := s.updCmd c.id fun _ => c1
      let run := (s1.planRun c1).1
      (∀ f, (s1.planRun c1).2 = some f → f.code = 0x0121 → s.unitBusy c run = false → ∃ t x, exec (.commandBegin q) s = .next t ∧
        t.cmd c.id = some x ∧ x.phase = .aborting ∧ x.cause = some f ∧ t.log = s.log ∧ t.mem = s.mem) ∧
      ((s1.planRun c1).2 = none → s.unitBusy c run = false → (∀ a, run.arr = some a → s.arrOn a = true) →
        (c.frameRefs = [] ∨ s1.frameChecks { c1 with run := run } = none) →
        ∃ t, exec (.commandBegin q) s = .next t ∧ t = s1.begin_ { c1 with run := run } ∧ run.epoch = s.mode.applied ∧
          ∃ x, x ∈ t.cmds ∧ x.id = c.id ∧ x.waiting = false ∧ x.began = s.pins.now))

/-- COMMAND_COMPLETE (R115, R119, R122, R165, R219, R251, R279, R328): a command whose work is done and whose responses have all returned
leaves with one record on its context's event queue, its completion record; what its commits and pops record before that is the engine's and
names no command. The payload holds its status bits, dataflow, bucket and counts, each at its place and saturating, the rest 0. Each frame
that it named with READ_POP, and every entry above one, leaves the stack for resolution: the frames it named count as pops, the other frames
as discards, the marks as neither; no other context's stack changes. A command whose sum is longer than its guarantee leaves with LONGSUM
instead, and pops nothing. -/
def Obligations.CommandsComplete : Prop :=
  ∀ (s : State) (c : Cmd), s.cmd c.id = some c → s.alive = true → c.phase = .done → c.owed = [] → c.fpOwed = 0 →
    ∃ t rs r, exec (.commandComplete c.id) s = .next t ∧ t.cmd c.id = none ∧ t.log = s.log ++ rs ++ [r] ∧
      (∀ x ∈ rs, x.ctx = 0xFFFF ∧ x.queue = 0xFFFF) ∧ r.ctx = c.ctx ∧ r.queue = c.id.q ∧ r.evq = c.evq ∧ r.tag = c.tag ∧
      r.type = (if c.longsumFault = true then 0x02 else 0x01) ∧ (c.longsumFault = true → r.payload % 2 ^ 16 = 0x0303) ∧
      (c.longsumFault = false →
        let k := c.counts
        let counted := if c.op = 0x12 then k.nonfinite else k.trunc
        bits r.payload 0 1 = (if k.longsum = true then 1 else 0) ∧ bits r.payload 1 1 = (if k.skipped = true then 1 else 0) ∧
        bits r.payload 2 1 = (if k.watch = true then 1 else 0) ∧ bits r.payload 3 5 = 0 ∧
        bits r.payload 8 2 = (if c.isArrayOp = false then 0 else if c.run.spur = true then 3 else if c.op = 1 then 0 else c.run.dataflow % 4) ∧
        bits r.payload 10 3 = c.run.bucket % 8 ∧ bits r.payload 13 3 = 0 ∧ bits r.payload 16 24 = min k.ovf (2 ^ 24 - 1) ∧
        bits r.payload 40 16 = min k.nanLost (2 ^ 16 - 1) ∧ bits r.payload 56 40 = min counted (2 ^ 40 - 1)) ∧
      (s.tablesOk = true →
        let live := (s.rt c.ctx).live
        let named := fun (e : TrvEntry) => !c.longsumFault && c.frames.any fun f => f.pop && f.entry == e.id
        let ids := (live.dropWhile fun e => !named e).map (·.id)
        let gone := live.filter fun e => ids.contains e.id && !e.mark
        let pops := (gone.filter named).length
        (t.rt c.ctx).live = live.filter (fun e => !ids.contains e.id) ∧ (∀ k, k ≠ c.ctx → (t.rt k).stack = (s.rt k).stack) ∧
        (ids = [] → t.trv = s.trv) ∧ (ids ≠ [] → t.trv.pops.value = (s.trv.pops.value + pops) % 2 ^ 48 ∧
          t.trv.discards.value = (s.trv.discards.value + (gone.length - pops)) % 2 ^ 48))

/-- DEADLINE, ABORT_DONE and ABORT_TIMEOUT (R238, R239, R309, R339, R342, R351): a deadline does nothing before the time it was armed for; an
expired one aborts a begun command, and a waiting one leaves at
once with DEADLINE; an abort whose last response has returned ends with one fault record; one that does not end in 1 ms makes the
engine start a context reset. -/
def Obligations.CommandsAbort : Prop :=
  ∀ (s : State) (c : Cmd), s.cmd c.id = some c → s.alive = true →
    (∀ d us, c.armed = some (d, us) → s.pins.now < d → exec (.deadline c.id) s = .next s) ∧
    (∀ d us, c.armed = some (d, us) → d ≤ s.pins.now → c.cause = none → c.phase = .begun → ∃ t, exec (.deadline c.id) s = .next t ∧
      t.log = s.log ∧ t.mem = s.mem ∧ ∃ x, t.cmd c.id = some x ∧ x.phase = .aborting ∧ (x.cause.map (·.code)) = some 0x0701) ∧
    (∀ d us, c.armed = some (d, us) → d ≤ s.pins.now → c.cause = none → c.waiting = true → ∃ t r, exec (.deadline c.id) s = .next t ∧
      t.cmd c.id = none ∧ t.mem = s.mem ∧ t.log = s.log ++ [r] ∧ r.type = 0x02 ∧ r.payload % 2 ^ 16 = 0x0701) ∧
    (∀ f, c.phase = .aborting → c.cause = some f → s.quiet c = true → ∃ t r, exec (.abortDone c.id) s = .next t ∧
      t.cmd c.id = none ∧ t.log = s.log ++ [r] ∧ r.type = 0x02 ∧ r.payload % 2 ^ 16 = f.code % 2 ^ 16) ∧
    (s.pins.now < c.since + 1000000 → exec (.abortTimeout c.id) s = .next s) ∧
    (c.phase = .aborting → c.since + 1000000 ≤ s.pins.now → (s.ctx c.ctx).state = .active → s.tablesOk = true → ∃ t, exec (.abortTimeout c.id) s = .next t ∧
      (t.ctx c.ctx).state = .resetting ∧ ((t.rt c.ctx).resetting.map (·.engine)) = some true)

/-! ## Operations -/

/-- GP_PAIR, GP_DATA, GP_WEIGHT, MM, GP_GROUPED, CONV_DATA, CONV_WEIGHT and MATVEC (R35, R42, R50, R61, R66, R67, R87, R89, R193, R219):
on the Spur, or on its array where no self-test and no earlier drain of another command holds it and no block meets an arithmetic
error, the operation runs to its end: its work is done, its unit is free, every output block of one that starts has drained, and its
record waits for the lines it has written. Host memory is what the chains of the Spur, or the blocks of the array, one after the
other, store in it, for GP_GROUPED with the merge slab's dX and the routing outputs after them, and differs from what it was in the
lines the command awaits only. Beside commands, memory, feeding, arrays and tiles only the cycles of the lanes and tile-beats are
counted, and what the reading of lines has to count; a record that comes of a count names no command. -/
def Obligations.ArrayOperationsRun : Prop :=
  ∀ (s : State) (x : Cmd) (i : Instr) (op : Nat), (i, op) ∈ [(Instr.gpPair x.id, 1), (.gpData x.id, 2), (.gpWeight x.id, 3), (.mm x.id, 4),
      (.gpGrouped x.id, 5), (.convData x.id, 6), (.convWeight x.id, 7), (.matvec x.id, 8)] → s.runs x op → s.tablesOk = true →
    let w := s.work x
    let fed := s.feedRest x.id
    let filled := if op = 5 then (s.groupRun x).1.foldl (State.runGroup w) fed else State.runBlks w (w.runOrder (List.range w.bs.length)) fed
    let onArray := s.held x = false ∧ s.drainHeld w = false ∧ (op = 5 → (s.groupRun x).2 = none) ∧
      ∃ y, filled.cmd x.id = some y ∧ y.phase = .begun
    let stored :=
      if op = 5 then (if x.products % 2 = 1 then filled.mergeSlab x else filled).routing x
      else if x.run.spur = true then (s.cmdProds x).foldl (State.spurProd x) fed else filled
    (op ≠ 5 ∧ x.run.spur = true) ∨ ((op = 5 ∨ x.run.spur = false) ∧ onArray) →
    ∃ t y, exec i s = .next t ∧ s.ran t ∧ s.ownRecords t ∧ s.othersDrain t x.id ∧ t.cmd x.id = some y ∧ y.phase = .done ∧
      t.mem = stored.mem ∧ t.undef = stored.undef ∧
      (∀ k, k < t.arrs.length → (t.arrs.getD k Arr.init).op ≠ some x.id) ∧
      (∀ a, lineOf a ∉ y.owed → t.memByte a = s.memByte a) ∧
      (onArray → x.run.spur = false → x.cause = none → x.drained = [] →
        (∃ a, s.arrs.find? (fun a => a.op == some x.id) = some a ∧ a.held = []) → (s.arrs.getD w.arr Arr.init).slab = [] →
        (s.arrs.getD w.arr Arr.init).edge = [] → ∀ n, n < w.bs.length → n ∈ y.drained)

/-- SURVEY, DERIV, COPY and FILL (R62, R140, R142, R171, R219, R236, R317): each writes the fields of its result, with the values the
lines it reads hold, and no other byte: SURVEY the quantised source and its exponent map, DERIV the derivative of each row, COPY the
source converted, FILL its value in every element. Its work is then done. A COPY that the Footpath carries first asks it for its source, with
this row by the model's choice (log 154), and once that has been read changes no memory before its responses: its writes, none
across a 4 KiB boundary, wait on FP0. -/
def Obligations.DrainCommandsStore : Prop :=
  ∀ (s : State) (x : Cmd), s.tablesOk = true →
    let src := s.opd x 0 0
    let d := s.opd x 0 3
    let dy := s.opd x 0 2
    let sv := s.opd x 0 6
    let conv := fun (u : State) (given : Bool) (xs : List (Nat × Nat × XVal)) => (u.convertAll d given ⟨x.key, 0, 0, x.run.free⟩ xs).fields
    let same := fun (u : State) => src.cells.map fun c => (c.1, c.2, u.scaledVal src c.1 c.2)
    let stores := fun (i : Instr) (u : State) (fs gs : List (Nat × Nat × Nat)) =>
      ∃ t y, exec i s = .next t ∧ s.worked t ∧ s.othersKept t x.id ∧ t.cmd x.id = some y ∧ y.phase = .done ∧
        t.mem = ((u.putFields x.id fs).putFields x.id gs).mem ∧
        (∀ a, outside (fs ++ gs) a → t.memByte a = s.memByte a) ∧ (∀ f ∈ fs ++ gs, 0 < f.2.1 → lineOf (f.1 / 8) ∈ y.owed)
    (s.runs x 0x09 →
      let u := s.readBytes (src.reads ++ if d.given false then [(d.sptr, d.scaleCount * d.scaleBytes)] else [])
      stores (.survey x.id) u (conv u (d.given false) (same u)) (if ptrAt x.raw 0x40 = 0 then [] else u.expMap src (ptrAt x.raw 0x40))) ∧
    (s.runs x 0x0A →
      let u := s.readBytes (dy.reads ++ sv.reads)
      stores (.deriv x.id) u (conv u (d.given (x.switch 7)) ((List.range d.rows).flatMap fun r =>
        let row := derivRow x.fn x.alpha ((List.range d.e0).map fun k => r32 (u.scaledVal dy r k))
          ((List.range d.e0).map fun k => r32 (u.scaledVal sv r k))
        (List.range d.e0).map fun k => (r, k, row.getD k XVal.zero))) []) ∧
    (s.runs x 0x18 → footCopy src d = false →
      let u := s.readBytes src.reads
      stores (.copy x.id) u (conv u (d.given (x.switch 7)) (same u)) []) ∧
    (s.runs x 0x19 → stores (.fill x.id) s (s.fillFields x) []) ∧
    (s.runs x 0x18 → footCopy src d = true → (s.copyTables x).all x.hasPiece = false → ∃ t, exec (.copy x.id) s = .next t ∧
      t = { s with fp := t.fp, fpOut := t.fpOut, fpRun := t.fpRun } ∧
      ∀ p ∈ s.copyTables x, x.hasPiece p = true ∨ ∃ r ∈ t.fp, r.use = .copyRead x.id p.1) ∧
    (s.runs x 0x18 → footCopy src d = true → (s.copyTables x).all x.hasPiece = true →
      let rs : List FpReq := (byteRuns (s.packBits (conv s false (src.cells.map fun c => (c.1, c.2, (s.listSrc x).scaledVal src c.1 c.2))))).map
        fun r => ⟨.copyWrite x.id, false, r.1, r.2, r.2.length⟩
      (∃ t y, exec (.copy x.id) s = .next t ∧ s.othersKept t x.id ∧
        t = { s with cmds := t.cmds, fp := s.fp ++ rs, fpOut := t.fpOut, fpRun := t.fpRun, feed := t.feed, arrs := t.arrs, tiles := t.tiles } ∧
        t.cmd x.id = some y ∧ y.phase = .done ∧ y.fpOwed = x.fpOwed + rs.length) ∧
      ∀ r ∈ rs, r.data ≠ [] ∧ r.addr / 4096 = (r.addr + r.data.length - 1) / 4096)

/-- PUSH_MARK, DISCARD_TO_MARK, DISCARD_ALL and TRAVERSE_ENTRY_FREE (R153, R165, R167, R168, R170): a mark takes the next place of the stack
and 256 B; a discard removes the entries from the topmost mark with its MARK_ID up, or all of them, and is done when the last
of them has been freed; the topmost removed entry is freed once nothing pins it, by the model's choice also where a removed entry below it
is still pinned, since R165 does not say when the unpinned ones above go (log 174). Another context's stack never changes. -/
def Obligations.MarksAndDiscards : Prop :=
  ∀ s : State, s.tablesOk = true →
    (∀ (x : Cmd) (p : Bool × Nat), s.runs x 0x0B → x.markOp = 0 → s.trvPlace x.ctx 256 = some p → ∃ t y, exec (.pushMark x.id) s = .next t ∧
      t = { s with mem := t.mem, undef := t.undef, memq := t.memq, free := t.free, trv := { s.trv with nextId := s.trv.nextId + 1 }, rts := t.rts, cmds := t.cmds } ∧
      (t.rt x.ctx).stack = (s.rt x.ctx).stack ++ [TrvEntry.mk s.trv.nextId true (x.fld 0x44 0 32) 0 0 0 0 0 p.2 256 p.1 false none] ∧
      (∀ c, c ≠ x.ctx → t.rt c = s.rt c) ∧ s.othersKept t x.id ∧ t.cmd x.id = some y ∧ y.phase = .done ∧ y.owed = x.owed ++ [lineOf p.2] ∧
      ∀ a, a < p.2 ∨ p.2 + 256 ≤ a → t.memByte a = s.memByte a) ∧
    (∀ (x : Cmd) (i : Instr) (ids : List Nat), s.runs x 0x0B → x.placed = false →
      let live := (s.rt x.ctx).live
      (i = .discardAll x.id ∧ x.markOp = 2 ∧ ids = live.map (·.id)) ∨
      (i = .discardToMark x.id ∧ x.markOp = 1 ∧ ∃ below m above, live = below ++ [m] ++ above ∧ m.mark = true ∧ m.tag = x.fld 0x44 0 32 ∧
        (∀ e ∈ above, ¬(e.mark = true ∧ e.tag = x.fld 0x44 0 32)) ∧ ids = ([m] ++ above).map (·.id)) →
      ∃ t y, exec i s = .next t ∧ t = { s with rts := t.rts, cmds := t.cmds, trv := t.trv, evqs := t.evqs, log := t.log, fp := t.fp, fpOut := t.fpOut, fpRun := t.fpRun } ∧
        (t.rt x.ctx).live = live.filter (fun e => !ids.contains e.id) ∧ (∀ c, c ≠ x.ctx → t.rt c = s.rt c) ∧ s.othersKept t x.id ∧
        t.cmd x.id = some y ∧ y.placed = true ∧ y.removes = ids ∧ y.phase = (if ids = [] then .done else .begun)) ∧
    ∀ (c : Nat) (e : TrvEntry), s.alive = true → ((s.rt c).stack.filter (·.removed)).getLast? = some e → s.pinned c e.id = false →
      ∃ t, exec (.traverseEntryFree c) s = .next t ∧ t = { s with rts := t.rts, cmds := t.cmds } ∧
        (t.rt c).stack = (s.rt c).stack.filter (fun x => x.id != e.id) ∧ (∀ k, k ≠ c → t.rt k = s.rt k) ∧
        ∀ x, s.runs x 0x0B → x.ctx = c → x.removes = [e.id] → (t.cmd x.id).map (·.phase) = some .done

/-- REDUCE_SCATTER, VECTOR, MOSAIC_GATHER and REPLAY (R245, R247, R251, R263 to R267), with no frame waiting in a receive buffer: a step is
placed on the stream with its region's form and its mode, a vector is started by rank 0 and complete on a ring of one, and a
gather writes into the copy that is not the working one, but a REPLAY whose PEND_WORK is clear into the working copy, which it then
does not flip: that form is the model's choice (log 18). Among several ranks the start sends frames and writes no memory; on a
ring of one the step's own rows are its result, row after row at DST: each of its elements rounded once to FP32 with SR16 and DST's OVF, or
its long value as it is, and no other byte is written. A generalised step counts the Spur's cycles of its products, by the model's
choice at the moment each is formed (log 146). -/
def Obligations.MosaicCommandsStart : Prop :=
  ∀ (s : State) (x : Cmd), s.tablesOk = true → s.mos.hold = [] → x.placed = false →
    let frame := fun (t : State) => t = { s with
        cmds := t.cmds, rts := t.rts, mos := t.mos, mem := t.mem, undef := t.undef, memq := t.memq, feed := t.feed, stl := t.stl, evqs := t.evqs
        log := t.log, fp := t.fp, fpOut := t.fpOut, fpRun := t.fpRun } ∧
      s.ownRecords t ∧ s.othersKept t x.id ∧ ∀ c, c ≠ x.ctx → t.rt c = s.rt c
    let idx := x.fld 0x42 0 16
    (∀ r, s.runs x 0x10 → x.fld 0x40 0 2 = 0 → s.slotRegion x 0 = some r → ∃ t y u, exec (.reduceScatter x.id) s = .next t ∧ frame t ∧
      t.cmd x.id = some y ∧ y.placed = true ∧ u ∈ (t.rt x.ctx).stream.steps ∧ u.idx = idx ∧ u.cmd = x.id ∧ u.long = r.long ∧
      u.anchor = r.anchor ∧ u.rows = (s.opd x 0 0).rows ∧ u.cols = (s.opd x 0 0).e0 ∧ u.gen = s.stepGen x r.long ∧
      (u.gen = false → s.readQuiet t) ∧
      (s.ranks ≠ 1 → t.mem = s.mem ∧ t.undef = s.undef) ∧
      (s.ranks = 1 →
        let g := s.opd x 0 0
        let cs := List.range g.e0
        let res := (s.slotRegion x 4).map (·.idx)
        let st : StepRec := { u with complete := false, got := [] }
        let row := fun (v : State) (i : Nat) =>
          v.ownerRow x st i (if r.long = true then [] else cs.map (v.ownElem x st i)) (if r.long = true then cs.map (v.ownLong x i) else [])
        let v := ((s.readOwn x st (List.range g.rows)).updCmd x.id fun y => { y with placed := true }).updStream x.ctx
          fun z => { z with steps := (z.steps.filter fun y => y.idx != idx) ++ [st] }
        let eb := if r.long = true then 128 else 32
        let r0 := (shardRows s.rank s.ranks g.rows).1
        u.res = res ∧ u.addRes = (res.isSome && (s.rt x.ctx).stream.residual.contains idx) ∧
        t.mem = ((List.range g.rows).foldl row v).mem ∧
        (∀ (w : State) i xs ls, (w.ownerRow x st i xs ls).mem = (w.putFields x.id (if r.long = true then
            (List.range ls.length).map fun k => ((w.opd x 0 3).bitAt 128 (i - (shardRows w.rank w.ranks g.rows).1) k, 128, unsigned 128 (ls.getD k 0))
          else (List.range xs.length).map fun k => ((w.opd x 0 3).bitAt 32 (i - (shardRows w.rank w.ranks g.rows).1) k, 32,
            (Fmt.fp32.convFloat .sr16 (w.opd x 0 3).ovf (draw x.key i k kgFinal 5 0) (xs.getD k XVal.zero)).code))).mem) ∧
        (∀ a, outside ((List.range g.rows).flatMap fun i => cs.map fun k => ((s.opd x 0 3).bitAt eb (i - r0) k, eb, 0)) a →
          t.memByte a = s.memByte a) ∧
        (s.framesHeld x.ctx 1 idx = false → y.phase = .done ∧ t.mos = s.mos))) ∧
    (s.runs x 0x10 → x.fld 0x40 0 2 = 1 →
      (s.ranks = 1 →
        let d := s.opd x 0 3
        let v := s.readBytes (s.opd x 0 0).reads
        let fs := (List.range d.cells.length).map fun i =>
          (d.bitAt 32 (d.cells.getD i (0, 0)).1 (d.cells.getD i (0, 0)).2, 32, fp32Code ((v.vecSrc x).getD i XVal.zero))
        ∃ t y, exec (.vector x.id) s = .next t ∧ frame t ∧ s.readQuiet t ∧ t.cmd x.id = some y ∧ y.phase = .done ∧
          t.mem = (v.putFields x.id fs).mem ∧ (∀ a, outside fs a → t.memByte a = s.memByte a) ∧ t.mos = s.mos) ∧
      (s.ranks ≠ 1 → ∃ t y, exec (.vector x.id) s = .next t ∧ frame t ∧ s.readQuiet t ∧ t.mem = s.mem ∧ t.cmd x.id = some y ∧ y.placed = true ∧
        (t.rt x.ctx).stream.vec = some ⟨x.id, s.rank == 0⟩ ∧ (s.rank ≠ 0 → t.mos = s.mos))) ∧
    ∀ (i : Instr) (replay : Bool), (i = .mosaicGather x.id ∧ replay = false) ∨ (i = .replay x.id ∧ replay = true) → s.runs x 0x11 →
      (x.fld 0x40 0 1 == 1) = replay → (s.rt x.ctx).stream.gathers = [] →
      let rec_ := ptrAt x.raw 0x48
      let copy := if replay = true ∧ s.recBit rec_ 4 = 0 then s.recBit rec_ 2 else 1 - s.recBit rec_ 2
      let g : GatherRec := ⟨x.id, idx, rec_, replay, (s.ctx x.ctx).round, copy, [], false⟩
      ((s.gatherMissing (s.opd x 0 3) g).isSome = true → ∃ t y, exec i s = .next t ∧ frame t ∧ s.readQuiet t ∧ t.mem = s.mem ∧ t.cmd x.id = some y ∧
        y.placed = true ∧ y.phase = .begun ∧ (t.rt x.ctx).stream.gathers = [g]) ∧
      (s.gatherMissing (s.opd x 0 3) g = none → replay = true → s.ranks = 1 → s.framesHeld x.ctx 2 idx = false →
        ∃ t y, exec i s = .next t ∧ frame t ∧ t.stl = s.stl ∧ t.evqs = s.evqs ∧ t.log = s.log ∧ t.cmd x.id = some y ∧ y.phase = .done ∧
          (t.rt x.ctx).stream.gathers = [] ∧ t.mem = (if s.recBit rec_ 4 = 1 then s.flipWork x.ctx rec_ else s).mem ∧
          (s.recBit rec_ 4 ≠ 1 → t.fp = s.fp) ∧
          (s.recBit rec_ 4 = 1 → t.fp = s.fp ++ [⟨.state x.ctx (rec_ + 0x10), false, rec_ + 0x10, [], 4⟩] ∧
            ∀ a, a < rec_ + 0x10 ∨ rec_ + 0x14 ≤ a → t.memByte a = s.memByte a))

/-- NORM and APPLY (R273, R277 to R281, R427): NORM adds the sum of squares, formed by one chain of fused multiply-adds, and the count of
values that are not finite to the two elements of its vector, and writes no other byte; without a gradient, or on a rank that owns no
rows of its layer, it adds 0 and 0; one whose step the engine does not know yet counts as owning rows, by the model's choice (log
162). APPLY is done with p1 and p2 multiplied by their decay rates, which for the optimisers without them is the model's choice (log
31). It is skipped where a gradient is not finite, or a norm that clips is not, unless its NOSKIP bit says otherwise: then it copies
the bytes of its destinations from their committed to their pending copies. Else it stores the master that its optimiser
makes of each element, clipped, the moments, the working weight and its twin, each in its pending copy. It writes no other byte. -/
def Obligations.UpdatesRun : Prop :=
  ∀ (s : State) (x : Cmd), s.tablesOk = true → s.runs x 0x12 →
    let frame := fun (t : State) => t = { s with
        cmds := t.cmds, rts := t.rts, mem := t.mem, undef := t.undef, memq := t.memq, feed := t.feed, stl := t.stl, evqs := t.evqs, log := t.log
        fp := t.fp, fpOut := t.fpOut, fpRun := t.fpRun } ∧ s.readQuiet t ∧ s.othersKept t x.id
    (x.fld 0x40 2 1 = 1 →
      let t0 := s.stepOf x
      let long := (t0.map (·.long)).getD false
      let owns := x.has 0 0 && !(s.normShard x).any fun o => o.1 == 0
      let v := s.opd x 0 6
      let w := s.readBytes ((if owns then s.gradReads x long else []) ++ v.reads)
      let gs := (if owns then (s.opd x 0 0).cells else []).map fun c => w.gradVal x long ((t0.map (·.anchor)).getD 0) c.1 c.2
      let n := (gs.filter fun g => !g.isFin).length
      let field := fun (k : Nat) (a : XVal) => (v.bitAt 32 (v.cells.getD k (0, 0)).1 (v.cells.getD k (0, 0)).2, 32, fp32Code (fadd (w.vecElem v k) a))
      let fs := [field 0 (gs.foldl (fun a g => ffma g g a) XVal.zero), field 1 (XVal.ofInt n)]
      ∃ t y, exec (.norm x.id) s = .next t ∧ frame t ∧ t.rts = s.rts ∧ t.mem = (w.putFields x.id fs).mem ∧
        t.cmd x.id = some y ∧ y.phase = .done ∧ y.counts.nonfinite = n ∧ ∀ a, outside fs a → t.memByte a = s.memByte a) ∧
    ∀ u, x.fld 0x40 2 1 = 0 → s.updateOf x = some u → ∃ t y w, exec (.apply x.id) s = .next t ∧ frame t ∧
      (∀ c, c ≠ x.ctx → t.rt c = s.rt c) ∧ t.cmd x.id = some y ∧ y.phase = .done ∧
      w ∈ (t.rt x.ctx).stream.updates ∧ w.cmd = x.id ∧ w.idx = u.idx ∧ w.p1 = fp32Code (fmul (Fmt.fp32.decode u.p1) (x.hyper 0x4C)) ∧
      w.p2 = fp32Code (fmul (Fmt.fp32.decode u.p2) (x.hyper 0x50)) ∧ y.counts.skipped = w.skipped ∧
      let own := s.ownedRows x
      let cells := (List.range (own.2 - own.1)).flatMap fun r => (List.range (s.opd x 0 4).e0).map fun k => (r, k)
      let gs := cells.map fun c => s.gradVal x u.long u.anchor c.1 c.2
      let clips := XVal.zero.lt (x.hyper 0x5C)
      let norm := s.vecElem (s.opd x 0 6)
      y.counts.nonfinite = (gs.filter fun g => !g.isFin).length ∧
      (w.skipped = true ↔ x.fld 0x40 3 1 = 0 ∧ (y.counts.nonfinite ≠ 0 ∨ (clips = true ∧ ((norm 0).isFin = false ∨ (norm 1).isZero = false)))) ∧
      (w.skipped = true →
        let bs := if own.1 < own.2 then s.copyShard x 1 0 ++ s.copyShard x 2 1 ++ s.copyShard x 3 1 ++ s.copyRows x else []
        t.mem = (s.writeOwed x.id bs).mem ∧ ∀ a, a ∉ bs.map (·.1) → t.memByte a = s.memByte a) ∧
      (w.skipped = false →
        let v := s.readBytes (s.applyReads x u clips false)
        let cf := if clips = true then clipFactor (norm 0) (x.hyper 0x5C) else XVal.one
        let master := s.copies x 1 0
        let mom := s.copies x 2 1
        let root := s.copies x 3 1
        let out := (List.zip cells (if cf = XVal.one then gs else gs.map fun g => fmul g cf)).map fun c =>
          (c.1.1, c.1.2, (x.hypers (Fmt.fp32.decode u.p1) (Fmt.fp32.decode u.p2)).step (v.scaledVal master.2 c.1.1 c.1.2) c.2
            (r32 (v.scaledVal mom.2 c.1.1 c.1.2)) (if x.has 0 3 = true then r32 (v.scaledVal root.2 c.1.1 c.1.2) else XVal.zero))
        let fs := out.map fun c => (master.1.bitAt 32 c.1 c.2.1, 32, fp32Code c.2.2.theta)
        let moms := out.map fun c => (c.1, c.2.1, c.2.2.mom)
        let roots := out.map fun c => (c.1, c.2.1, c.2.2.root)
        let works := out.map fun c => (c.1, c.2.1, c.2.2.theta)
        let s1 := v.putFields x.id fs
        let s2 := if x.has 0 2 = true then s1.storeShard x u mom.1 3 0 own.1 moms else s1
        let s3 := if x.has 0 3 = true then s2.storeShard x u root.1 4 0 own.1 roots else s2
        let s4 := s3.storeShard x u (s.copies x 4 2).1 2 own.1 0 works
        let work := (s4.copies x 4 2).1
        let twin := (s4.copies x 5 2).1
        let n := work.shardBytes s.rank s.ranks
        t.mem = (s4.writeTwin x).mem ∧
        ∀ a, outside fs a → (x.has 0 2 = true → outside ((s1.readGiven mom.1).shardStored x u mom.1 3 0 own.1 moms).fields a) →
          (x.has 0 3 = true → outside ((s2.readGiven root.1).shardStored x u root.1 4 0 own.1 roots).fields a) →
          outside ((s3.readGiven (s.copies x 4 2).1).shardStored x u (s.copies x 4 2).1 2 own.1 0 works).fields a →
          (x.has 0 5 = true → ∀ o, (o < n.1 → a ≠ work.twinShardAt twin s.rank s.ranks 0 o) ∧
            (o < n.2 → a ≠ work.twinShardAt twin s.rank s.ranks 1 o)) → t.memByte a = s.memByte a)

/-- FENCE, WAIT_FLAG, FLAG_INTERVAL, SIGNAL_FLAG, AT_BEARING and AT_BEARING_REACHED (R292, R296, R298, R323 to R325): a fence is done once
its scope has its records; a WAIT_FLAG reads its flag through the Footpath, and again once the flag interval has passed since; a SIGNAL_FLAG sends VALUE
once its scope is done; an AT_BEARING leaves with its record, which carries the pass number, when its target is reached in its pass
in TRACK and its turn among the events of that Bearing has come, or at once where it is past. That the event itself forms that record
is the model's choice (log 50); which later commands of the queue wait for these is another (log 41), of which this says nothing. -/
def Obligations.CommandUnitOperations : Prop :=
  ∀ (s : State) (x : Cmd),
    (s.runs x 0x20 → s.scopeDone x = true → exec (.fence x.id) s = .next (s.updCmd x.id fun y => { y with phase := .done })) ∧
    (s.runs x 0x20 → s.scopeDone x = false → exec (.fence x.id) s = .next s) ∧
    (s.runs x 0x21 → s.pins.now < x.since + s.flagNs → exec (.flagInterval x.id) s = .next s) ∧
    (s.runs x 0x21 → ∀ i ∈ [Instr.waitFlag x.id, .flagInterval x.id], i = .waitFlag x.id ∨ x.since + s.flagNs ≤ s.pins.now → ∃ t, exec i s = .next t ∧
      t = { s with cmds := (s.updCmd x.id fun y => { y with since := s.pins.now }).cmds, fp := s.fp ++ [⟨.flagRead x.id, false, bits x.raw (0x48 * 8) 52, [], 8⟩], fpOut := t.fpOut, fpRun := t.fpRun }) ∧
    (s.runs x 0x22 → s.scopeDone x = true → x.placed = false → ∃ t, exec (.signalFlag x.id) s = .next t ∧
      t = { s with cmds := t.cmds, fp := s.fp ++ [FpReq.mk (.flagWrite x.id) false (x.fld 0x48 0 52) (leBytes 8 (x.fld 0x50 0 64)) 8],
                   fpOut := t.fpOut, fpRun := t.fpRun } ∧
      t.cmds = (s.updCmd x.id fun y => { y with placed := true, fpOwed := y.fpOwed + 1, phase := .done }).cmds) ∧
    (s.runs x 0x22 → s.scopeDone x = false → exec (.signalFlag x.id) s = .next s) ∧
    ∀ i : Instr, s.runs x 0x23 →
      (i = .atBearing x.id ∧ s.dat.tracker ≠ .wait ∧
        ((x.waitPulses = some 0 ∧ x.fld 0x40 12 2 = 0 ∧ (x.atB ≤ s.bearing ∨ s.dat.tracker = .free)) ∨
          (x.waitPulses = none ∧ x.fld 0x48 0 64 < s.dat.pass.toNat))) ∨
      (i = .atBearingReached x.id ∧ s.dat.tracker = .track ∧ s.passIsNow x = true ∧ x.placed = true ∧ x.atB ≤ s.bearing ∧
        s.nextEvent (.atBearing x.id) = true) →
      ∃ t r, exec i s = .next t ∧ t = { s with
          cmds := t.cmds, cmqs := t.cmqs, evqs := t.evqs, log := s.log ++ [r], fp := t.fp, fpOut := t.fpOut, fpRun := t.fpRun, arrs := t.arrs } ∧
        t.cmd x.id = none ∧ r.type = 1 ∧ r.tag = x.tag ∧ r.ctx = x.ctx ∧ r.queue = x.id.q ∧ r.evq = x.evq ∧ r.payload = s.dat.pass.toNat

/-! ## Self-test -/

/-- SELFTEST, FULL_SELFTEST, PREEMPT_SELFTEST and FULL_TEST_DONE (R348, R356, R357, R386): SELFTEST makes every batch with a tile in
service due and waits for all of them; a full test takes its place in the queue, and starts, pausing every array, once it is the next one, no batch runs and
its own condition holds: no array runs an operation, or with PREEMPT every sheet is FREE. Its end is a test of every batch, and
ends its command. -/
def Obligations.SelfTestCommands : Prop :=
  ∀ s : State, s.sizesOk →
    (∀ x : Cmd, s.runs x 0x30 → x.placed = false → x.fld 0x40 0 1 = 0 → ∃ t y, exec (.selftest x.id) s = .next t ∧
      t = { s with cmds := t.cmds, tst := { s.tst with batches := t.tst.batches } } ∧ s.othersKept t x.id ∧ t.cmd x.id = some y ∧
      y.placed = true ∧ y.batches = s.batchesOn ∧
      (∀ b, b ∈ s.batchesOn → (t.batch b).due = true ∧ (t.batch b).running = (s.batch b).running) ∧
      ∀ b, b ∉ s.batchesOn → t.batch b = s.batch b) ∧
    (∀ (x : Cmd) (i : Instr) (ready : Bool), s.runs x 0x30 → x.placed = false →
      (i = .fullSelftest x.id ∧ x.fld 0x40 0 2 = 1 ∧ ready = (List.range 4).all s.arrIdle) ∨
      (i = .preemptSelftest x.id ∧ x.fld 0x40 0 2 = 3 ∧ ready = s.tiles.all fun t => t.sheets.all fun h => h.st == .free) →
      ∃ t y, exec i s = .next t ∧ t = { s with cmds := t.cmds, arrs := t.arrs, tst := t.tst } ∧ s.othersKept t x.id ∧
        t.cmd x.id = some y ∧ y.placed = true ∧ y.phase = .begun ∧ t.tst.fullQ = s.tst.fullQ ++ [x.id] ∧
        (ready = false → t.tst.fullRun = s.tst.fullRun ∧ t.arrs = s.arrs) ∧
        (ready = true → s.tst.fullRun = none → s.tst.fullQ = [] → (s.tst.batches.all fun b => !b.running) = true →
          t.tst.fullRun = some (x.id, s.pins.now) ∧ ∀ a, a < 4 → (t.arrs.getD a Arr.init).paused = true)) ∧
    ∀ (id : CmdId) (since : Nat), s.alive = true → s.tst.fullRun = some (id, since) → since + 2000000 ≤ s.pins.now →
      (∃ t, exec (.fullTestDone none) s = .next t ∧ t.tst.fullRun = none ∧ t.mem = s.mem ∧ t.ctxs = s.ctxs ∧
        (∀ a, a < 4 → (t.arrs.getD a Arr.init).paused = false) ∧
        (∀ b, b < 16 → (t.batch b).due = false ∧ (t.batch b).last = s.pins.now) ∧
        ∀ x, s.cmd id = some x → x.phase = .begun → (t.cmd id).map (·.phase) = some .done) ∧
      ∀ f : TestFail, 5 ≤ f.cls → s.flt.out = false → ∃ t, exec (.fullTestDone (some f)) s = .next t ∧ t.flt.out = true ∧ t.tst.fullRun = none

/-- FORCING_POINT, BATCH_TEST, BATCH_DONE and ROTATION_END (R336, R340, R348, R354, R355, R357, R386), for a batch with a tile in service: a batch past its forcing time, and none before, is due; it starts in
an idle window or, once due, in a forced one, 1 ms after the forced one before it, and pauses its arrays; it ends after 24 µs; a clean end lets them go on, dates the batch, and ends the
SELFTEST commands that waited for it last; the end of a rotation, once its period has passed, counts itself and writes its results to TST_LAST. -/
def Obligations.BatchTestsRun : Prop :=
  ∀ (s : State) (b : Nat), s.sizesOk → s.alive = true → b ∈ s.batchesOn →
    (s.pins.now < (s.batch b).last + s.legendOr (·.forceAt) 80 * 1000000 → exec (.forcingPoint b) s = .next s) ∧
    ((s.batch b).running = false → (s.batch b).last + s.legendOr (·.forceAt) 80 * 1000000 ≤ s.pins.now → ∃ t, exec (.forcingPoint b) s = .next t ∧
      t = { s with tst := { s.tst with batches := t.tst.batches } } ∧ t.batch b = { s.batch b with due := true } ∧
      ∀ k, k ≠ b → t.batch k = s.batch k) ∧
    ((s.tst.batches.all fun x => !x.running) = true → s.tst.fullRun = none →
      ((s.batch b).due = true ∧ ∀ f, s.tst.forcedAt = some f → f + 1000000 ≤ s.pins.now) ∨ s.idleWindow b = true →
      ∃ t, exec (.batchTest b) s = .next t ∧ t = { s with arrs := t.arrs, tst := { s.tst with
          batches := t.tst.batches, testAt := s.pins.now, forcedAt := if s.idleWindow b = true then s.tst.forcedAt else some s.pins.now } } ∧
        t.batch b = { s.batch b with running := true, due := false, forced := !s.idleWindow b } ∧ (∀ k, k ≠ b → t.batch k = s.batch k) ∧
        ∀ a, a < 4 → t.arrs.getD a Arr.init = { s.arrs.getD a Arr.init with
          paused := if a ∈ s.batchArrs b then true else (s.arrs.getD a Arr.init).paused }) ∧
    ((s.batch b).running = true → s.pins.now < s.tst.testAt + 24000 → exec (.batchDone b none) s = .next s) ∧
    ((s.batch b).running = true → s.tst.testAt + 24000 ≤ s.pins.now → ∃ t, exec (.batchDone b none) s = .next t ∧
      t = { s with cmds := t.cmds, arrs := t.arrs, tiles := t.tiles, tst := t.tst, stl := t.stl, evqs := t.evqs, log := t.log, fp := t.fp, fpOut := t.fpOut
                   fpRun := t.fpRun } ∧
      (t.batch b).running = false ∧ (t.batch b).last = s.pins.now ∧ t.tst.rotRun = s.tst.rotRun + 1 ∧
      (∀ a, a ∈ s.batchArrs b → (t.arrs.getD a Arr.init).paused = false) ∧
      ∀ x, s.runs x 0x30 → (s.batch b).due = false → x.placed = true → x.fld 0x40 0 1 = 0 → x.batches = [b] →
        (t.cmd x.id).map (·.phase) = some .done) ∧
    (s.pins.now < s.tst.rotFrom + s.legendOr (·.rotation) 100 * 1000000 → exec .rotationEnd s = .next s) ∧
    (s.tst.rotFrom + s.legendOr (·.rotation) 100 * 1000000 ≤ s.pins.now → s.alm.life.getD 14 0 < 2 ^ 64 - 2 → ∃ t, exec .rotationEnd s = .next t ∧
      t = { s with alm := { s.alm with life := setAt s.alm.life 14 (s.alm.life.getD 14 0 + 1) }, tst := t.tst, evqs := t.evqs, log := t.log, fp := t.fp, fpOut := t.fpOut
                   fpRun := t.fpRun } ∧
      t.tst = { s.tst with
        last := selftestPayload false s.tst.rotFail s.tst.rotForced s.tst.rotRun ((s.pins.now - s.tst.rotFrom) / 1000) % 2 ^ 64
        rotFrom := s.pins.now, rotRun := 0, rotForced := false, rotFail := none })

/-! ## Tiles -/

/-- ANCHOR_READY, TILE_BEAT and FLIT_TRANSFER (R41, R42, R45, R50, R82 to R84, R118, R207, R226, R336, R337): a sheet that awaits its anchor
receives the one of its block, which the block keeps, and fills. A tile with work that no cause of R84 holds runs its next beat, whose cycles
are counted: it adds one 32×32×32 product to the sheet being filled and counts its step, or to the partial block in turn, whose
contribution then awaits the partial link; an arithmetic error aborts the command with its code. After the last beat of a sheet or partial,
and after each further 65,536 products of an output, the lane compares; a sum it finds wrong aborts the command with SUMCHECK, the tile
queued for self-test. At an edge of its rectangle the tile takes the flits that its buffer has room for. One that is held only counts its cycles under the cause, as does a tile of an array whose
next operation is held, and one whose operation is not placed yet as FEEDER_EMPTY; that the row carries those cycles, and the bits
flipped, is the model's choice (log 124). A flit moves into a link with room, out of its neighbour's, which takes it as it forwards
it, or from the feeder, and into the partial link as the neighbour adds its contribution to it; one with bad parity aborts the
command. How values and bytes lie in flits is the model's choice (log 157). -/
def Obligations.TilesWork : Prop :=
  (∀ (s : State) (x : Cmd) (t : Nat), s.tileRuns t x → s.sizesOk →
    let w := s.work x
    let u := s.assign w t
    let ch := s.build.size.chanOf t
    let ud := u.drainLinks w t
    let placed := (u.arrs.getD w.arr Arr.init).fed = true ∧ (u.needs w t).isEmpty = false
    let aborts := fun (i : Instr) (code : Nat) => ∃ v y, exec i s = .next v ∧ v.mem = s.mem ∧ v.cmd x.id = some y ∧ y.phase = .aborting ∧
      (y.cause.map (·.code)) = some code
    let stopped := fun (i : Instr) => ∃ v y, exec i s = .next v ∧ v.mem = s.mem ∧ v.cmd x.id = some y ∧ y.phase = .aborting ∧
      (y.cause.map (·.code)) = some 0x0604 ∧ (v.tile t).queued = true
    let moved := fun (v : State) (as : List Arr) => v = { s with
        cmds := v.cmds, tiles := v.tiles, arrs := as, feed := v.feed, stl := v.stl, evqs := v.evqs, log := v.log, fp := v.fp
        fpOut := v.fpOut, fpRun := v.fpRun } ∧
      ∀ k, k ≠ t → (v.tile k).sheets = (s.tile k).sheets ∧ (v.tile k).jobs = (s.tile k).jobs ∧ (v.tile k).pjobs = (s.tile k).pjobs ∧
        (v.tile k).ready = (s.tile k).ready ∧ (v.tile k).partIn = (s.tile k).partIn
    (∀ i sh b p, ((List.range (u.tile t).sheets.length).find? fun i => ((u.tile t).sheets.getD i Sheet.init).st == .anchoring) = some i →
      (u.tile t).sheets[i]? = some sh → w.blk sh.blk = some (b, p) → ∃ v h, exec (.anchorReady t) s = .next v ∧
        v = { s with tiles := v.tiles, arrs := (u.fixAnchor w sh.blk).arrs } ∧
        (v.tile t).sheets[i]? = some h ∧ h = u.fullSheet w { sh with st := .filling, anchor := u.anchorOf w p b } ∧
        h.blk = sh.blk ∧ h.cmd = sh.cmd ∧ h.anchor = u.anchorOf w p b ∧ (u.anchorKept w b = none → h.anchor = u.blkAnchor x p b) ∧ (h.st = .filling ∨ h.st = .full) ∧ ∀ k, k ≠ t → v.tile k = s.tile k) ∧
    (∀ i n bt sh b p stalls upset, ud.turn w t = some (.sheet i n bt) → placed → ud.stallCause w t = none →
      (u.tile t).sheets[i]? = some sh → w.blk n = some (b, p) →
      let x0 := Turn.sheet i n bt
      let ks := w.keys b p 0 bt
      let u1 := (ud.countWork 0 ch (beatCycles p.a.t.fmt p.b.t.fmt p.fair) []).updTile t fun z =>
        { (z.latched w x0 ks) with cells := w.cellsKey p x0 ks }
      let r := u1.doBeat w b p (u1.tile t) 0 sh.anchor ⟨sh.accs, sh.scales⟩ bt
      let accs := upsetAt r.1.accs p.fair p.int upset
      let last := decide ((u1.beatsOf w.cmd p b).length ≤ sh.step + 1)
      let found := laneFinds accs (laneDue sh.accs accs last)
      (r.2 = none → found = none → ∃ v h, exec (.tileBeat t stalls upset) s = .next v ∧ moved v s.arrs ∧
        (v.tile t).sheets[i]? = some h ∧ h.blk = sh.blk ∧ h.step = sh.step + 1 ∧ h.cnt = accsCnt accs ∧ h.anchor = sh.anchor ∧
        ((last = false ∧ h.st = .filling ∧ h.accs = accs) ∨ (last = true ∧ h.st = .full))) ∧
      (r.2 = none → found.isSome = true → x.cause = none → stopped (.tileBeat t stalls upset)) ∧
      ∀ e, x.cause = none → r.2 = some e → aborts (.tileBeat t stalls upset) e.cause.code) ∧
    (∀ q bt b p stalls upset, ud.turn w t = some (.part q bt) → placed → ud.stallCause w t = none → w.blk q.blk = some (b, p) →
      let x0 := Turn.part q bt
      let ks := w.keys b p q.slab bt
      let u1 := (ud.countWork 0 ch (beatCycles p.a.t.fmt p.b.t.fmt p.fair) []).updTile t fun z =>
        { (z.latched w x0 ks) with cells := w.cellsKey p x0 ks }
      let first := (u.tile t).dbeats = 0
      let anchor := if first then u1.anchorOf w p b else (u.tile t).panchor
      let r := u1.doBeat w b p (u1.tile t) q.slab anchor (if first then b.empty p else ⟨(u.tile t).pdx, (u.tile t).pscales⟩) bt
      let accs := upsetAt r.1.accs p.fair p.int upset
      let last := decide ((u1.refBeats w t q).length ≤ (u.tile t).dbeats + 1)
      let found := laneFinds accs (laneDue (if first then [] else (u.tile t).pdx) accs last)
      (r.2 = none → found = none → ∃ v, exec (.tileBeat t stalls upset) s = .next v ∧ moved v (u1.fixAnchor w q.blk).arrs ∧
        (v.tile t).sheets = (u.tile t).sheets ∧
        (last = false → (v.tile t).dbeats = (u.tile t).dbeats + 1 ∧ (v.tile t).pdx = accs ∧ (v.tile t).ready = (u.tile t).ready) ∧
        (last = true → (v.tile t).dbeats = 0 ∧ (v.tile t).ready.getLast? = some ⟨q, anchor, accs, accsCnt accs, r.1.scales⟩)) ∧
      (r.2 = none → found.isSome = true → x.cause = none → stopped (.tileBeat t stalls upset)) ∧
      ∀ e, x.cause = none → r.2 = some e → aborts (.tileBeat t stalls upset) e.cause.code) ∧
    (∀ stalls upset, (¬placed → exec (.tileBeat t stalls upset) s = .next (if u.tileWork w.arr t = true then
        u.countWork 0 ch 0 [(Stall.feederEmpty.idx, stalls)] else u)) ∧
      ∀ c, placed → ud.stallCause w t = some c →
        exec (.tileBeat t stalls upset) s = .next (ud.countWork 0 ch 0 [(c.idx, stalls)])) ∧
    (∀ (l : Link) (upset : List Nat), l ≠ .part →
      let u := State.drainLink w t l 8 u
      let full := 8 ≤ ((u.tile t).flits l).length
      let lands := fun (v : State) (f : Flit) => ∃ k, (v.tile t).flits l = ((u.tile t).flits l ++ [f.flip upset]).drop k ∧
        (u.forwards w t l = true → k = 0)
      (full → exec (.flitTransfer t l upset) s = .next u) ∧
      (¬full → ∀ e, u.linkFrom w t l = some e → e ≠ t →
        (u.canTake w e l = false → exec (.flitTransfer t l upset) s = .next u) ∧
        ∀ f fs, (u.tile e).flits l = f :: fs → u.canTake w e l = true →
          (f.badParity (f.flip upset) upset = false → ∃ v, exec (.flitTransfer t l upset) s = .next v ∧ v = { s with tiles := v.tiles } ∧
            lands v f ∧ (v.tile e).flits l = fs ∧ ∀ k, k ≠ t → k ≠ e → v.tile k = s.tile k) ∧
          (f.badParity (f.flip upset) upset = true → x.cause = none → aborts (.flitTransfer t l upset) 0x0601)) ∧
      (¬full → u.linkFrom w t l = none → ∀ c i k ls bs, u.feederOf w t (if l = .row then .row else .col) = some (c, i) →
        (u.thread c i).blks = (k, ls) :: bs → (u.thread c i).headDone = true →
        let f := w.flitOf k ((u.thread c i).buf.take ls.length) (u.thread c i).sent
        (f.badParity (f.flip upset) upset = false → ∃ v, exec (.flitTransfer t l upset) s = .next v ∧ moved v s.arrs ∧ lands v f) ∧
        (f.badParity (f.flip upset) upset = true → x.cause = none → aborts (.flitTransfer t l upset) 0x0601))) ∧
    ∀ upset : List Nat,
      (u.linkFrom w t .row = none → exec (.flitTransfer t .part upset) s = .next u) ∧
      ∀ e, u.linkFrom w t .row = some e → e ≠ t → (u.passFlit w e upset = none → exec (.flitTransfer t .part upset) s = .next u) ∧
        ∀ own b p y z, u.frontPart w e = some own → w.blk own.ref.blk = some (b, p) → u.colOf w.arr p b.tile e = some y →
          u.arriving w e y own b p = some z → y + 1 < p.rw → u.partTile w b p (y + 1) = t → (u.tile t).partIn.length < 8 →
          let sum := z.add own w b p
          (sum.badParity (sum.flip p upset) p upset = false → ∃ v, exec (.flitTransfer t .part upset) s = .next v ∧
            v = { s with tiles := v.tiles, arrs := (u.fixAnchor w own.ref.blk).arrs } ∧
            (v.tile t).partIn = (u.tile t).partIn ++ [sum.flip p upset] ∧ ∀ k, k ≠ t → k ≠ e → v.tile k = s.tile k) ∧
          (sum.badParity (sum.flip p upset) p upset = true → x.cause = none → aborts (.flitTransfer t .part upset) 0x0601)) ∧
  ∀ (s : State) (t h stalls : Nat) (upset : Option Upset), s.alive = true → s.tileOn t = true → s.opOfTile t = none →
    (s.arrs.getD (s.arrOfTile t) Arr.init).paused = false → s.nextHeld (s.arrOfTile t) = some h →
    exec (.tileBeat t stalls upset) s = .next (s.countWork 0 (s.build.size.chanOf t) 0 [((causeStall h).idx, stalls)])

/-- DRAIN_ACCEPT, DRAIN_DONE and PARTIAL_EAST (R45, R46, R50, R57, R61, R62, R63, R74, R139, R185, R212): the drain accepts the FULL sheet that
was full first, whose place in the order of the drains is then fixed and whose region it has begun to change; the last value of the draining
sheet that comes first is written, unless an earlier drain overlaps it or its block waits for the blocks it shares scale groups with (that
wait is the model's choice, log 123). A part of a split sheet drains into the steal buffer and changes no region; with the last part the
joined value is written, in its own place in the order, which is the model's choice (log 209).
A row partial passes east flit by flit, each with the tile's contribution added: to the next tile where its link has room, or out of
the array, where the last flit takes the partial to the partial slab or, after the last reduction slab, to where its block is
stored. A block that is stored writes the outputs that it completes, converted, where its product's destination is: a plain or raw destination in its own elements
and scales, a region in those elements, in the copy that is written, and in a SHADOW region with its command's first block the elements
carried over into that copy, which the blocks leave out (the model's choice, log 168), the merge slab in no memory; no other byte changes.
How values lie in the flits of a partial is the model's choice (log 157). -/
def Obligations.BlocksDrain : Prop :=
  (∀ (s : State) (x : Cmd) (t : Nat), s.tileRuns t x → s.sizesOk → s.tablesOk = true →
    let w := s.work x
    let u := s.assign w t
    let stored := fun (v u : State) (k : BlkSum) => ∃ y, s.worked v ∧ s.othersDrain v x.id ∧ v.cmd x.id = some y ∧
      (k.blk ∈ y.drained ∨ (v.heldOf x.id).any (fun h => h.blk == k.blk) = true) ∧ (∀ a, lineOf a ∉ y.owed → v.memByte a = s.memByte a) ∧
      ∀ b p, w.blk k.blk = some (b, p) →
        let held := u.heldOf x.id ++ [k]
        let os := u.doneOuts x w held k.blk b
        v.mem = (if (w.unit b).all (x.there held) = true then (u.countOuts x.id p (os.map (·.2))).putOuts x p os else u).mem
    let joins := (u.arrs.getD w.arr Arr.init).joins
    let joined := fun (v u0 : State) (j : Nat × Nat) (h : BlkSum) (b : Blk) (p : Prod) => ∃ y c, s.worked v ∧ s.othersDrain v x.id ∧
      v.cmd x.id = some y ∧ u0.cmd x.id = some c ∧ (j.1 ∈ y.drained ∨ (v.heldOf x.id).any (fun k => k.blk == j.1) = true) ∧
      (∀ a, lineOf a ∉ y.owed → v.memByte a = s.memByte a) ∧
      let rest := (u0.heldOf x.id).filter fun k => k.blk != j.1
      let u3 := (u0.setJoins w.arr ((u0.arrs.getD w.arr Arr.init).joins.filter fun k => k.1 != j.1)).setHeld x.id rest
      let os := u3.doneOuts c w (rest ++ [h]) j.1 b
      v.mem = (if (w.unit b).all (c.there (rest ++ [h])) = true then (u3.countOuts x.id p (os.map (·.2))).putOuts c p os else u3).mem
    ((u.tile t).fullSheet = none → exec (.drainAccept t) s = .next u) ∧
    (∀ i sh, (u.tile t).fullSheet = some i → (u.tile t).sheets[i]? = some sh → ∃ v y, exec (.drainAccept t) s = .next v ∧
      v = { s with cmds := v.cmds, tiles := v.tiles } ∧ (v.tile t).sheets[i]? = some { sh with st := .draining, order := u.nextOrder } ∧
      (∀ j, j ≠ i → (v.tile t).sheets[j]? = (u.tile t).sheets[j]?) ∧ (∀ k, k ≠ t → v.tile k = s.tile k) ∧ s.othersKept v x.id ∧
      v.cmd x.id = some y ∧ y = { x with touched := y.touched, firsts := y.firsts } ∧ (w.split sh.blk = true → y = x) ∧
      (∀ b p d k, w.split sh.blk = false → w.blk sh.blk = some (b, p) → p.dst = .region d k → b.outs p ≠ [] → k ∈ y.touched)) ∧
    (joins = [] → ∀ sh rest b p, sortBy (fun (a b : Sheet) => decide (a.order ≤ b.order)) ((u.tile t).sheets.filter fun h =>
        h.st == .draining && h.cmd == some x.id && !(u.heldOf x.id).any fun k => k.blk == h.blk) = sh :: rest →
      w.blk sh.blk = some (b, p) →
      let part : BlkSum := ⟨sh.blk, 0, sh.anchor, sh.accs, sh.cnt, sh.scales⟩
      (w.split sh.blk = false →
        let first := u.drainsFirst x.ctx (fun y => decide (sh.order ≤ y.order)) (u.blkAddrs w sh.blk)
        (first = true → exec (.drainDone t) s = .next u) ∧ (first = false → ∃ v, exec (.drainDone t) s = .next v ∧ stored v u part)) ∧
      (w.split sh.blk = true → sh.blk ∉ x.drained → w.arr < 4 →
        let held := u.heldOf x.id ++ [part]
        let last := (w.unit (w.bs.getD sh.blk default)).all fun i => held.any fun h => h.blk == i
        let u2 := u.storePart w sh
        let n := (u.setHeld x.id held).nextOrder
        ∃ v, exec (.drainDone t) s = .next v ∧ (last = false → s.worked v ∧ v.mem = s.mem ∧ v.cmd x.id = some x ∧ v.heldOf x.id = held) ∧
          (last = true → let first := u2.drainsFirst x.ctx (fun y => decide (n ≤ y.order)) (u2.blkAddrs w sh.blk)
            (first = true → s.worked v ∧ v.mem = s.mem ∧ v.heldOf x.id = held ∧ (v.arrs.getD w.arr Arr.init).joins = [(sh.blk, n)]) ∧
            (first = false → joined v u2 (sh.blk, n) part b p)))) ∧
    (∀ j h b p, joins = [j] → (u.heldOf x.id).find? (fun h => h.blk == j.1) = some h → w.blk j.1 = some (b, p) → j.1 ∉ x.drained →
      ((u.tile t).sheets.all fun h => h.st != .draining) = true →
      let first := u.drainsFirst x.ctx (fun y => decide (j.2 ≤ y.order)) (u.blkAddrs w j.1)
      ∃ v, exec (.drainDone t) s = .next v ∧ (first = true → v = { s with tiles := v.tiles }) ∧ (first = false → joined v u j h b p)) ∧
    exec (.partialEast t) s = .next (State.passFlits w t (u.flitsLeft w t) u) ∧
    ∀ own z b p y, u.frontPart w t = some own → w.blk own.ref.blk = some (b, p) → u.colOf w.arr p b.tile t = some y →
      u.arriving w t y own b p = some z →
      let sum := z.add own w b p
      let gone := { (u.tile t).flitPassed (b.flits p) with partIn := if y = 0 then (u.tile t).partIn else (u.tile t).partIn.drop 1 }
      let fs := ((s.arrs.getD w.arr Arr.init).edge.filter fun f => f.ref == own.ref) ++ [sum]
      let row := joinFlits own.ref fs
      let total : BlkSum := ⟨own.ref.blk, own.ref.slab + 1, row.anchor, row.accs, row.cnt, row.scales⟩
      let as := (u.fixAnchor w own.ref.blk).arrs
      (∀ e, y + 1 < p.rw → e = u.partTile w b p (y + 1) → e ≠ t → e < 256 →
        ((u.tile e).partIn.length < 8 → ∃ v, u.passFlit w t [] = some v ∧ v = { s with tiles := v.tiles, arrs := as } ∧
          v.tile t = gone ∧ (v.tile e).partIn = (u.tile e).partIn ++ [sum] ∧ ∀ k, k ≠ t → k ≠ e → v.tile k = s.tile k) ∧
        (8 ≤ (u.tile e).partIn.length → u.passFlit w t [] = none)) ∧
      (p.rw ≤ y + 1 → z.ref = own.ref → w.arr < 4 → fs.length < b.flits p → ∃ v, u.passFlit w t [] = some v ∧
        v = { s with tiles := v.tiles, arrs := updAt as w.arr fun a => { a with edge := a.edge ++ [sum] } } ∧ v.tile t = gone) ∧
      (p.rw ≤ y + 1 → z.ref = own.ref → w.arr < 4 → b.flits p ≤ fs.length → ∃ v, u.passFlit w t [] = some v ∧
        let taken := updAt as w.arr fun a => { a with edge := a.edge.filter fun f => f.ref != own.ref }
        let u2 := { u with tiles := updAt u.tiles t fun _ => gone, arrs := taken }
        (own.ref.slab + 1 ≠ p.redSlabs → v = { s with tiles := v.tiles, arrs := v.arrs } ∧ v.tile t = gone ∧
          (v.arrs.getD w.arr Arr.init).slab = ((s.arrs.getD w.arr Arr.init).slab.filter fun q => q.blk != own.ref.blk) ++ [total]) ∧
        (own.ref.slab + 1 = p.redSlabs → stored v u2 total))) ∧
  ∀ (s : State) (c : Cmd) (p : Prod) (os : List (Nat × OutVal)), s.tablesOk = true →
    let vs := os.map (·.2)
    let t := s.putOuts c p os
    match p.dst with
    | .plain d =>
      let v := s.readBytes (p.savedReads vs)
      let fs := (v.convertAll d (d.given (c.switch 7)) (c.draws p) ((v.fuseOuts c p vs).map fun o => (o.row, o.col, o.val))).fields
      t.mem = (v.putFields c.id fs).mem ∧ ∀ a, outside fs a → t.memByte a = s.memByte a
    | .raw d =>
      let fs := vs.map fun o => (d.bitAt 128 o.row o.col, 128, unsigned 128 o.long)
      t.mem = (s.putFields c.id fs).mem ∧ ∀ a, outside fs a → t.memByte a = s.memByte a
    | .region d i =>
      let v := s.drainReady c p d i vs
      let r := v.region c.ctx i
      let fs := r.writes d (v.regionSteps c p d i vs)
      (vs ≠ [] → t.mem = (v.putFields c.id fs).mem ∧
        ∀ a, outside fs a → outside (s.carryOver p (s.region c.ctx i) d) a → t.memByte a = s.memByte a) ∧ (vs = [] → t = s)
    | .slab => t.mem = s.mem ∧ t.undef = s.undef

/-! ## Feeding -/

/-- LINE_REQUEST, ATLAS_LINE_ARRIVE, RUN_AHEAD, NEXT_OP_PREFETCH and BANK_CONVOY (R89, R215, R219 to R224, R227, R228, R232, R240): the
active thread issues up to eight line requests: one the channel cache does not hold takes it to WAIT_ATLAS, one it holds is delivered
in its turn, with the bytes the line has then. The Atlas delivers a resident line, sends a demand fill for one that is not, or joins
the fill on its way, or waits where none can be sent; it keeps back a filtered one, and drops a line in error and aborts its command. Prefetching only sends speculative
fills, for each line that is not resident, on its way, unmapped or beyond the limits, and stops where one cannot be sent; a convoy is
declared on its bank, and under AUTO skews the operation from then on. None writes memory. -/
def Obligations.FeedersFetch : Prop :=
  ∀ (s : State) (ch i : Nat), s.alive = true → s.chOn ch = true → ch < s.feed.cch.length → ch < s.feed.spur.length →
    let th := s.thread ch i
    let fed := fun (v : State) => v = { s with
      cmds := v.cmds, feed := v.feed, arrs := v.arrs, tiles := v.tiles, stl := v.stl, evqs := v.evqs, log := v.log, fp := v.fp
      fpOut := v.fpOut, fpRun := v.fpRun }
    let s1 := State.giveThreads ch 32 (s.countSpurWait ch)
    ((∃ v, exec (.lineRequest ch) s = .next v ∧ fed v ∧ v.feed.inv = s.feed.inv ∧
        ∀ f ∈ v.feed.fills, f ∈ s.feed.fills ∨ ∃ n, f.kind = .look n) ∧
      (s1.activeThread ch = none → exec (.lineRequest ch) s = .next s1) ∧
      (∀ k a rest, s1.activeThread ch = some k → (s1.thread ch k).todo = a :: rest → s1.canIssue ch (s1.thread ch k) = true →
        (s1.cached ch a.line = false → (∀ f ∈ s1.feed.fills, (ch, k) ∉ f.waiters) → ∃ v n, exec (.lineRequest ch) s = .next v ∧
          (v.thread ch k).st = .waitAtlas ∧ 1 ≤ n ∧ n ≤ 8 ∧
          (v.thread ch k).todo = (s1.thread ch k).todo.drop n ∧ (a.line, false) ∈ (v.thread ch k).outst) ∧
        (∀ j id, s1.cached ch a.line = true → s1.thread ch k = { Thread.init with
            st := (s1.thread ch k).st, cmd := some id, stream := .spur j, slab := (s1.thread ch k).slab, todo := [a]
            ahead := (s1.thread ch k).ahead, active := (s1.thread ch k).active, slot := (s1.thread ch k).slot } →
          ∃ v, exec (.lineRequest ch) s = .next v ∧ v.thread ch k = Thread.init ∧
            (id, (a.line, (List.range 256).map fun m => s.bulkByte (a.line * 256 + m))) ∈ v.feed.spur.getD ch []))) ∧
    (s.wanted ch i = none → ∀ bad, exec (.atlasLineArrive ch i bad) s = .next s) ∧
    (∀ l, s.wanted ch i = some l →
      ((s.aline l).isSome = true → s.filtered l = true → ∀ bad, exec (.atlasLineArrive ch i bad) s = .next s) ∧
      ((s.aline l).isSome = true → s.filtered l = false → ∃ v, exec (.atlasLineArrive ch i false) s = .next v ∧ fed v ∧
        (∀ o ∈ (v.thread ch i).outst, o.1 = l → o.2 = true) ∧ (s.placedOn ch → (v.feed.cch.getD ch []).head? = some l) ∧
        ∀ f ∈ v.feed.fills, f ∈ s.feed.fills ∨ ∃ n, f.kind = .look n) ∧
      ((s.aline l).isSome = true → s.filtered l = false → ∀ x, th.cmd = some x.id → s.cmd x.id = some x → x.phase = .begun → x.cause = none →
        ∃ v y, exec (.atlasLineArrive ch i true) s = .next v ∧ v.cmd x.id = some y ∧ y.phase = .aborting ∧
          (y.cause.map (·.code)) = some 0x0605 ∧ (∀ c ∈ v.feed.cch, l ∉ c) ∧ (Tab.wf none s.feed.atlas = true → v.aline l = none) ∧ v.mem = s.mem) ∧
      (s.aline l = none → ∀ bad,
        let waits := fun (v : State) => v = { s with cmds := v.cmds, feed := v.feed } ∧ v.feed.atlas = s.feed.atlas ∧
          v.thread ch i = { th with st := v.waitState ch i } ∧
          v.cmds = s.cmds.map fun x => if th.cmd = some x.id then { x with reads := x.reads ++ [l] } else x
        (s.filling l = true → ∃ v, exec (.atlasLineArrive ch i bad) s = .next v ∧ waits v ∧ v.feed.fills = s.feed.fills.map fun f =>
          if f.line = l then { f with kind := .demand, waiters := f.waiters ++ [(ch, i)], asked := f.asked ++ [ch] } else f) ∧
        (s.filling l = false → s.canFill l false = true → ∃ v, exec (.atlasLineArrive ch i bad) s = .next v ∧ waits v ∧
          v.feed.fills = s.feed.fills ++ [Fill.mk l (s.portOf l) .demand (s.threadCtx th) [(ch, i)] [ch] false]) ∧
        (s.filling l = false → s.canFill l false = false → exec (.atlasLineArrive ch i bad) s = .next s.endConvoys))) ∧
    (th.st ≠ .free → ∃ v n, exec (.runAhead ch i) s = .next v ∧ v = { s with feed := v.feed } ∧ v.feed.atlas = s.feed.atlas ∧
      v.thread ch i = { th with ahead := n } ∧ th.ahead ≤ n ∧ (∀ f ∈ v.feed.fills, f ∈ s.feed.fills ∨ f.kind = .ahead) ∧
      (∀ k y, th.ahead ≤ k → k < n → th.todo[k]? = some y → y.dist = 0 ∨ (k * 256 < y.dist ∧ v.prefilled y.line = true)) ∧
      ∀ y, th.todo[n]? = some y → y.dist ≠ 0 ∧ (y.dist ≤ n * 256 ∨ (v.prefilled y.line = false ∧ v.canFill y.line true = false))) ∧
    (∀ a x, s.prefetchFor a = some x → s.arrOn a = true → ∃ v, exec (.nextOpPrefetch a) s = .next v ∧
      v = { s with feed := { s.feed with fills := v.feed.fills } } ∧ (∀ f ∈ v.feed.fills, f ∈ s.feed.fills ∨ f.kind = .ahead) ∧
      ∀ l ∈ s.prefetchLines x, (s.aline l).isSome = true ∨ v.filling l = true ∨ s.inMap (l * 256) 1 = false ∨ v.canFill l true = false) ∧
    (∀ b, s.waitBank ch = some b → s.feed.convoy.getD ch none = none → ch < s.feed.convoy.length → ∃ v, exec (.bankConvoy ch) s = .next v ∧
      v = { s with feed := v.feed, stl := v.stl, flt := v.flt, arrs := v.arrs, tiles := v.tiles, evqs := v.evqs, log := v.log, fp := v.fp
                   fpOut := v.fpOut, fpRun := v.fpRun } ∧
      v.feed.convoy.getD ch none = some b ∧ v.feed.fills = s.feed.fills ∧ v.feed.threads = s.feed.threads ∧
      ∀ c, s.opOfCh ch = some c → c.switch 3 = true → c.phase = .begun → s.arrOfCh ch < s.arrs.length →
        (v.arrs.getD (s.arrOfCh ch) Arr.init).skewed = true)

/-- MEM_READ_RESPONSE, MEM_WRITE_RESPONSE and FOOTPATH_RESPONSE (R219, R225, R231, R236, R238, R324, R369, R370, R380, R393): no read response
writes memory; the line of a good demand fill has come for the thread that waits, and its command awaits it no more, while a bad one aborts
the command; a bad speculative one is counted and reaches no command. The response to a write that has been sent is one less that its
command awaits, or its Traverse frame, and a bad one aborts the command; what waited for it may then be sent. A Footpath response answers
a transfer that has been sent: the bytes of a write reach memory with its OKAY response, and only those, which is the model's choice
(log 104); the answer to a flag read ends the WAIT_FLAG whose condition holds; that to a slot read gives the queue its descriptor, and that
to a table read, or of the source of a COPY, the command its bytes. An OKAY response to a checkpoint writes its slot and completes it: SEQ
is one more, it is counted, and the age runs from its snapshot; a bad one is counted and sets CKPT_FAILING with one record, and SEQ stays.
A piece of a Legend that FP0 fetches is added to the load, whose next piece is asked for until LENGTH is there; then, and with a bad
response, the load is verified. The answer to a look-ahead list issues its entries as it returns, by the model's choice (log 54), so that each line of them is resident,
on its way, or waits for the budget. -/
def Obligations.ResponsesArrive : Prop :=
  ∀ s : State, s.tablesOk = true → s.pins.poreset = false →
    (∀ port line r, ∃ v, exec (.memReadResponse port line r) s = .next v ∧ v.mem = s.mem ∧ v.undef = s.undef) ∧
    (∀ port line r f, s.stopped = false → s.feed.fills.find? (fun f => f.line == line && f.port == port) = some f → s.feed.look = [] →
      let left := s.feed.fills.filter fun x => x.line != line
      (∀ ch i, r = .okay → f.kind = .demand → f.waiters = [(ch, i)] → f.stale = false → s.filtered line = false → ch < s.feed.cch.length →
        ∃ v, exec (.memReadResponse port line r) s = .next v ∧ v.feed.fills = left ∧
          (∀ o ∈ (v.thread ch i).outst, o.1 = line → o.2 = true) ∧ (s.placedOn ch → (v.feed.cch.getD ch []).head? = some line) ∧
          ∀ c ∈ v.cmds, line ∉ c.reads) ∧
      (∀ ch i x, r.bad = true → f.kind = .demand → f.waiters = [(ch, i)] → (s.thread ch i).cmd = some x.id → s.cmd x.id = some x →
        x.phase = .begun → x.cause = none → ∃ v y, exec (.memReadResponse port line r) s = .next v ∧ v.cmd x.id = some y ∧
          y.phase = .aborting ∧ (y.cause.map (·.code)) = some 0x0201) ∧
      (r.bad = true → f.kind ≠ .demand → ∃ v, exec (.memReadResponse port line r) s = .next v ∧ v.feed.fills = left ∧ v.cmds = s.cmds ∧
        (s.flt.specError.value < 4294967295 → v.flt.specError.value = s.flt.specError.value + 1))) ∧
    (∀ port line r, s.portOf line ≠ port ∨ s.writeSent line = false → exec (.memWriteResponse port line r) s = .next s) ∧
    (∀ line r e, s.memq.find? (fun e => e.line == line && e.sent) = some e →
      let left := (State.memPump { s with memq := s.memq.eraseP fun e => e.line == line && e.sent }).memq
      (∀ c, e.owner = .cmd c.id → s.cmd c.id = some c →
        (r = .okay → ∃ v, exec (.memWriteResponse (s.portOf line) line r) s = .next v ∧
          v = { s with cmds := v.cmds, memq := left, fpOut := v.fpOut, fpRun := v.fpRun } ∧
          v.cmds = (s.updCmd c.id fun y => { y with owed := dropOne line y.owed, wrote := y.wrote.eraseP fun z => z.1 == line }).cmds) ∧
        (r.bad = true → s.stopped = false → c.phase = .begun ∨ c.phase = .done → c.cause = none →
          ∃ v y, exec (.memWriteResponse (s.portOf line) line r) s = .next v ∧ v.cmd c.id = some y ∧ y.phase = .aborting ∧
            (y.cause.map (·.code)) = some 0x0201 ∧ v.mem = s.mem)) ∧
      ∀ id p, e.owner = .frame id → p = (if (s.trv.rx0.any fun x => x.id == id) = true then 0 else 1) → r = .okay →
        ∃ v, exec (.memWriteResponse (s.portOf line) line r) s = .next v ∧
          v = { s with trv := v.trv, memq := left, fpOut := v.fpOut, fpRun := v.fpRun } ∧
          v.trv = (s.setRx p ((s.trvRx p).map fun y => if y.id == id then { y with owed := dropOne line y.owed } else y)).trv) ∧
    ∀ u,
      (∀ r, s.fpOut.contains u = false → exec (.footpathResponse u r) s = .next s) ∧
      (∀ q t forced, u = .checkpoint → s.fpOut.contains u = true → s.fp.find? (fun q => q.use == u) = some q → s.flt.safe = false →
        s.alm.ckpt = some (t, forced) → s.alm.life.length = 64 →
        (s.alm.life.getD 26 0 < 2 ^ 64 - 2 → ∃ v, exec (.footpathResponse u .okay) s = .next v ∧
          v = { s with mem := v.mem, undef := v.undef, feed := v.feed, alm := v.alm, memq := v.memq, fp := v.fp, fpOut := v.fpOut, fpRun := v.fpRun } ∧
          v.alm = { s.alm with ckpt := none, ckptFailing := false, failedAt := none, ageFrom := t, completed := true
                               seq := (s.alm.seq + 1) % 2 ^ 64, life := setAt s.alm.life 26 (s.alm.life.getD 26 0 + 1) } ∧
          (∀ i, i < q.data.length → v.memByte (q.addr + i) = q.data.getD i 0) ∧
          ∀ a, a < q.addr ∨ q.addr + q.data.length ≤ a → v.memByte a = s.memByte a) ∧
        (∀ r, r.bad = true → s.takes s.engineEvq → s.alm.life.getD 27 0 < 2 ^ 64 - 2 → ∃ v e, exec (.footpathResponse u r) s = .next v ∧
          v.alm = { s.alm with ckpt := none, ckptFailing := true, failedAt := some (s.pins.now, forced)
                               life := setAt s.alm.life 27 (s.alm.life.getD 27 0 + 1) } ∧
          v.log = s.log ++ [e] ∧ e.type = 0x48 ∧ e.payload = (1 + s.alm.seq * 2 ^ 32) % 2 ^ 96 ∧
          ∀ a, a < q.addr ∨ q.addr + 4096 ≤ a → v.memByte a = s.memByte a)) ∧
      (∀ q, u = .legend → s.fpOut.contains u = true → s.fp.find? (fun q => q.use == u) = some q → q.data = [] → s.stopped = false →
        s.lgd.load = .loading → s.lgd.viaCfg = false →
        let part := s.lgd.bytes ++ s.memBytes (s.lgd.fetchAddr + s.lgd.bytes.length) 4096
        let n := if lengthOk (legendLength part) = true then legendLength part else 64
        (∀ r, r.bad = true → ∃ v, exec (.footpathResponse u r) s = .next v ∧ v.mem = s.mem ∧
          v.lgd = { s.lgd with load := .verifying, fetchBad := true }) ∧
        (n ≤ part.length → ∃ v, exec (.footpathResponse u .okay) s = .next v ∧ v.mem = s.mem ∧
          v.lgd = { s.lgd with bytes := part.take n, load := .verifying, fetchBad := decide (2 ^ 52 < s.lgd.fetchAddr + n) }) ∧
        (part.length < n → s.lgd.fetchAddr + part.length < 2 ^ 52 → ∃ v, exec (.footpathResponse u .okay) s = .next v ∧ v.mem = s.mem ∧
          v.lgd = { s.lgd with bytes := part } ∧ v.fp.getLast? = some ⟨.legend, false, s.lgd.fetchAddr + part.length, [], 4096⟩)) ∧
      ∀ q, s.fpOut.contains u = true → s.fp.find? (fun q => q.use == u) = some q → u ≠ .checkpoint →
        (q.data ≠ [] → ∃ v, exec (.footpathResponse u .okay) s = .next v ∧
          (∀ i, i < q.data.length → v.memByte (q.addr + i) = q.data.getD i 0) ∧
          ∀ a, a < q.addr ∨ q.addr + q.data.length ≤ a → v.memByte a = s.memByte a) ∧
        (∀ r, r.bad = true → ∃ v, exec (.footpathResponse u r) s = .next v ∧ v.mem = s.mem ∧ v.undef = s.undef) ∧
        (∀ x, u = .flagRead x.id → q.data = [] → s.runs x 0x21 → x.flagMet (s.memLE q.addr 8) = true →
          ∃ v, exec (.footpathResponse u .okay) s = .next v ∧ (v.cmd x.id).map (·.phase) = some .done ∧ v.mem = s.mem) ∧
        (∀ k, u = .slot k → q.data = [] → s.alive = true → (s.cmq k).state = .active → (s.cmq k).head ≠ (s.cmq k).pub →
          q.addr = (s.cmq k).slotAddr → ∃ v, exec (.footpathResponse u .okay) s = .next v ∧ v.mem = s.mem ∧ v.cmds = s.cmds ∧
            v.cmq k = { s.cmq k with slot := some (s.slotAt q.addr) } ∧ ∀ j, j ≠ k → v.cmq j = s.cmq j) ∧
        (∀ x a, u = .table x.id a ∨ u = .copyRead x.id a → q.data = [] → s.alive = true → s.cmd x.id = some x → ∃ v y, exec (.footpathResponse u .okay) s = .next v ∧
          v.mem = s.mem ∧ s.othersKept v x.id ∧ v.cmd x.id = some y ∧ y = { x with tabs := x.tabs ++ [a], streams := y.streams } ∧
          ∀ p, (s.issueTables x ++ s.beginTables x ++ s.copyTables x).find? (fun p => p.1 == a) = some p → ∀ i, i < p.2 →
            (y.streams.find? fun c => c.1 == a + i) = some (a + i, s.listSrc x (a + i))) ∧
        ∀ c m a n k, u = .look c a → q.data = [] → s.alive = true → s.feed.look = [⟨c, m, [(a, n)], [], [], k⟩] → s.demandWaits = false →
          ∃ v, exec (.footpathResponse u .okay) s = .next v ∧ v.mem = s.mem ∧ v.cmds = s.cmds ∧
            ∀ j ls, j < n → s.lookEntry c (s.memLE (a + 16 * j) 16) = some ls → ∀ l ∈ ls,
              (s.aline l).isSome = true ∨ v.filling l = true ∨ ∃ y ∈ v.feed.look, l ∈ y.lines ∨ s.memLE (a + 16 * j) 16 ∈ y.entries

/-- INVALIDATION and INV_FILTER_FREE (R2, R232, R233, R235, R398, R399): the bytes another agent writes, and no others, are in memory when
its range is handed over; a range that overlaps the address map enters the first free slot of the filter, and fills in flight that
meet it are overtaken; INV is not ready while all slots are in use. In standalone mode, while SAFE_STATE is 1, for a range outside the
map, and for a write whose invalidation does not follow, memory alone changes: the caches go on with their copies. That the row carries
the bytes written is the model's choice (log 11). Freeing a slot drops the lines of its range from the Atlas and from every channel
cache, and no others, at that moment by the model's choice (log 57). -/
def Obligations.InvalidationsDropLines : Prop :=
  ∀ s : State, s.tablesOk = true →
    (∀ (addr : Addr) (size : BitVec 4) (w : AgentWrite),
      let n := 64 * 2 ^ size.toNat
      let base := addr.toNat / n * n
      let written := fun (v : State) => (∀ k, k < n → k < w.bytes.length → v.memByte (base + k) = w.bytes.getD k 0) ∧
        ∀ a, a < base ∨ base + n ≤ a ∨ base + w.bytes.length ≤ a → v.memByte a = s.memByte a
      let taken := w.handed = true ∧ s.lgd.standalone = false ∧ s.flt.safe = false ∧ s.meetsMap base n = true
      (¬taken → ∃ v, exec (.invalidation addr size w) s = .next v ∧ v = { s with mem := v.mem, undef := v.undef } ∧ written v) ∧
      (∀ i, taken → s.feed.inv.findIdx? (·.isNone) = some i → ∃ v, exec (.invalidation addr size w) s = .next v ∧
        v = { s with mem := v.mem, undef := v.undef, feed := v.feed } ∧ written v ∧ v.feed = { s.feed with
          inv := setAt s.feed.inv i (some ⟨base, n⟩)
          fills := s.feed.fills.map fun f => if InvRange.meets ⟨base, n⟩ f.line = true then { f with stale := true } else f }) ∧
      (taken → s.feed.inv.findIdx? (·.isNone) = none → exec (.invalidation addr size w) s = .next s)) ∧
    (∀ k r, s.feed.inv.getD k none = some r → ∃ v, exec (.invFilterFree k) s = .next v ∧
      v = { s with feed := v.feed, stl := v.stl, evqs := v.evqs, log := v.log, fp := v.fp, fpOut := v.fpOut, fpRun := v.fpRun } ∧
      (s.feed.look = [] → v = { s with feed := v.feed }) ∧
      v.feed.inv = setAt s.feed.inv k none ∧ (∀ l, v.aline l = if r.meets l = true then none else s.aline l) ∧
      v.feed.cch = s.feed.cch.map fun c => c.filter fun l => !r.meets l) ∧
    ∀ k, s.feed.inv.getD k none = none → exec (.invFilterFree k) s = .next s

/-! ## The Traverse -/

/-- TRAVERSE_PUSH and TRAVERSE_COMMIT (R153, R154, R156 to R162, R170): a well-formed frame of an active context with a whole Traverse
takes the next place of its stack's range and writes only the record it reserves there: its header, the bookkeeping bytes after it,
which are the engine's own, and of a DATA frame its elements and scales, as they come or as its conversion makes them; it commits, as
the top entry and counted as a push unless it is a mark, once its responses have returned; of two frames that commit in one cycle, TRV0's goes below TRV1's, one cycle
being, by the model's choice, one control time (log 165). A frame holds its bytes of the staging until it commits, by the model's choice
(log 63). Every beat is a full one of 128 B. A frame that is not well formed, finds no room or has not the beats its header implies
breaks its context's Traverse; one of no context is counted and reported on the engine queue. -/
def Obligations.TraverseFramesEnterTheStack : Prop :=
  ∀ (s : State) (port : Nat), s.tablesOk = true → s.alive = true →
    (∀ bytes : List Byte, bytes = [] ∨ bytes.length % 128 ≠ 0 ∨ s.trvStagingFree port = 0 ∨ s.build.size.trvPorts ≤ port →
      exec (.traversePush port bytes) s = .next s) ∧
    (∀ bytes : List Byte, port < s.build.size.trvPorts → s.trvStagingFree port ≠ 0 → bytes ≠ [] → bytes.length % 128 = 0 →
      let h := TrvHead.of bytes
      let e := s.ctx h.ctx
      (∀ p, s.ctxExists h.ctx = true → e.trvSize1 ≠ 0 → e.state = .active → e.broken = false → h.ok = true →
        s.trvPlace h.ctx h.recordSize = some p → bytes.length / 128 = h.beats →
        ∃ v r, exec (.traversePush port bytes) s = .next v ∧
          v = { s with mem := v.mem, undef := v.undef, free := v.free, memq := v.memq, feed := v.feed, trv := v.trv } ∧
          v.trvRx port = s.trvRx port ++ [r] ∧ r.id = s.trv.nextId ∧ r.ctx = h.ctx ∧ r.tag = h.tag ∧ r.mark = (h.kind == 2) ∧
          r.addr = p.2 ∧ r.tier2 = p.1 ∧ r.size = h.recordSize ∧ r.staged = bytes.length ∧
          (∀ a, a < p.2 ∨ p.2 + h.recordSize ≤ a → v.memByte a = s.memByte a) ∧ (∀ i, i < 128 → v.memByte (p.2 + i) = bytes.getD i 0) ∧
          (h.kind = 1 →
            let d := h.tensor p.2
            let body := bytes.drop 128
            let u := s.undefine (p.2 + 128) 128
            v.mem = (u.bulkWrite ((List.range 128).map (fun i => (p.2 + i, bytes.getD i 0)) ++ u.packBits (s.framePayload h p.2 body))).mem ∧
            (h.converted = false → (∀ i, i < h.elemBytes → v.memByte (p.2 + 256 + i) = body.getD i 0) ∧
              ∀ i, i < h.scaleBytes → v.memByte (d.sptr + i) = body.getD (cdiv h.elemBytes 128 * 128 + i) 0) ∧
            (h.converted = true →
              let code := fun (r c : Nat) => bits (leNat body) ((r * h.cols + c) * (Fmt.ofCode h.sfmt).storeBits) (Fmt.ofCode h.sfmt).storeBits
              s.framePayload h p.2 body = (s.convertAll d false ⟨s.frameKey h, 0, 0, s.free⟩ ((List.range h.rows).flatMap fun r =>
                (List.range h.cols).map fun c => (r, c, (Fmt.ofCode h.sfmt).decode
                  (if Fmt.ofCode h.sfmt = .fp19 then code r c / 8192 else code r c)))).fields))) ∧
      (s.ctxExists h.ctx = true → e.trvSize1 ≠ 0 → e.state = .active → e.broken = false →
        h.ok = false ∨ s.trvPlace h.ctx h.recordSize = none ∨ bytes.length / 128 ≠ h.beats →
        ∃ v, exec (.traversePush port bytes) s = .next v ∧ (v.ctx h.ctx).broken = true ∧ (∀ c, c ≠ h.ctx → v.ctx c = s.ctx c) ∧
          v = { s with ctxs := v.ctxs, trv := v.trv, evqs := v.evqs, log := v.log, fp := v.fp, fpOut := v.fpOut, fpRun := v.fpRun }) ∧
      (s.ctxExists h.ctx = false → s.trv.drops.value + 1 < 2 ^ 48 → s.takes s.engineEvq →
        ∃ v r, exec (.traversePush port bytes) s = .next v ∧ v.trv.drops.value = s.trv.drops.value + 1 ∧
          v = { s with trv := v.trv, evqs := v.evqs, log := s.log ++ [r], fp := v.fp, fpOut := v.fpOut, fpRun := v.fpRun } ∧ r.type = 2 ∧
          r.evq = s.engineEvq ∧ r.payload % 2 ^ 16 = 0x0401)) ∧
    ∀ r, (s.trvRx port).find? (fun x => x.owed.isEmpty) = some r → s.trv.pushes.value + 1 < 2 ^ 48 →
      ∃ v below above, exec (.traverseCommit port) s = .next v ∧ v = { s with trv := v.trv, rts := v.rts } ∧
        v.trvRx port = (s.trvRx port).filter (fun x => x.id != r.id) ∧
        (s.rt r.ctx).stack = below ++ above ∧
        (v.rt r.ctx).stack = below ++ [TrvEntry.mk r.id r.mark r.tag r.rows r.cols r.fmt r.scaleMode r.scaleFmt r.addr r.size r.tier2 false
          (if port = 0 then none else some s.pins.now)] ++ above ∧
        (port ≠ 0 → above = []) ∧ (∀ x, above.head? = some x → x.trv1 = some s.pins.now) ∧
        (port = 0 → ∀ x ∈ below, x.trv1 ≠ some s.pins.now) ∧
        (∀ c, c ≠ r.ctx → v.rt c = s.rt c) ∧ v.trv.pushes.value = s.trv.pushes.value + (if r.mark = true then 0 else 1)

/-! ## The Mosaic -/

/-- REDUCE, GATHER and VECTOR_FRAME (R245, R252, R253, R263, R266), with no frame waiting in a receive buffer: a frame whose header fails a
check is dropped and counted by its reason, and touches nothing else; a REDUCE segment is recorded for its step, and only a
whole row acts: the owner of its shard writes each element, added to its own and rounded once to FP32 with SR16 and DST's OVF, or its
long sum, at the element's place in DST; the bytes of a GATHER piece are written to the bytes of the weight and its twin it names; the
total of a vector is written to DST and ends its command, on the last rank as it forms it. No other byte changes. -/
def Obligations.MosaicFramesAreTaken : Prop :=
  ∀ (s : State) (lane : Nat) (l : List Byte), s.tablesOk = true → s.sizesOk → s.laneOpen lane = true → s.mos.hold = [] →
    let h := MosHead.of l
    (∀ i kind r, (i, kind) ∈ [(Instr.reduce lane l, 1), (.gather lane l, 2), (.vectorFrame lane l, 3)] → h.kind = kind ∨ h.kindOk = false →
      s.mosCheck l = some r → ∃ v, exec i s = .next v ∧
        v = { s with mos := v.mos, evqs := v.evqs, log := v.log, fp := v.fp, fpOut := v.fpOut, fpRun := v.fpRun } ∧
        v.mos.out = s.mos.out ∧
        ((s.err (.mosDrop r)).value < 4294967295 → (v.err (.mosDrop r)).value = (s.err (.mosDrop r)).value + 1)) ∧
    ∀ c, s.mosCheck l = none → s.ctxOfMsid h.msid = some c →
      let x := (s.rt c).stream
      let frame := fun (v : State) => v = { s with
          cmds := v.cmds, rts := v.rts, mos := v.mos, mem := v.mem, undef := v.undef, memq := v.memq, feed := v.feed, stl := v.stl
          evqs := v.evqs, log := v.log, fp := v.fp, fpOut := v.fpOut, fpRun := v.fpRun } ∧ s.readQuiet v ∧ v.mos.drops = s.mos.drops
      let payload := (l.drop 64).take h.length
      (∀ t m, h.kind = 1 → x.step h.step = some t → s.cmd t.cmd = some m → t.gen = false → h.gen = false → h.shard < s.ranks →
        h.shard ≠ (s.rank + s.ranks - 1) % s.ranks → (shardRows h.shard s.ranks t.rows).1 ≤ h.row → h.row < (shardRows h.shard s.ranks t.rows).2 →
        h.col + h.count ≤ t.cols → h.long = t.long → h.count ≠ 0 → ((List.range h.count).all fun i => t.has h.shard h.row (h.col + i)) = false →
        let here := fun (g : MosFrame) => (MosHead.of g.bytes).shard == h.shard && (MosHead.of g.bytes).row == h.row
        let t1 : StepRec := { t with got := t.got ++ [(h.shard, h.row, h.col, h.count)], parts := t.parts ++ [⟨lane, l⟩] }
        let own := (s.updStep c h.step fun _ => { t1 with parts := t1.parts.filter fun g => !here g }).readOwn m t1 [h.row]
        let d := own.opd m 0 3
        let place := fun (w k : Nat) => d.bitAt w (h.row - (shardRows s.rank s.ranks t.rows).1) k
        let got := fun (k : Nat) => match (t1.parts.filter here).find? fun g =>
            decide ((MosHead.of g.bytes).col ≤ k) && decide (k < (MosHead.of g.bytes).col + (MosHead.of g.bytes).count) with
          | some g =>
            let e := (MosHead.of g.bytes).elems g.payload
            let j := k - (MosHead.of g.bytes).col
            (e.1.getD j XVal.zero, e.2.getD j 0)
          | none => (XVal.zero, 0)
        let fs := (List.range t.cols).map fun k =>
          if t.long = true then (place 128 k, 128, unsigned 128 (longAdd (got k).2 (own.ownLong m h.row k)))
          else (place 32 k, 32, (Fmt.fp32.convFloat .sr16 d.ovf (draw m.key h.row k kgFinal 5 0) ((got k).1.add (own.ownElem m t1 h.row k))).code)
        ∃ v y u, exec (.reduce lane l) s = .next v ∧ frame v ∧ v.cmd t.cmd = some y ∧ u ∈ (v.rt c).stream.steps ∧ u.idx = h.step ∧
          u.cmd = t.cmd ∧ u.got = t1.got ∧ (t1.rowDone h.shard h.row = false → v.mem = s.mem ∧ v.mos = s.mos) ∧
          (h.shard ≠ s.rank → v.mem = s.mem) ∧ (t1.rowDone h.shard h.row = true → h.shard = s.rank →
            v.mem = (own.putFields m.id fs).mem ∧ ∀ a, outside fs a → v.memByte a = s.memByte a)) ∧
      (∀ g m, h.kind = 2 → x.gathers.find? (fun g => g.idx == h.step) = some g → s.cmd g.cmd = some m → h.shard < s.ranks → h.shard ≠ s.rank →
        let w0 := s.opd m 0 3
        let w := w0.copyAt g.sel
        let off := h.row + h.col * 4294967296
        let g1 : GatherRec := { g with got := g.got ++ [(h.shard, h.part, off, h.count)] }
        off + h.count ≤ (if h.part = 0 then (w0.shardBytes h.shard s.ranks).1 else (w0.shardBytes h.shard s.ranks).2) → h.count ≠ 0 →
        ((List.range h.count).all fun i => g.has h.shard h.part (off + i)) = false → (s.gatherMissing w0 g1).isSome = true →
        let names := fun (i a : Nat) => a = w.shardAt h.shard s.ranks h.part (off + i) ∨
          (m.has 0 4 = true ∧ a = w.twinShardAt ((s.opd m 0 4).copyAt g.sel) h.shard s.ranks h.part (off + i))
        ∃ v, exec (.gather lane l) s = .next v ∧ frame v ∧ g1 ∈ (v.rt c).stream.gathers ∧
          (∀ a b, (∃ i, i < h.count ∧ names i a) → (∀ i, i < h.count → names i a → payload.getD i 0 = b) → v.memByte a = b) ∧
          ∀ a, (∀ i, i < h.count → ¬names i a) → v.memByte a = s.memByte a) ∧
      ∀ k m, h.kind = 3 → h.part = 0 → h.gen = false → x.vec = some k → s.cmd k.cmd = some m → m.ctx = c → m.phase = .begun → h.row = 0 →
        h.col = 0 → h.count = (s.opd m 0 0).cells.length →
        let xs := fpRow ((List.range h.count).map fun i => leNat ((payload.drop (4 * i)).take 4))
        let u := s.readBytes (s.opd m 0 0).reads
        let sum := (List.zip xs (u.vecSrc m)).map fun x => fadd x.1 x.2
        let d := s.opd m 0 3
        let fields := fun (v : List XVal) => (List.range d.cells.length).map fun i =>
          (d.bitAt 32 (d.cells.getD i (0, 0)).1 (d.cells.getD i (0, 0)).2, 32, fp32Code (v.getD i XVal.zero))
        let total := fun (w : State) (v : List XVal) => ∃ t y, exec (.vectorFrame lane l) s = .next t ∧ frame t ∧ t.cmd k.cmd = some y ∧
          y.phase = .done ∧ (t.rt c).stream.vec = none ∧ t.mem = (w.putFields m.id (fields v)).mem ∧
          ∀ a, outside (fields v) a → t.memByte a = s.memByte a
        (bits h.flags 0 1 = 1 → total s xs) ∧
        (bits h.flags 0 1 = 0 → k.sent = false → s.rank ≠ 0 → s.rank + 1 = s.ranks → total u sum) ∧
        (bits h.flags 0 1 = 0 → k.sent = false → s.rank ≠ 0 → s.rank + 1 ≠ s.ranks → ∃ v, exec (.vectorFrame lane l) s = .next v ∧ frame v ∧
          v.mem = s.mem ∧ v.cmds = s.cmds ∧ (v.rt c).stream.vec = some { k with sent := true })

/-- RANK_READY, CLOSE, DECIDE, MOSAIC_DEADLINE, MOS_GRACE and MOS_DECIDE_WAIT (R255 to R261, R268, R282, R283): a rank with every step done is CLOSING; the chair
seals a ring of one, starts CLOSE, and decides by the CLOSE that comes back, or voids the round at its deadline or after its
grace; another rank forwards CLOSE once, with OK = 0 where its deadline came first, and applies DECIDE, or after its wait voids
the round, unless it had forwarded OK = 1: then it is UNDECIDED. A seal advances the round, opens it, ends the run of voids and commits
each completed update by one write of its record: its selectors, pending bits, step count, decay products and round. A void holds the
round, counts itself, which under AUTO gives the second in a row GS_ROUNDS (and one that the count reached under OFF too, by the model's
choice, log 205), flushes the context's commands, leaves its regions FRESH, discards the round's updates and pauses its queues. No other
context's entry changes. -/
def Obligations.RoundsAreDecided : Prop :=
  ∀ (s : State) (c : Nat), s.tablesOk = true → s.inRounds c = true →
    let x := (s.rt c).stream
    let others := fun (v : State) => ∀ k, k ≠ c → v.ctx k = s.ctx k
    let due := fun (u : UpdRec) => u.complete && !u.committed && u.round != (s.ctx c).round + 1#64
    let open_ := fun (u : UpdRec) => !u.committed && u.round == (s.ctx c).round
    let sealed := fun (v : State) => others v ∧ (v.ctx c).round = (s.ctx c).round + 1#64 ∧ (v.ctx c).roundState = .idle ∧ (v.ctx c).voidRun = 0 ∧
      (v.rt c).stream.updates = x.updates.map (fun u => if due u = true then { u with committed := true } else u) ∧
      ∀ u, x.updates.filter due = [u] → x.gathers = [] → (x.steps.all fun t => !t.gen && !t.addRes) = true →
        let a := u.state
        v.memLE (a + 16) 4 = putBits (putBits (flipBit (flipBit (s.memLE (a + 16) 4) 0) 1) 3 1 0) 4 1 1 ∧ v.memLE (a + 24) 8 = u.round.toNat ∧
        (u.skipped = false → v.memLE a 8 = (s.memLE a 8 + 1) % 2 ^ 64 ∧ v.memLE (a + 8) 4 = u.p1 % 2 ^ 32 ∧ v.memLE (a + 12) 4 = u.p2 % 2 ^ 32) ∧
        (u.skipped = true → v.memBytes a 16 = s.memBytes a 16) ∧ ∀ b, b < a ∨ a + 32 ≤ b → v.memByte b = s.memByte b
    let voided := fun (v : State) => others v ∧ (v.ctx c).round = (s.ctx c).round ∧ (v.ctx c).roundState = .voidHold ∧
      (let n := min 3 ((s.ctx c).voidRun + 1)
        if bits s.mode.set 6 1 = 1 ∧ 2 ≤ n then (v.ctx c).voidRun = 0 ∧ ∀ g, s.lgd.inForce = some g → (v.ctx c).gsLeft = g.gsRounds
        else (v.ctx c).voidRun = n ∧ (v.ctx c).gsLeft = (s.ctx c).gsLeft) ∧
      (∀ y, s.cmd y.id = some y → y.ctx = c → y.phase ≠ .aborting → y.cause = none → (y.waiting = true → v.cmd y.id = none) ∧
        (y.waiting = false → ∃ z, v.cmd y.id = some z ∧ z.phase = .aborting ∧ (z.cause.map (·.code)) = some 0x0501)) ∧
      (∀ q, (s.cmq q).ctx = c → (s.cmq q).state = .active → (v.cmq q).state = .paused) ∧
      (v.rt c).stream.updates = x.updates.filter (fun u => !open_ u) ∧
      ((x.updates.any open_) = false → ∀ k, k < (s.ctx c).regionCount → (v.region c k).rstate = 0)
    (s.roundReady c = true → ∃ v, exec (.rankReady c) s = .next v ∧
      (s.rank = 0 → s.ranks = 1 → sealed v) ∧
      (s.rank ≠ 0 ∨ s.ranks ≠ 1 → others v ∧ (v.ctx c).roundState = .closing ∧ (v.rt c).stream.ready = true ∧ v.mem = s.mem) ∧
      ((s.rank = 0 ∧ s.ranks ≠ 1) ∨ (s.rank ≠ 0 ∧ x.closeIn = some true) → x.closeOut = none → (v.rt c).stream.closeOut = some true) ∧
      (s.rank ≠ 0 → x.closeIn ≠ some true → v.mos = s.mos)) ∧
    (∀ lane l, s.laneOpen lane = true → s.mosCheck l = none → s.ctxOfMsid (MosHead.of l).msid = some c → s.tokenLive c (MosHead.of l) = true →
      (MosHead.of l).gen = false → (MosHead.of l).step < (s.ctx c).roundSteps →
      let ok := bits (MosHead.of l).flags 0 1 == 1
      ((MosHead.of l).kind = 0x10 → x.closeIn = none → ∃ v, exec (.close lane l) s = .next v ∧
        (s.rank = 0 → (ok = true → sealed v) ∧ (ok = false → voided v)) ∧
        (s.rank ≠ 0 → v.ctxs = s.ctxs ∧ v.mem = s.mem ∧ (v.rt c).stream.closeIn = some ok ∧
          (x.closeOut = none → ok = true → x.ready = true → (v.rt c).stream.closeOut = some true) ∧
          (x.closeOut = none → ok = false ∨ (x.ready = false ∧ x.deadline = true) → (v.rt c).stream.closeOut = some false) ∧
          (ok = true → x.ready = false → x.deadline = false → v.mos = s.mos))) ∧
      ((MosHead.of l).kind = 0x11 → s.rank ≠ 0 → x.decideOut ≠ some (s.ctx c).round → ∃ v, exec (.decide lane l) s = .next v ∧
        (ok = true → sealed v) ∧ (ok = false → voided v) ∧ (v.rt c).stream.decideOut = some (s.ctx c).round)) ∧
    (s.dat.tracker = .track → s.dat.firedMos.contains c = false → s.deadlineDue c = true →
      s.nextEvent (.mosaic c) = true → ∃ v, exec (.mosaicDeadline c) s = .next v ∧
      (x.ready = true ∨ s.rank ≠ 0 → v.ctxs = s.ctxs ∧ v.mem = s.mem ∧ (v.rt c).stream.deadline = true) ∧ (x.ready = true → v.mos = s.mos) ∧
      (x.ready = false → s.rank = 0 → voided v) ∧
      (x.ready = false → s.rank ≠ 0 → x.closeOut = none → (v.rt c).stream.closeOut = some false)) ∧
    (s.rank = 0 → x.deadline = true → s.roundOpen c = true → x.closeIn = none → x.deadlineAt + x.grace * 1000 ≤ s.pins.now →
      ∃ v, exec (.mosGrace c) s = .next v ∧ voided v) ∧
    (s.pins.now < x.deadlineAt + x.grace * 1000 → exec (.mosGrace c) s = .next s ∧ exec (.mosDecideWait c) s = .next s) ∧
    (s.rank ≠ 0 → x.deadline = true → s.roundOpen c = true → x.deadlineAt + (x.grace + x.decideWait) * 1000 ≤ s.pins.now → ∃ v, exec (.mosDecideWait c) s = .next v ∧
      (x.closeOut ≠ some true → voided v) ∧
      (x.closeOut = some true → others v ∧ (v.ctx c).roundState = .undecided ∧ (v.ctx c).round = (s.ctx c).round ∧ v.mem = s.mem))

/-- RESUME, SEAL and VOID of MOS_ROUND_CTL (R260, R262, R420): RESUME opens a voided round again, lets the paused queues of the context go on and holds its
commands until the next pulse; SEAL and VOID decide an UNDECIDED round, but where a DECIDE for it waits in the same cycle, which is, by
the model's choice, one that waits behind the write in the queue (log 165); in any other state of the round, and by the model's choice
before a seal, out of service and of a context that does not exist (log 169), each is refused, which changes RESULT only. A RESUME
forgets, by the model's choice, a DECIDE that was forwarded (log 72). -/
def Obligations.RoundControl : Prop :=
  ∀ (s : State) (c : Nat), s.tablesOk = true → s.cfgOpen = true →
    let st := (s.ctx c).roundState
    let there := s.lgd.standalone = false ∧ s.flt.out = false ∧ s.ctxExists c = true
    let decides := there ∧ st = .undecided ∧ s.decidePending c = false
    let refused := State.okay { s with mos := { s.mos with result := 2 } }
    (there → st = .voidHold → ∃ v, exec (.mosResume c) s = .next v ∧
      v = State.okay { s with ctxs := v.ctxs, rts := v.rts, cmqs := v.cmqs, mos := { s.mos with result := 1 } } ∧
      v.ctx c = { s.ctx c with roundState := .idle } ∧ (v.rt c).waitPulse = true ∧ (v.rt c).stream.decideOut = none ∧
      (∀ k, k ≠ c → v.ctx k = s.ctx k ∧ v.rt k = s.rt k) ∧ ∀ q, (s.cmq q).ctx = c → (s.cmq q).state = .paused → (v.cmq q).state = .active) ∧
    (decides → ∃ v, exec (.mosSeal c) s = .next v ∧ v.mos.result = 1 ∧ (v.ctx c).round = (s.ctx c).round + 1#64 ∧
      (v.ctx c).roundState = .idle ∧ (∀ k, k ≠ c → v.ctx k = s.ctx k) ∧
      ∀ q, (s.cmq q).ctx = c → (s.cmq q).state = .paused → (v.cmq q).state = .active) ∧
    (decides → ∃ v, exec (.mosVoid c) s = .next v ∧ v.mos.result = 1 ∧ (v.ctx c).round = (s.ctx c).round ∧
      (v.ctx c).roundState = .voidHold ∧ (∀ k, k ≠ c → v.ctx k = s.ctx k)) ∧
    (¬there ∨ st ≠ .voidHold → exec (.mosResume c) s = .next refused) ∧
    (¬decides → exec (.mosSeal c) s = .next refused ∧ exec (.mosVoid c) s = .next refused)

/-! ## Safety -/

/-- SEQUENCER_MISMATCH, CLOCK_MONITOR, SUPPLY, DROOP, DROOP_CLEAR and SCRUB (R85, R240, R301, R335, R336, R343, R348, R360, R424): a channel's
sequencer isolates the channel, any other, one of the supplies VDD_CORE, VDD_SRAM and VDD_AON outside its monitor range and an error
in control state take the engine out of service with ALERT_N and the cause latched, while VDD_AON_B decides BACKUP_OK alone, which for
the row SUPPLY is the model's choice (log 173), as it is that VDD_CORE stays out of range until PORESET_N is released (log 88); a tile clock out of limits aborts its command and queues the tile; a droop lowers the tile's
clock, never below 2.6 GHz, until it clears, where the mode set the tile works under lets it, and a further report meanwhile changes nothing,
by the model's choice (log 148); a corrected error counts itself, an error
in a cache line drops the line, and one that a command has consumed aborts the command too. None changes host memory. -/
def Obligations.DetectionsAct : Prop :=
  ∀ s : State, s.sizesOk →
    let left := fun (v : State) (code detail : Nat) => v.flt.out = true ∧ v.flt.alert = true ∧ v.flt.cause = code ∧ v.flt.detail = detail ∧
      v.alm.ckptOn = false ∧ v.mem = s.mem ∧ v.cmds = s.cmds
    (∀ ch k, s.alive = true → s.chOn ch = true → k < 4 → k ≠ ch → s.chOn k = true → ∃ v, exec (.sequencerMismatch (.channel ch)) s = .next v ∧
      v.flt.isoBusy.testBit ch = true ∧ v.mem = s.mem) ∧
    (∀ u n, (u, n) ∈ [(SeqUnit.command, 4), (.context, 5), (.traverse, 6), (.mosaic, 7), (.safety, 8)] → s.alive = true →
      ∃ v, exec (.sequencerMismatch u) s = .next v ∧ left v 0x0602 n) ∧
    (∀ t mhz x, s.alive = true → s.tileOn t = true → s.opOfTile t = some x.id → s.cmd x.id = some x → x.phase = .begun → x.cause = none →
      ∃ v y, exec (.clockMonitor t mhz) s = .next v ∧ v.cmd x.id = some y ∧ y.phase = .aborting ∧ (y.cause.map (·.code)) = some 0x0603 ∧
        (v.tile t).queued = true ∧ v.mem = s.mem) ∧
    (∀ t mhz, s.alive = true → s.tileOn t = true → s.opOfTile t = none → ∃ v, exec (.clockMonitor t mhz) s = .next v ∧
      v = { s with tiles := updAt s.tiles t (fun u => { u with queued := true }), evqs := v.evqs, log := v.log, fp := v.fp, fpOut := v.fpOut
                   fpRun := v.fpRun }) ∧
    (∀ rail mv, rail % 4 ≠ 3 → s.pins.poreset = true ∨ railOk (rail % 4) mv = true → exec (.supply rail mv) s = .next s) ∧
    (∀ rail mv, rail % 4 = 3 → (700 ≤ mv → exec (.supply rail mv) s = .next { s with alm := { s.alm with backupOk := true } }) ∧
      (mv < 700 → ∃ v, exec (.supply rail mv) s = .next v ∧ v.alm.backupOk = false ∧ v.flt.out = s.flt.out ∧ v.mem = s.mem)) ∧
    (∀ rail mv, rail % 4 ≠ 3 → s.pins.poreset = false → s.flt.out = false →
      (rail % 4 = 0 ∧ (mv < 650 ∨ 850 < mv)) ∨ (rail % 4 = 1 ∧ (mv < 710 ∨ 790 < mv)) ∨ (rail % 4 = 2 ∧ mv < 700) → ∃ v, exec (.supply rail mv) s = .next v ∧
      left v 0x0608 (rail % 4 + mv % 65536 * 65536) ∧ v.pins = { s.pins with coreOut := s.pins.coreOut || rail % 4 == 0 }) ∧
    (∀ t mhz, s.alive = true → s.tileOn t = true →
      (bits (s.tileMode t) 5 1 = 0 → (s.tiles.getD t Tile.init).drooping = false → s.pwrDroops.value + 1 < 2 ^ 48 → exec (.droop t mhz) s = .next { s with
        tiles := updAt s.tiles t fun u => { u with drooping := true, freq := max 2600 mhz }
        pwrDroops := { s.pwrDroops with value := s.pwrDroops.value + 1, recent := (s.pins.now, recentOf s.pwrDroops.recent s.pins.now + 1) } }) ∧
      (bits (s.tileMode t) 5 1 ≠ 0 ∨ (s.tiles.getD t Tile.init).drooping = true → exec (.droop t mhz) s = .next s) ∧
      ((s.tiles.getD t Tile.init).drooping = true → exec (.droopClear t) s = .next { s with
        tiles := updAt s.tiles t fun u => { u with drooping := false } })) ∧
    (s.pins.poreset = false → s.flt.out = false →
      (∀ k, k < 9 → s.alm.life.getD (16 + k) 0 < 2 ^ 64 - 2 → exec (.scrub (.corrected k)) s = .next { s with
        alm := { s.alm with life := setAt s.alm.life (16 + k) (s.alm.life.getD (16 + k) 0 + 1) } }) ∧
      (∀ k w l, s.alm.life.getD 25 0 < 2 ^ 64 - 2 → ∃ v, exec (.scrub (.cacheLine k w l)) s = .next v ∧
        v = { s with feed := s.feed.dropLine l, alm := { s.alm with life := setAt s.alm.life 25 (s.alm.life.getD 25 0 + 1) },
                     evqs := v.evqs, log := v.log, fp := v.fp, fpOut := v.fpOut, fpRun := v.fpRun }) ∧
      (∀ k w l x, s.alive = true → s.cmd x.id = some x → x.phase = .begun → x.cause = none → ∃ v y, exec (.scrub (.consumed k w l x.id)) s = .next v ∧
        v.cmd x.id = some y ∧ y.phase = .aborting ∧ (y.cause.map (·.code)) = some 0x0605 ∧ (∀ c ∈ v.feed.cch, l ∉ c) ∧
        (Tab.wf none s.feed.atlas = true → v.aline l = none) ∧ v.mem = s.mem) ∧
      ∀ k w, k < 256 → w < 2 ^ 56 → ∃ v, exec (.scrub (.control k w)) s = .next v ∧ left v 0x0607 (k + w * 256))

/-- SAFE_STATE, SAFE_STATE_TIMEOUT, COMPUTE_RESET, COMPUTE_RESET_DONE, ISOLATE, ISOLATION_DONE and RESET_HANG (R343 to R350, R386, R401): SAFE_STATE is
asserted once no request is outstanding, or at its bound with the ports that have one, where a Mosaic lane that has sent a frame counts or
not, as its neighbour may hold it back: a free value, by the model's choice (log 172); a compute reset aborts what runs on the
array, the Spur and the drains and frees every sheet, thread and channel cache, and its end applies a pending Legend; an
isolation keeps its channel BUSY until its clamps are confirmed, which takes the channel out of service; a reset that hangs
goes one step up its ladder. Host memory keeps its contents. -/
def Obligations.ResetsAndIsolation : Prop :=
  ∀ s : State,
    (s.flt.out = true ∨ s.pins.sysreset = true → s.flt.safe = false →
      (s.openPorts = 0 → exec .safeState s = .next { s with
        flt := { s.flt with safe := true, portsOpen := 0 }, pins := { s.pins with safeAt := some s.pins.now } }) ∧
      ((s.flt.out = true → s.pins.now < s.flt.outAt + 2000000) → (s.pins.sysreset = true → s.pins.now < s.pins.sysAt + 2000000) →
        exec .safeStateTimeout s = .next s) ∧
      ((s.flt.out = true ∧ s.flt.outAt + 2000000 ≤ s.pins.now) ∨ (s.pins.sysreset = true ∧ s.pins.sysAt + 2000000 ≤ s.pins.now) →
        exec .safeStateTimeout s = .next { s with
          flt := { s.flt with safe := true, portsOpen := s.forcedPorts }, pins := { s.pins with safeAt := some s.pins.now }
          free := s.free + 1 })) ∧
    (s.cfgOpen = true → s.flt.out = false →
      (∀ v : W64, s.flt.busy = false → bits v.toNat 4 4 = 0 → ∃ t, exec (.computeReset v) s = .next t ∧ t.flt.busy = true ∧
        t.flt.resetting = s.chMask ∧ t.mem = s.mem ∧ t.ctxs = s.ctxs ∧ (∀ k h, h ∈ (t.tile k).sheets → h = Sheet.init) ∧
        (∀ ch i, t.thread ch i = Thread.init) ∧ (∀ ch, t.feed.cch.getD ch [] = []) ∧
        ∀ x : Cmd, x ∈ s.cmds → s.cmd x.id = some x → s.onCompute x = true → x.cause = none → ∃ y, t.cmd x.id = some y ∧ y.phase = .aborting ∧
          (y.cause.map (·.code)) = some 0x0703) ∧
      (s.flt.busy = true →
        let u := { s with flt := { s.flt with busy := false, resetting := 0 }, rts := s.rts.map fun e => (e.1, e.2.ack) }
        (s.lgd.staged = none → exec .computeResetDone s = .next u) ∧
        ∀ g, s.lgd.staged = some g → s.lgd.load = .verified → s.lgd.standalone = false → u.consistent g = true → g.channels &&& s.chansOut = 0 → u.runningOk g = true →
          ∃ t, exec .computeResetDone s = .next t ∧ t.flt.busy = false ∧ t.lgd.inForce = some g ∧ t.lgd.staged = none ∧ t.mem = s.mem ∧ t.cmds = s.cmds) ∧
      (∀ (v : W64) (ch k : Nat), ch < 4 → k < 4 → k ≠ ch → s.chOn ch = true → s.chOn k = true → bits v.toNat 0 1 = 0 → bits v.toNat 4 4 = 2 ^ ch →
        ∃ t, exec (.isolate v) s = .next t ∧ t.flt.isoBusy.testBit ch = true ∧ t.flt.busy = s.flt.busy ∧ t.mem = s.mem ∧ t.ctxs = s.ctxs) ∧
      (∀ ch, bits s.flt.isoBusy ch 1 = 1 → ∃ t, exec (.isolationDone ch) s = .next t ∧
        t = { s with flt := t.flt, cmds := t.cmds, memq := t.memq, feed := t.feed, tiles := t.tiles } ∧ t.flt.isolated.testBit ch = true ∧
        t.flt.isoBusy.testBit ch = false ∧ t.flt.degraded = true ∧ ∀ i, t.thread ch i = Thread.init) ∧
      (∀ ctx m n r, (s.rt ctx).resetting = some r → r.since + 5000000 ≤ s.pins.now → 4 ≤ n → ∃ t, exec (.resetHang (.context ctx m n)) s = .next t ∧ t.flt.out = true ∧
        t.flt.cause = 0x0705 ∧ t.mem = s.mem) ∧
      (∀ m ch k, s.flt.busy = true → s.flt.busyAt + 8000000 ≤ s.pins.now → (maskBits m 4).filter s.chOn = [ch] → k < 4 → k ≠ ch → s.chOn k = true →
        ∃ t, exec (.resetHang (.compute m)) s = .next t ∧ t.flt.isoBusy.testBit ch = true ∧ t.mem = s.mem) ∧
      ∀ m ch since, (ch, since) ∈ s.flt.isoAt → since + 1000000 ≤ s.pins.now → ch < 4 → s.flt.isoBusy.testBit ch = true → m.testBit ch = true → ∃ t, exec (.resetHang (.isolation m)) s = .next t ∧ t.flt.out = true ∧ t.flt.cause = 0x0705 ∧ t.mem = s.mem)

/-! ## Memory -/

/-- The commands that store nothing leave every byte of host memory as it is, in every state, whatever they abort or reject. -/
def Obligations.QuietCommandsKeepMemory : Prop :=
  ∀ (c : Instr) (s t : State), c.quiet = true → exec c s = .next t → t.mem = s.mem ∧ t.undef = s.undef ∧ ∀ a, t.memByte a = s.memByte a
end

