-- ==== Sys2Proof/Laws/Tab.lean ====
section
/-! SUPPORT. Sparse tables: what a write leaves at its key and elsewhere, and that every write keeps the canonical form. Lists:
what setAt and updAt leave. -/

namespace Sys2Proof

section
variable {α : Type} [DecidableEq α] (d : α)

/-- A larger lower bound is a stronger form. -/
theorem Tab.wfFrom_mono {t : Tab α} {lo lo' : Nat} (hl : lo' ≤ lo) (h : Tab.wfFrom d lo t = true) : Tab.wfFrom d lo' t = true := by
  cases t with
  | nil => rfl
  | cons e t =>
    obtain ⟨j, v⟩ := e
    simp only [Tab.wfFrom, Bool.and_eq_true, decide_eq_true_eq] at h ⊢
    exact ⟨⟨by omega, h.1.2⟩, h.2⟩

/-- Removing a key keeps the form. -/
theorem Tab.wfFrom_erase {t : Tab α} {lo k : Nat} (h : Tab.wfFrom d lo t = true) : Tab.wfFrom d lo (t.erase k) = true := by
  induction t generalizing lo with
  | nil => rfl
  | cons e t ih =>
    obtain ⟨j, v⟩ := e
    simp only [Tab.wfFrom, Bool.and_eq_true, decide_eq_true_eq] at h
    unfold Tab.erase
    split
    · exact Tab.wfFrom_mono d (by omega) h.2
    · split
      · simp [Tab.wfFrom, h]
      · simp [Tab.wfFrom, h.1.1, h.1.2, ih h.2]

/-- Listing a value other than the default keeps the form. -/
theorem Tab.wfFrom_insert {t : Tab α} {lo k : Nat} {v : α} (h : Tab.wfFrom d lo t = true) (hk : lo ≤ k) (hv : v ≠ d) :
    Tab.wfFrom d lo (t.insert k v) = true := by
  induction t generalizing lo with
  | nil => simp [Tab.insert, Tab.wfFrom, hk, hv]
  | cons e t ih =>
    obtain ⟨j, w⟩ := e
    simp only [Tab.wfFrom, Bool.and_eq_true, decide_eq_true_eq] at h
    unfold Tab.insert
    split
    · subst j; simp [Tab.wfFrom, hk, hv, h.2]
    · split
      · rename_i hlt; simp [Tab.wfFrom, hk, hv, h.1.2, h.2]; omega
      · simp [Tab.wfFrom, h.1.1, h.1.2, ih h.2 (by omega)]

/-- Every write keeps the canonical form. -/
theorem Tab.wf_set {t : Tab α} (h : Tab.wf d t = true) (k : Nat) (v : α) : Tab.wf d (Tab.set d t k v) = true := by
  unfold Tab.set
  split
  · exact Tab.wfFrom_erase d h
  · exact Tab.wfFrom_insert d h (Nat.zero_le k) ‹_›

/-- Every change at a key keeps the canonical form. -/
theorem Tab.wf_upd {t : Tab α} (h : Tab.wf d t = true) (k : Nat) (f : α → α) : Tab.wf d (Tab.upd d t k f) = true :=
  Tab.wf_set d h k _

/-- Below every listed key a table reads as its default. -/
theorem Tab.get_below {t : Tab α} {lo k : Nat} (h : Tab.wfFrom d lo t = true) (hk : k < lo) : Tab.get d t k = d := by
  induction t generalizing lo with
  | nil => rfl
  | cons e t ih =>
    obtain ⟨j, v⟩ := e
    simp only [Tab.wfFrom, Bool.and_eq_true, decide_eq_true_eq] at h
    have : j ≠ k := by omega
    simp [Tab.get, this, ih h.2 (by omega)]

/-- A removed key reads as the default, every other as before. -/
theorem Tab.get_erase {t : Tab α} {lo k : Nat} (h : Tab.wfFrom d lo t = true) (j : Nat) :
    Tab.get d (t.erase k) j = if j = k then d else Tab.get d t j := by
  induction t generalizing lo with
  | nil => simp [Tab.erase, Tab.get]
  | cons e t ih =>
    obtain ⟨i, v⟩ := e
    simp only [Tab.wfFrom, Bool.and_eq_true, decide_eq_true_eq] at h
    unfold Tab.erase
    by_cases hik : i = k
    · subst i
      by_cases hj : j = k
      · subst j; simp [Tab.get_below d h.2 (Nat.lt_succ_self _)]
      · simp [Tab.get, hj, Ne.symm hj]
    · by_cases hki : k < i
      · by_cases hj : j = k
        · subst j
          have hwf : Tab.wfFrom d i ((i, v) :: t) = true := by simp [Tab.wfFrom, h.1.2, h.2]
          simpa [hik, hki] using Tab.get_below d hwf hki
        · simp [hik, hki, hj]
      · simp only [hik, hki, if_false, Tab.get]
        by_cases hij : i = j
        · subst j; simp [hik]
        · simp [hij, ih h.2]

omit [DecidableEq α] in
/-- A listed key reads as its value, every other as before. -/
theorem Tab.get_insert {t : Tab α} (k j : Nat) (v : α) : Tab.get d (t.insert k v) j = if j = k then v else Tab.get d t j := by
  induction t with
  | nil =>
    by_cases h : k = j
    · simp [Tab.insert, Tab.get, h]
    · simp [Tab.insert, Tab.get, h, Ne.symm h]
  | cons e t ih =>
    obtain ⟨i, w⟩ := e
    unfold Tab.insert
    by_cases hik : i = k
    · subst i; by_cases hj : k = j
      · subst j; simp [Tab.get]
      · simp [Tab.get, hj, Ne.symm hj]
    · by_cases hki : k < i
      · by_cases hj : k = j
        · subst j; simp [hik, hki, Tab.get]
        · simp [hik, hki, Tab.get, hj, Ne.symm hj]
      · simp only [hik, hki, if_false, Tab.get, ih]
        by_cases hij : i = j
        · subst j; simp [hik]
        · simp [hij]

/-- What a write leaves: its value at its key, everything else as before. -/
theorem Tab.get_set {t : Tab α} (h : Tab.wf d t = true) (k j : Nat) (v : α) :
    Tab.get d (Tab.set d t k v) j = if j = k then v else Tab.get d t j := by
  unfold Tab.set
  split
  · subst v; exact Tab.get_erase d h j
  · exact Tab.get_insert d k j v

/-- What a change at a key leaves. -/
theorem Tab.get_upd {t : Tab α} (h : Tab.wf d t = true) (k j : Nat) (f : α → α) :
    Tab.get d (Tab.upd d t k f) j = if j = k then f (Tab.get d t k) else Tab.get d t j :=
  Tab.get_set d h k j _

/-- A change of every listed value that makes no default of another value keeps the canonical form. -/
theorem Tab.wf_map {t : Tab α} (f : α → α) (hf : ∀ v, f v = d → v = d) (h : Tab.wf d t = true) :
    Tab.wf d (t.map fun e => (e.1, f e.2)) = true := by
  have h1 : ∀ (t : Tab α) (lo : Nat), Tab.wfFrom d lo t = true → Tab.wfFrom d lo (t.map fun e => (e.1, f e.2)) = true := by
    intro t
    induction t with
    | nil => exact fun _ _ => rfl
    | cons e t ih =>
      obtain ⟨j, v⟩ := e
      intro lo h
      simp only [Tab.wfFrom, List.map_cons, Bool.and_eq_true, decide_eq_true_eq] at h ⊢
      exact ⟨⟨h.1.1, fun x => h.1.2 (hf v x)⟩, ih _ h.2⟩
  exact h1 t 0 h

/-- A sequence of writes keeps the canonical form. -/
theorem Tab.wf_foldl_set {β : Type} (l : List β) (k : β → Nat) (v : β → α) {t : Tab α} (h : Tab.wf d t = true) :
    Tab.wf d (l.foldl (fun t x => Tab.set d t (k x) (v x)) t) = true := by
  induction l generalizing t with
  | nil => exact h
  | cons x l ih => exact ih (Tab.wf_set d h _ _)
end

/-- setAt keeps the length. -/
@[simp] theorem length_setAt {α : Type} (l : List α) (n : Nat) (v : α) : (setAt l n v).length = l.length := by
  induction l generalizing n with
  | nil => rfl
  | cons x l ih => cases n <;> simp [setAt, ih]

/-- updAt keeps the length. -/
@[simp] theorem length_updAt {α : Type} (l : List α) (n : Nat) (f : α → α) : (updAt l n f).length = l.length := by
  induction l generalizing n with
  | nil => rfl
  | cons x l ih => cases n <;> simp [updAt, ih]

/-- Many updAt keep the length. -/
@[simp] theorem length_foldl_updAt {α : Type} (l : List Nat) (f : α → α) (x : List α) :
    (l.foldl (fun a n => updAt a n f) x).length = x.length := by
  induction l generalizing x with
  | nil => rfl
  | cons n l ih => simp [ih]

/-- What setAt leaves at each place. -/
theorem getD_setAt {α : Type} (l : List α) (n j : Nat) (v d : α) :
    (setAt l n v).getD j d = if j = n ∧ n < l.length then v else l.getD j d := by
  induction l generalizing n j with
  | nil => simp [setAt]
  | cons x l ih =>
    cases n with
    | zero => cases j <;> simp [setAt]
    | succ n =>
      cases j with
      | zero => simp [setAt]
      | succ j => simpa [setAt, Nat.succ_lt_succ_iff] using ih n j

/-- What updAt leaves at each place. -/
theorem getD_updAt {α : Type} (l : List α) (n j : Nat) (f : α → α) (d : α) :
    (updAt l n f).getD j d = if j = n ∧ n < l.length then f (l.getD n d) else l.getD j d := by
  induction l generalizing n j with
  | nil => simp [updAt]
  | cons x l ih =>
    cases n with
    | zero => cases j <;> simp [updAt]
    | succ n =>
      cases j with
      | zero => simp [updAt]
      | succ j => simpa [updAt, Nat.succ_lt_succ_iff] using ih n j

/-- Setting one bit: what it leaves at each place. -/
theorem testBit_putBits_one (v n c : Nat) : (putBits v n 1 1).testBit c = (decide (c = n) || v.testBit c) := by
  have hb : bits v n 1 = (v.testBit n).toNat := by
    simp [bits, Nat.testBit_eq_decide_div_mod_eq]
    rcases Nat.mod_two_eq_zero_or_one (v / 2 ^ n) with h | h <;> simp [h]
  unfold putBits
  rw [hb]
  by_cases hn : v.testBit n = true
  · have hle : 2 ^ n ≤ v := Nat.ge_two_pow_of_testBit hn
    simp only [hn, Bool.toNat_true, Nat.one_mul, Nat.pow_one, show 1 % 2 = 1 from rfl, Nat.sub_add_cancel hle]
    by_cases hc : c = n
    · subst c; simp [hn]
    · simp [hc]
  · simp only [Bool.not_eq_true] at hn
    simp only [hn, Bool.toNat_false, Nat.zero_mul, Nat.sub_zero, Nat.pow_one, show 1 % 2 = 1 from rfl, Nat.one_mul]
    rcases Nat.lt_trichotomy c n with hc | hc | hc
    · rw [Nat.add_comm, Nat.testBit_two_pow_add_gt hc]; simp [Nat.ne_of_lt hc]
    · subst c; rw [Nat.add_comm, Nat.testBit_two_pow_add_eq]; simp [hn]
    · have h0 : v / 2 ^ n % 2 = 0 := by
        rw [Nat.testBit_eq_decide_div_mod_eq] at hn; simp at hn; omega
      have hdiv : (v + 2 ^ n) / 2 ^ (n + 1) = v / 2 ^ (n + 1) := by
        rw [Nat.pow_succ, ← Nat.div_div_eq_div_mul, ← Nat.div_div_eq_div_mul, Nat.add_div_right _ (Nat.two_pow_pos n)]
        omega
      have hsplit : ∀ x, x / 2 ^ c = x / 2 ^ (n + 1) / 2 ^ (c - (n + 1)) := by
        intro x; rw [Nat.div_div_eq_div_mul, ← Nat.pow_add, Nat.add_sub_cancel' hc]
      simp only [Nat.testBit_eq_decide_div_mod_eq, hsplit, hdiv, show c ≠ n by omega, decide_false, Bool.false_or]

end Sys2Proof
end

