-- ==== Sys2Proof/Laws/Keeps.lean ====
section
/-! SUPPORT. What every command keeps, as one relation between a state and a later one, and that the shared operations keep it.
Keeps qt z s says of a state s reached from z: the build, the queue of waiting commands and the time are z's; every table that
was in canonical form in z still is; the life and wear counters, the derating steps, departure from service, isolations and the
Almanac's marks have only grown; the banks of registers and units that had their lengths in z still do; the Bearing accumulator has not passed its bound; and, where qt is true, host memory is z's. -/

namespace Sys2Proof.Machine

open Sys2Proof

/-- The life counters the manual names are 64-bit (R360). -/
def lifeOk (l : List Nat) : Prop := ∀ k, l.getD k 0 < 2 ^ 64

/-- Pointwise order of the first n counters of two lists. -/
def listLe (n : Nat) (a b : List Nat) : Prop := ∀ k, k < n → a.getD k 0 ≤ b.getD k 0

/-- The relation of Keeps, over the parts of the state it speaks of. -/
structure KeepsF (qt : Bool) (z : State) (build : Build) (pending : List Instr) (now : Nat) (mem : List Host.Cell)
    (undef : Tab (Option Nat)) (ctxs : Tab CtxEntry) (rts : Tab CtxRt) (cmqs : Tab CmQueue) (evqs : Tab EvQueue)
    (sched : Tab (Nat × Nat)) (acc : Nat) (life wear step : List Nat) (out : Bool) (isolated : Nat) (calValid retained : Bool)
    (tiles arrs batches drops : Nat) : Prop where
  kBuild : build = z.build
  kPending : pending = z.pending
  kNow : now = z.pins.now
  kMem : Memory.wf z.mem = true → Memory.wf mem = true
  kUndef : Tab.wf none z.undef = true → Tab.wf none undef = true
  kCtxs : Tab.wf CtxEntry.init z.ctxs = true → Tab.wf CtxEntry.init ctxs = true
  kRts : Tab.wf CtxRt.init z.rts = true → Tab.wf CtxRt.init rts = true
  kCmqs : Tab.wf CmQueue.init z.cmqs = true → Tab.wf CmQueue.init cmqs = true
  kEvqs : Tab.wf EvQueue.init z.evqs = true → Tab.wf EvQueue.init evqs = true
  kSched : Tab.wf (0, 0) z.dat.sched = true → Tab.wf (0, 0) sched = true
  kAcc : z.dat.acc ≤ 2 ^ 57 → acc ≤ 2 ^ 57
  kLife : lifeOk z.alm.life → lifeOk life ∧ listLe 28 z.alm.life life
  kWear : lifeOk z.alm.wear → lifeOk wear ∧ listLe 256 z.alm.wear wear
  kStep : listLe 256 z.alm.step step
  kOut : z.flt.out = true → out = true
  kIsolated : ∀ c, z.flt.isolated.testBit c = true → isolated.testBit c = true
  kCalValid : z.alm.calValid = true → calValid = true
  kRetained : z.alm.retained = true → retained = true
  kQuiet : qt = true → mem = z.mem ∧ undef = z.undef
  kLifeN : z.alm.life.length = 64 → life.length = 64
  kWearN : z.alm.wear.length = 256 → wear.length = 256
  kStepN : z.alm.step.length = 256 → step.length = 256
  kTiles : z.tiles.length = 256 → tiles = 256
  kArrs : z.arrs.length = 4 → arrs = 4
  kBatches : z.tst.batches.length = 16 → batches = 16
  kDrops : z.mos.drops.length = 10 → drops = 10

/-- A state reached from z, as every command keeps it. -/
def Keeps (qt : Bool) (z s : State) : Prop :=
  KeepsF qt z s.build s.pending s.pins.now s.mem s.undef s.ctxs s.rts s.cmqs s.evqs s.dat.sched s.dat.acc s.alm.life s.alm.wear
    s.alm.step s.flt.out s.flt.isolated s.alm.calValid s.alm.retained
      s.tiles.length s.arrs.length s.tst.batches.length s.mos.drops.length

variable {qt : Bool} {z s : State}

/-- Nothing done keeps everything. -/
@[simp] theorem Keeps.refl (qt : Bool) (z : State) : Keeps qt z z :=
  ⟨rfl, rfl, rfl, id, id, id, id, id, id, id, id, fun h => ⟨h, fun _ _ => Nat.le_refl _⟩,
    fun h => ⟨h, fun _ _ => Nat.le_refl _⟩, fun _ _ => Nat.le_refl _, id, fun _ => id, id, id, fun _ => ⟨rfl, rfl⟩,
    id, id, id, id, id, id, id⟩

/-- What keeps memory keeps the rest. -/
theorem Keeps.loud (h : Keeps true z s) : Keeps qt z s := by
  obtain ⟨h1, h2, h3, h4, h5, h6, h7, h8, h9, h10, h11, h12, h13, h14, h15, h16, h17, h18, h19, h20, h21, h22, h23, h24, h25, h26⟩ := h
  exact ⟨h1, h2, h3, h4, h5, h6, h7, h8, h9, h10, h11, h12, h13, h14, h15, h16, h17, h18, fun _ => h19 rfl, h20,
    h21, h22, h23, h24, h25, h26⟩

/-- A state written out: the relation of its parts. -/
@[simp] theorem keeps_mk (build : Build) (mem : List Host.Cell) (undef : Tab (Option Nat)) (free : Nat) (pending : List Instr) (pins : Pins)
    (flt : Flt) (mode : Mode) (lgd : Lgd) (win : CtxWin) (ctxs : Tab CtxEntry) (rts : Tab CtxRt) (cmqs : Tab CmQueue)
    (badDoorbell : ErrCtr) (cmds : List Cmd) (accepted : Nat) (evqs : Tab EvQueue) (headOverrun : ErrCtr) (log : List Rec)
    (fp : List FpReq) (fpOut : List FpUse) (fpRun : Nat) (memq : List MemWr) (dat : Dat) (trv : Trv) (mos : Mos) (upd : Upd) (arrs : List Arr) (tiles : List Tile) (feed : Feed)
    (stl : Stl) (alm : Alm) (pwrDroops : PerfCtr) (tst : Tst) :
    Keeps qt z (State.mk build mem undef free pending pins flt mode lgd win ctxs rts cmqs badDoorbell cmds accepted evqs headOverrun
      log fp fpOut fpRun memq dat trv mos upd arrs tiles feed stl alm pwrDroops tst) ↔
    KeepsF qt z build pending pins.now mem undef ctxs rts cmqs evqs dat.sched dat.acc alm.life alm.wear alm.step flt.out flt.isolated
      alm.calValid alm.retained tiles.length arrs.length tst.batches.length mos.drops.length := Iff.rfl

/-- The parts of a state that keeps everything. -/
@[simp] theorem keeps_fold (s : State) :
    KeepsF qt z s.build s.pending s.pins.now s.mem s.undef s.ctxs s.rts s.cmqs s.evqs s.dat.sched s.dat.acc s.alm.life s.alm.wear
      s.alm.step s.flt.out s.flt.isolated s.alm.calValid s.alm.retained
      s.tiles.length s.arrs.length s.tst.batches.length s.mos.drops.length ↔ Keeps qt z s := Iff.rfl


/-! ## Composition -/

/-- One change after another. -/
theorem Keeps.trans {c : State} (h : Keeps qt z s) (h' : Keeps qt s c) : Keeps qt z c := by
  refine ⟨h'.kBuild.trans h.kBuild, h'.kPending.trans h.kPending, h'.kNow.trans h.kNow, fun x => h'.kMem (h.kMem x),
    fun x => h'.kUndef (h.kUndef x), fun x => h'.kCtxs (h.kCtxs x), fun x => h'.kRts (h.kRts x), fun x => h'.kCmqs (h.kCmqs x),
    fun x => h'.kEvqs (h.kEvqs x), fun x => h'.kSched (h.kSched x), fun x => h'.kAcc (h.kAcc x), ?_, ?_,
    fun k i => Nat.le_trans (h.kStep k i) (h'.kStep k i), fun x => h'.kOut (h.kOut x), fun c x => h'.kIsolated c (h.kIsolated c x),
    fun x => h'.kCalValid (h.kCalValid x), fun x => h'.kRetained (h.kRetained x), fun x => ?_,
    fun x => h'.kLifeN (h.kLifeN x), fun x => h'.kWearN (h.kWearN x), fun x => h'.kStepN (h.kStepN x), fun x => h'.kTiles (h.kTiles x),
    fun x => h'.kArrs (h.kArrs x), fun x => h'.kBatches (h.kBatches x), fun x => h'.kDrops (h.kDrops x)⟩
  · exact fun x => ⟨(h'.kLife (h.kLife x).1).1, fun k i => Nat.le_trans ((h.kLife x).2 k i) ((h'.kLife (h.kLife x).1).2 k i)⟩
  · exact fun x => ⟨(h'.kWear (h.kWear x).1).1, fun k i => Nat.le_trans ((h.kWear x).2 k i) ((h'.kWear (h.kWear x).1).2 k i)⟩
  · exact ⟨(h'.kQuiet x).1.trans (h.kQuiet x).1, (h'.kQuiet x).2.trans (h.kQuiet x).2⟩

/-- Either branch. -/
@[simp] theorem keeps_ite {p : Prop} [Decidable p] {x y : State} (hx : p → Keeps qt z x) (hy : ¬p → Keeps qt z y) :
    Keeps qt z (if p then x else y) := by
  split
  · exact hx ‹_›
  · exact hy ‹_›

/-- A fold of changes that each keep everything. -/
@[simp] theorem keeps_foldl {α : Type} {f : State → α → State} (hf : ∀ s x, Keeps qt z s → Keeps qt z (f s x)) (l : List α)
    (h : Keeps qt z s) : Keeps qt z (l.foldl f s) := by
  induction l generalizing s with
  | nil => exact h
  | cons x l ih => exact ih (hf s x h)

/-! ## Tables -/

/-- A change of a context's entry. -/
@[simp] theorem keeps_updCtx (h : Keeps qt z s) (c : Nat) (f : CtxEntry → CtxEntry) : Keeps qt z (s.updCtx c f) :=
  { h with kCtxs := fun x => Tab.wf_upd _ (h.kCtxs x) _ _ }

/-- A change of a context's run-time state. -/
@[simp] theorem keeps_updRt (h : Keeps qt z s) (c : Nat) (f : CtxRt → CtxRt) : Keeps qt z (s.updRt c f) :=
  { h with kRts := fun x => Tab.wf_upd _ (h.kRts x) _ _ }

/-- A change of a stream. -/
@[simp] theorem keeps_updStream (h : Keeps qt z s) (c : Nat) (f : Stream → Stream) : Keeps qt z (s.updStream c f) := keeps_updRt h c _

/-- A change of a command queue. -/
@[simp] theorem keeps_updCmq (h : Keeps qt z s) (n : Nat) (f : CmQueue → CmQueue) : Keeps qt z (s.updCmq n f) :=
  { h with kCmqs := fun x => Tab.wf_upd _ (h.kCmqs x) _ _ }

/-- A change of the accepted commands. -/
@[simp] theorem keeps_updCmd (h : Keeps qt z s) (c : CmdId) (f : Cmd → Cmd) : Keeps qt z (s.updCmd c f) := h

/-- A change of an event queue. -/
@[simp] theorem keeps_evqs (h : Keeps qt z s) (n : Nat) (f : EvQueue → EvQueue) :
    KeepsF qt z s.build s.pending s.pins.now s.mem s.undef s.ctxs s.rts s.cmqs (s.evqs.upd EvQueue.init n f) s.dat.sched s.dat.acc
      s.alm.life s.alm.wear s.alm.step s.flt.out s.flt.isolated s.alm.calValid s.alm.retained
      s.tiles.length s.arrs.length s.tst.batches.length s.mos.drops.length :=
  { h with kEvqs := fun x => Tab.wf_upd _ (h.kEvqs x) _ _ }

/-- A change of an event queue, as a state. -/
theorem keeps_updEvq (h : Keeps qt z s) (n : Nat) (f : EvQueue → EvQueue) :
    Keeps qt z { s with evqs := s.evqs.upd EvQueue.init n f } := keeps_evqs h n f

end Sys2Proof.Machine
end

