-- ==== Sys2Proof/Laws/KeepsOps.lean ====
section
/-! SUPPORT. The operations of Machine/Ops.lean keep what every command keeps. -/

namespace Sys2Proof.Machine

open Sys2Proof

variable {qt : Bool} {z s : State}

/-- okay keeps it: only the response of CFG changes. -/
@[simp] theorem keeps_okay (h : Keeps qt z s) : Keeps qt z s.okay := h

/-- cfgWrite keeps it, whatever write keeps it. -/
@[simp] theorem keeps_cfgWrite (h : Keeps qt z s) {f : State → State} (hf : Keeps qt z (f s)) : Keeps qt z (s.cfgWrite f) :=
  keeps_ite (fun _ => h) fun _ => keeps_okay (keeps_ite (fun _ => hf) fun _ => h)

/-- setErr keeps it. -/
@[simp] theorem keeps_setErr (h : Keeps qt z s) (i : ErrId) (c : ErrCtr) : Keeps qt z (s.setErr i c) := by
  cases i <;> simp [State.setErr, h]

/-- setPerf keeps it. -/
@[simp] theorem keeps_setPerf (h : Keeps qt z s) (i : PerfId) (c : PerfCtr) : Keeps qt z (s.setPerf i c) := by
  cases i <;> exact h

/-- touchLine keeps it. -/
@[simp] theorem keeps_touchLine (hk : Keeps qt z s) (l : Nat) :
    Keeps qt z (s.touchLine l) := by
  unfold State.touchLine
  (repeat' split) <;> simp (maxDischargeDepth := 20) [hk]

/-- install keeps it. -/
@[simp] theorem keeps_install (h : Keeps qt z s) (l : Nat) (data : List Byte) (held : Option Nat) (spec : Bool) :
    Keeps qt z (s.install l data held spec) := by
  have h1 : ∀ f, Keeps qt z { s with feed := f } := fun _ => h
  unfold State.install
  dsimp only
  split
  · exact keeps_touchLine (h1 _) _
  · split
    · exact h
    · exact keeps_touchLine (h1 _) _

/-- pokeMem keeps it. -/
@[simp] theorem keeps_pokeMem (h : Keeps false z s) (a : Nat) (x : Byte) : Keeps false z (s.pokeMem a x) := by
  exact { h with kMem := fun w => Tab.wf_set _ (h.kMem w) _ _, kUndef := fun w => Tab.wf_set none (h.kUndef w) a none,
                 kQuiet := nofun }

/-- fpWrite keeps it. -/
@[simp] theorem keeps_fpWrite (h : Keeps false z s) (a : Nat) (bs : List Byte) : Keeps false z (s.fpWrite a bs) := by
  have h1 : Keeps false z (((List.range bs.length).map fun i => (a + i, bs.getD i 0)).foldl
      (fun s w => s.pokeMem w.1 w.2) s) := keeps_foldl (fun s w hs => keeps_pokeMem hs _ _) _ h
  exact h1

/-- bulkWrite keeps it. -/
@[simp] theorem keeps_bulkWrite (h : Keeps false z s) (ws : List (Nat × Byte)) : Keeps false z (s.bulkWrite ws) := by
  have h1 : Keeps false z (ws.foldl (fun s w => s.pokeMem w.1 w.2) s) := keeps_foldl (fun s w hs => keeps_pokeMem hs _ _) _ h
  exact keeps_foldl (fun s l hs => keeps_ite (fun _ => keeps_install hs _ _ _ _) fun _ => hs) _ h1

/-- undefine keeps it. -/
@[simp] theorem keeps_undefine (h : Keeps false z s) (a n : Nat) : Keeps false z (s.undefine a n) := by
  exact { h with kMem := fun w => Tab.wf_foldl_set _ _ _ _ (h.kMem w),
                 kUndef := fun w => Tab.wf_foldl_set none _ _ _ (h.kUndef w), kQuiet := nofun }

/-- fpPump keeps it: it sends transfers and changes nothing else. -/
@[simp] theorem keeps_fpPump (h : Keeps qt z s) : Keeps qt z s.fpPump := by
  unfold State.fpPump
  exact keeps_ite (fun _ => h) fun _ => h

/-- memPump keeps it: it sends writes and changes nothing else. -/
@[simp] theorem keeps_memPump (h : Keeps qt z s) : Keeps qt z s.memPump := keeps_ite (fun _ => h) fun _ => h

/-- memAdd keeps it. -/
@[simp] theorem keeps_memAdd (h : Keeps qt z s) (es : List MemWr) : Keeps qt z (s.memAdd es) :=
  keeps_memPump (s := { s with memq := s.memq ++ es }) h

/-- memStop keeps it. -/
@[simp] theorem keeps_memStop (h : Keeps qt z s) (o : WrOwner) (l : List Nat) : Keeps qt z (s.memStop o l).2 := h

/-- memLeave keeps it. -/
@[simp] theorem keeps_memLeave (h : Keeps qt z s) (o : WrOwner) (f : MemWr → Bool) : Keeps qt z (s.memLeave o f) := h

/-- fpResume keeps it. -/
@[simp] theorem keeps_fpResume (h : Keeps qt z s) : Keeps qt z s.fpResume :=
  keeps_ite (fun _ => keeps_memPump h) fun _ => keeps_fpPump (keeps_memPump h)

/-- fpStop keeps it. -/
@[simp] theorem keeps_fpStop (h : Keeps qt z s) (id : CmdId) : Keeps qt z (s.fpStop id) := h

/-- fpAdd keeps it. -/
@[simp] theorem keeps_fpAdd (h : Keeps qt z s) (rs : List FpReq) : Keeps qt z (s.fpAdd rs) :=
  keeps_fpPump (s := { s with fp := s.fp ++ rs }) h

/-- writeRec keeps it. -/
@[simp] theorem keeps_writeRec (hk : Keeps qt z s) (q : Nat) (b : RecBody) (now : Bool) :
    Keeps qt z (s.writeRec q b now) := keeps_fpAdd (s := { s with log := _, evqs := _ }) (by simp [hk]) _

/-- flushLost keeps it, and so does every record (emitF). -/
@[simp] theorem keeps_flushLost (h : Keeps qt z s) (q : Nat) : Keeps qt z (s.flushLost q) := by
  unfold State.flushLost
  dsimp only
  split
  · exact keeps_writeRec (keeps_updEvq h q _) _ _ _
  · exact h

/-- emitF keeps it. -/
@[simp] theorem keeps_emitF (n : Nat) (h : Keeps qt z s) (q : Nat) (x : RecBody) : Keeps qt z (State.emitF n s q x) := by
  induction n generalizing s q x with
  | zero => exact h
  | succ n ih =>
    unfold State.emitF
    have h1 := keeps_flushLost h q
    dsimp only
    split
    · exact keeps_writeRec h1 _ _ _
    · split
      · exact keeps_flushLost (ih (keeps_updEvq h1 q _) _ _) _
      · exact keeps_flushLost (keeps_updEvq h1 q _) _

/-- emit keeps it. -/
@[simp] theorem keeps_emit (hk : Keeps qt z s) (q : Nat) (b : RecBody) :
    Keeps qt z (s.emit q b) := by
  simp [State.emit, hk]

/-- emitEngine keeps it. -/
@[simp] theorem keeps_emitEngine (hk : Keeps qt z s) (type payload : Nat) :
    Keeps qt z (s.emitEngine type payload) := by
  simp [State.emitEngine, hk]

/-- bumpErr keeps it. -/
@[simp] theorem keeps_bumpErr (h : Keeps qt z s) (i : ErrId) : Keeps qt z (s.bumpErr i) := by
  unfold State.bumpErr
  dsimp only
  split
  · exact keeps_emitEngine (keeps_setErr h _ _) _ _
  · exact keeps_setErr h _ _

/-- countPerf keeps it. -/
@[simp] theorem keeps_countPerf (h : Keeps qt z s) (i : PerfId) (c : PerfCtr) : Keeps qt z (s.countPerf i c) := by
  unfold State.countPerf
  have h' := keeps_setPerf h i c
  dsimp only
  split
  · split
    · exact h'
    · exact h'
  · exact h'

/-- addPerf keeps it. -/
@[simp] theorem keeps_addPerf (hk : Keeps qt z s) (i : PerfId) (n : Nat) :
    Keeps qt z (s.addPerf i n) := by
  unfold State.addPerf
  simp +contextual (maxDischargeDepth := 20) [hk]

/-- addLife keeps it: a life counter only grows, and saturates at 2⁶⁴ − 1. -/
@[simp] theorem keeps_addLife (h : Keeps qt z s) (k n : Nat) : Keeps qt z (s.addLife k n) := by
  have grow : ∀ v, s.alm.life.getD k 0 ≤ v ∨ v = 2 ^ 64 - 1 → v < 2 ^ 64 → lifeOk z.alm.life →
      lifeOk (setAt s.alm.life k v) ∧ listLe 28 z.alm.life (setAt s.alm.life k v) := by
    intro v hv hb hz
    obtain ⟨h1, h2⟩ := h.kLife hz
    refine ⟨fun j => ?_, fun j hj => ?_⟩
    · rw [getD_setAt]; split
      · exact hb
      · exact h1 j
    · rw [getD_setAt]; split
      · rename_i e; obtain ⟨rfl, -⟩ := e; have := h2 j hj; have := h1 j; omega
      · exact h2 j hj
  unfold State.addLife
  dsimp only
  split
  · rename_i hlt
    exact { h with kLife := grow _ (.inl (by omega)) (by omega), kLifeN := by simpa using h.kLifeN }
  · have h1 : ∀ x, Keeps qt z { s with alm := { s.alm with life := setAt s.alm.life k 18446744073709551615, sat := x } } :=
      fun x => { h with kLife := grow 18446744073709551615 (.inr (by decide)) (by decide), kLifeN := by simpa using h.kLifeN }
    split
    · exact h1 _
    · exact keeps_emitEngine (h1 _) _ _

/-- cmdRec keeps it. -/
@[simp] theorem keeps_cmdRec (h : Keeps qt z s) (c : Cmd) (type payload : Nat) : Keeps qt z (s.cmdRec c type payload) := by
  unfold State.cmdRec
  dsimp only
  exact keeps_updEvq (keeps_writeRec (keeps_updEvq h c.evq _) _ _ _) c.evq _

/-- drainQueue keeps it. -/
@[simp] theorem keeps_drainQueue (hk : Keeps qt z s) (q : Nat) :
    Keeps qt z (s.drainQueue q) := by
  simp [State.drainQueue, hk]

/-- arm keeps it. -/
@[simp] theorem keeps_arm (hk : Keeps qt z s) (q : Nat) :
    Keeps qt z (s.arm q) := by
  unfold State.arm
  (repeat' split) <;> simp (maxDischargeDepth := 20) [hk]

/-- closeCmd keeps it. -/
@[simp] theorem keeps_closeCmd (h : Keeps qt z s) (id : CmdId) (type payload : Nat) : Keeps qt z (s.closeCmd id type payload) := by
  unfold State.closeCmd
  split
  · exact h
  · rename_i c _
    have h1 : Keeps qt z ((s.fpStop id).cmdRec c type payload) := keeps_cmdRec (keeps_fpStop h id) c type payload
    have h2 : Keeps qt z { ((s.fpStop id).cmdRec c type payload) with
        cmds := ((s.fpStop id).cmdRec c type payload).cmds.filter fun x => x.id != id
        arrs := ((s.fpStop id).cmdRec c type payload).arrs.map (Arr.leave id) } :=
      { h1 with kArrs := by simpa using h1.kArrs }
    exact keeps_arm (keeps_drainQueue (keeps_ite (fun _ => keeps_updRt h2 _ _) fun _ => h2) _) _

/-- reject keeps it. -/
@[simp] theorem keeps_reject (hk : Keeps qt z s) (id : CmdId) (c : Cause) :
    Keeps qt z (s.reject id c) := by
  simp [State.reject, hk]

/-- ownWrite keeps it. -/
@[simp] theorem keeps_ownWrite (h : Keeps false z s) (c a : Nat) (bs : List Byte) : Keeps false z (s.ownWrite c a bs) :=
  keeps_fpAdd (keeps_fpWrite h _ _) _

/-- lookStop keeps it. -/
@[simp] theorem keeps_lookStop (h : Keeps qt z s) (f : LookList → Bool) : Keeps qt z (s.lookStop f) := h

/-- wrStop keeps it. -/
@[simp] theorem keeps_wrStop (h : Keeps qt z s) (id : CmdId) : Keeps qt z (s.wrStop id) := keeps_updCmd (keeps_memStop h _ _) _ _

/-- setRState keeps it. -/
@[simp] theorem keeps_setRState (hk : Keeps false z s) (c k st : Nat) :
    Keeps false z (s.setRState c k st) := by
  simp [State.setRState, hk]

/-- setSel keeps it. -/
@[simp] theorem keeps_setSel (hk : Keeps false z s) (c k sel : Nat) :
    Keeps false z (s.setSel c k sel) := by
  simp [State.setSel, hk]

/-- endConvoys keeps it. -/
@[simp] theorem keeps_endConvoys (h : Keeps qt z s) : Keeps qt z s.endConvoys := h

/-- freeUnits keeps it. -/
@[simp] theorem keeps_freeUnits (hk : Keeps qt z s) (id : CmdId) : Keeps qt z (s.freeUnits id) :=
  keeps_endConvoys (s := { s with
    tiles := s.tiles.map (Tile.leave id)
    arrs := s.arrs.map (Arr.stop id)
    feed := s.feed.leave id })
    { hk with kTiles := (by simpa using hk.kTiles), kArrs := by simpa using hk.kArrs }

/-- stopUnits keeps it. -/
@[simp] theorem keeps_stopUnits (hk : Keeps qt z s) (id : CmdId) : Keeps qt z (s.stopUnits id) := by
  unfold State.stopUnits
  exact keeps_freeUnits (s := { s.fpStop id with feed := _ }) (keeps_fpStop hk id) _

/-- leaveStream keeps it. -/
@[simp] theorem keeps_leaveStream (h : Keeps qt z s) (id : CmdId) (ctx : Nat) : Keeps qt z (s.leaveStream id ctx) := by
  unfold State.leaveStream
  dsimp only
  exact keeps_updStream (s := { s with mos := _ }) h _ _

/-- abort keeps it. -/
@[simp] theorem keeps_abort (h : Keeps qt z s) (id : CmdId) (c : Cause) : Keeps qt z (s.abort id c) := by
  unfold State.abort
  split
  · exact h
  · exact keeps_ite (fun _ => h) fun _ => keeps_ite (fun _ => keeps_reject h _ _) fun _ =>
      keeps_leaveStream (keeps_stopUnits (keeps_updCmd h _ _) _) _ _

/-- safety keeps it. -/
@[simp] theorem keeps_safety (hk : Keeps qt z s) (code : Nat) (ch tile : Option Nat) (action detail : Nat) :
    Keeps qt z (s.safety code ch tile action detail) := by
  simp [State.safety, hk]

/-- tileFault keeps it. -/
@[simp] theorem keeps_tileFault (hk : Keeps qt z s) (t code detail : Nat) :
    Keeps qt z (s.tileFault t code detail) := by
  unfold State.tileFault
  (repeat' split) <;> simp (maxDischargeDepth := 20) [hk]

/-- queueTile keeps it. -/
@[simp] theorem keeps_queueTile (hk : Keeps qt z s) (t : Nat) :
    Keeps qt z (s.queueTile t) := by
  simp [State.queueTile, hk]

/-- laneFault keeps it. -/
@[simp] theorem keeps_laneFault (h : Keeps qt z s) (t i : Nat) : Keeps qt z (s.laneFault t i) := keeps_queueTile (keeps_tileFault h _ _ _) _

/-- leaveService keeps it: the engine is then out of service. -/
@[simp] theorem keeps_leaveService (h : Keeps qt z s) (code : Nat) (ch tile : Option Nat) (detail : Nat) :
    Keeps qt z (s.leaveService code ch tile detail) := by
  unfold State.leaveService
  split
  · exact h
  · exact { keeps_addLife (keeps_safety h code ch tile 3 detail) 9 1 with kOut := fun _ => rfl }

/-- countEsc keeps it. -/
@[simp] theorem keeps_countEsc (h : Keeps qt z s) (code detail : Nat) : Keeps qt z (s.countEsc code detail) := by
  unfold State.countEsc
  dsimp only
  have h1 : ∀ a c, Keeps qt z { s with flt := { s.flt with escT0 := a, escCount := c } } := fun _ _ => h
  exact keeps_ite (fun _ => keeps_leaveService (h1 _ _) _ _ _ _) fun _ => h1 _ _

end Sys2Proof.Machine
end

