-- ==== Sys2Proof/Laws/KeepsQueues.lean ====
section
/-! SUPPORT. The operations of Machine/Queues.lean keep what every command keeps. -/

namespace Sys2Proof.Machine

open Sys2Proof

variable {qt : Bool} {z s : State}

/-- emitCtx keeps it. -/
@[simp] theorem keeps_emitCtx (hk : Keeps qt z s) (c type tag payload : Nat) :
    Keeps qt z (s.emitCtx c type tag payload) := by
  simp [State.emitCtx, hk]

/-- pollFlag keeps it. -/
@[simp] theorem keeps_pollFlag (hk : Keeps qt z s) (id : CmdId) :
    Keeps qt z (s.pollFlag id) := by
  unfold State.pollFlag
  (repeat' split) <;> simp (maxDischargeDepth := 20) [hk]

/-- doorbell keeps it. -/
@[simp] theorem keeps_doorbell (hk : Keeps qt z s) (q pub : Nat) :
    Keeps qt z (s.doorbell q pub) := by
  unfold State.doorbell
  simp +contextual (maxDischargeDepth := 20) [hk]

/-- accept keeps it. -/
@[simp] theorem keeps_accept (h : Keeps qt z s) (q : Nat) : Keeps qt z (s.accept q) := by
  unfold State.accept
  dsimp only
  refine keeps_arm (keeps_flushLost (keeps_updEvq (keeps_updCmq ?_ q _) _ _) _) _
  exact h

/-- writeCmqCtl keeps it. -/
@[simp] theorem keeps_writeCmqCtl (hk : Keeps qt z s) (q : Nat) (v : W64) :
    Keeps qt z (s.writeCmqCtl q v) := by
  unfold State.writeCmqCtl
  simp +contextual (maxDischargeDepth := 20) [hk]

/-- writeCmqBase keeps it. -/
@[simp] theorem keeps_writeCmqBase (hk : Keeps qt z s) (q : Nat) (v : W64) :
    Keeps qt z (s.writeCmqBase q v) := by
  unfold State.writeCmqBase
  simp +contextual (maxDischargeDepth := 20) [hk]

/-- writeCmqStatus keeps it. -/
@[simp] theorem keeps_writeCmqStatus (hk : Keeps qt z s) (q : Nat) (v : W64) :
    Keeps qt z (s.writeCmqStatus q v) := by
  simp [State.writeCmqStatus, hk]

/-- updEvq keeps it. -/
@[simp] theorem keeps_chgEvq (h : Keeps qt z s) (q : Nat) (f : EvQueue → EvQueue) : Keeps qt z (s.updEvq q f) := keeps_updEvq h q f

/-- writeEvqCtl keeps it. -/
@[simp] theorem keeps_writeEvqCtl (hk : Keeps qt z s) (q : Nat) (v : W64) :
    Keeps qt z (s.writeEvqCtl q v) := by
  unfold State.writeEvqCtl
  simp +contextual (maxDischargeDepth := 20) [hk]

/-- writeEvqHead keeps it. -/
@[simp] theorem keeps_writeEvqHead (hk : Keeps qt z s) (q new : Nat) :
    Keeps qt z (s.writeEvqHead q new) := by
  unfold State.writeEvqHead
  simp +contextual (maxDischargeDepth := 20) [hk]

/-- writeEvqBase keeps it. -/
@[simp] theorem keeps_writeEvqBase (hk : Keeps qt z s) (q : Nat) (v : W64) :
    Keeps qt z (s.writeEvqBase q v) := by
  unfold State.writeEvqBase
  simp +contextual (maxDischargeDepth := 20) [hk]

/-- readSlotAt keeps it. -/
@[simp] theorem keeps_readSlotAt (hk : Keeps qt z s) (q : Nat) : Keeps qt z (s.readSlotAt q) := keeps_fpAdd hk _

/-- slotCame keeps it. -/
@[simp] theorem keeps_slotCame (hk : Keeps qt z s) (q addr : Nat) : Keeps qt z (s.slotCame q addr) :=
  keeps_ite (fun _ => keeps_updCmq hk _ _) fun _ => hk

/-- notify keeps it. -/
@[simp] theorem keeps_notify (hk : Keeps qt z s) (q seq : Nat) :
    Keeps qt z (s.notify q seq) := keeps_fpAdd hk _

/-- afterRecord keeps it. -/
@[simp] theorem keeps_afterRecord (h : Keeps qt z s) (q seq : Nat) (now : Bool) : Keeps qt z (s.afterRecord q seq now) := by
  have h1 := keeps_chgEvq h q fun e => { e with acked := seq }
  unfold State.afterRecord
  dsimp only
  split
  · exact keeps_notify h1 _ _
  · exact keeps_ite (fun _ => keeps_chgEvq (keeps_notify h1 _ _) _ _) fun _ => keeps_chgEvq h1 _ _
  · exact h1

end Sys2Proof.Machine
end

