-- ==== Sys2Proof/Laws/KeepsFills.lean ====
section
/-! SUPPORT. The operations of Machine/Fills.lean keep what every command keeps. -/

namespace Sys2Proof.Machine

open Sys2Proof

variable {qt : Bool} {z s : State}

/-- sendFill keeps it. -/
@[simp] theorem keeps_sendFill (hk : Keeps qt z s) (l ctx : Nat) (k : FillKind) (ws : List (Nat × Nat)) :
    Keeps qt z (s.sendFill l ctx k ws) := hk

/-- prefill keeps it. -/
@[simp] theorem keeps_prefill (hk : Keeps qt z s) (l ctx : Nat) (k : FillKind) : Keeps qt z (s.prefill l ctx k) := by
  simp [State.prefill, hk]

/-- demandRead keeps it. -/
@[simp] theorem keeps_demandRead (hk : Keeps qt z s) (l : Nat) : Keeps qt z (s.demandRead l) := by
  have h1 : Keeps qt z (match s.aline l with
      | some x => { s with feed := { s.feed with atlas := Tab.set none s.feed.atlas l (some { x with held := none, spec := false }) } }
      | none => s) := by split <;> exact hk
  refine keeps_ite (fun _ => ?_) fun _ => h1
  apply keeps_addPerf
  exact h1

/-- pumpLines keeps it. -/
@[simp] theorem keeps_pumpLines (ctx u : Nat) (l : List Nat) (h : Keeps qt z s) : Keeps qt z (State.pumpLines ctx u l s).1 := by
  induction l generalizing s with
  | nil => exact h
  | cons x l ih =>
    unfold State.pumpLines
    repeat' first | exact h | exact ih h | exact ih (keeps_sendFill h _ _ _ _) | split

/-- pumpEntries keeps it. -/
@[simp] theorem keeps_pumpEntries (ctx u : Nat) (l : List Nat) (h : Keeps qt z s) : Keeps qt z (State.pumpEntries ctx u l s).1 := by
  induction l generalizing s with
  | nil => exact h
  | cons x l ih =>
    unfold State.pumpEntries
    dsimp only
    repeat' first | exact h | exact ih (keeps_bumpErr h _) | exact ih (keeps_pumpLines _ _ _ h) | exact keeps_pumpLines _ _ _ h | split

/-- pumpList keeps it. -/
@[simp] theorem keeps_pumpList (h : Keeps qt z s) (x : LookList) : Keeps qt z (s.pumpList x).1 := by
  unfold State.pumpList
  dsimp only
  split
  · exact keeps_pumpEntries _ _ _ (keeps_pumpLines _ _ _ h)
  · exact keeps_pumpLines _ _ _ h

/-- pumpLook keeps it. -/
@[simp] theorem keeps_pumpLook (h : Keeps qt z s) : Keeps qt z s.pumpLook := by
  have h1 : ∀ (l : List LookList) (a : State × List LookList), Keeps qt z a.1 → Keeps qt z (l.foldl
      (fun (a : State × List LookList) (x : LookList) =>
        let (s', y) := a.1.pumpList x
        (s', if y.lines.isEmpty && y.entries.isEmpty && y.reads.isEmpty then a.2 else a.2 ++ [y])) a).1 := by
    intro l
    induction l with
    | nil => exact fun _ ha => ha
    | cons x l ih => exact fun a ha => ih _ (keeps_pumpList ha x)
  unfold State.pumpLook
  exact keeps_ite (fun _ => h) fun _ => h1 s.feed.look (s, []) h

/-- startLook keeps it. -/
@[simp] theorem keeps_startLook (h : Keeps qt z s) (ctx : Nat) (cmd : Option CmdId) (a n : Nat) : Keeps qt z (s.startLook ctx cmd a n) :=
  keeps_ite (fun _ => h) fun _ => keeps_ite (fun _ => by apply keeps_fpAdd; exact h) fun _ =>
    keeps_foldl (fun _ _ hx => keeps_bumpErr hx _) _ h

/-- lookRead keeps it. -/
@[simp] theorem keeps_lookRead (h : Keeps qt z s) (ctx a : Nat) (bad : Bool) : Keeps qt z (s.lookRead ctx a bad) := by
  unfold State.lookRead
  extract_lets here
  split
  · exact h
  · exact keeps_pumpLook (keeps_ite (fun _ => by apply keeps_bumpErr; exact h) fun _ => h)

/-- endHolds keeps it. -/
@[simp] theorem keeps_endHolds (h : Keeps qt z s) : Keeps qt z s.endHolds := keeps_pumpLook (s := { s with feed := _ }) h

/-- came keeps it. -/
@[simp] theorem keeps_came (h : Keeps qt z s) (l : Nat) : Keeps qt z (s.came l) := h

/-- readLine keeps it. -/
@[simp] theorem keeps_readLine (h : Keeps qt z s) (l : Nat) : Keeps qt z (s.readLine l) := by
  have h1 := keeps_demandRead h l
  exact keeps_ite (fun _ => keeps_touchLine h1 _) fun _ => keeps_ite (fun _ => keeps_came h1 _) fun _ =>
    keeps_came (keeps_install h1 _ _ _ _) _

/-- readBytes keeps it. -/
@[simp] theorem keeps_readBytes (h : Keeps qt z s) (rs : List (Nat × Nat)) : Keeps qt z (s.readBytes rs) :=
  keeps_pumpLook (keeps_foldl (fun _ _ hx => keeps_readLine hx _) _ h)

end Sys2Proof.Machine
end

