-- ==== Sys2Proof/Laws/KeepsAlmanac.lean ====
section
/-! SUPPORT. The operations of Machine/Almanac.lean keep what every command keeps. -/

namespace Sys2Proof.Machine

open Sys2Proof

variable {qt : Bool} {z s : State}

/-- almRec keeps it. -/
@[simp] theorem keeps_almRec (hk : Keeps qt z s) (kind hi : Nat) :
    Keeps qt z (s.almRec kind hi) := by
  simp [State.almRec, hk]

/-- addWear keeps it: a wear counter only grows, and saturates at 2⁶⁴ − 1. -/
@[simp] theorem keeps_addWear (h : Keeps qt z s) (t n : Nat) : Keeps qt z (s.addWear t n) := by
  have grow : ∀ v, s.alm.wear.getD t 0 ≤ v ∨ v = 2 ^ 64 - 1 → v < 2 ^ 64 → lifeOk z.alm.wear →
      lifeOk (setAt s.alm.wear t v) ∧ listLe 256 z.alm.wear (setAt s.alm.wear t v) := by
    intro v hv hb hz
    obtain ⟨h1, h2⟩ := h.kWear hz
    refine ⟨fun j => ?_, fun j hj => ?_⟩
    · rw [getD_setAt]; split
      · exact hb
      · exact h1 j
    · rw [getD_setAt]; split
      · rename_i e; obtain ⟨rfl, -⟩ := e; have := h2 j hj; have := h1 j; omega
      · exact h2 j hj
  unfold State.addWear
  dsimp only
  split
  · exact { h with kWear := grow _ (.inl (by omega)) (by omega), kWearN := by simpa using h.kWearN }
  · have h1 : ∀ x, Keeps qt z { s with alm := { s.alm with wear := setAt s.alm.wear t 18446744073709551615, wearSat := x } } :=
      fun x => { h with kWear := grow 18446744073709551615 (.inr (by decide)) (by decide), kWearN := by simpa using h.kWearN }
    split
    · exact h1 _
    · exact keeps_almRec (h1 _) _ _

/-- wearTile keeps it. -/
@[simp] theorem keeps_wearTile (hk : Keeps qt z s) (t : Nat) (x : Nat × Int) :
    Keeps qt z (s.wearTile t x) := by
  unfold State.wearTile
  simp +contextual (maxDischargeDepth := 20) [hk]

/-- recomputeSteps keeps it: a derating step only grows. -/
@[simp] theorem keeps_recomputeSteps (h : Keeps qt z s) : Keeps qt z s.recomputeSteps := by
  unfold State.recomputeSteps
  refine keeps_foldl (fun s t h => ?_) _ h
  dsimp only
  refine keeps_ite (fun _ => h) fun _ => keeps_almRec ?_ _ _
  refine { h with kStep := fun j hj => ?_, kStepN := by simpa using h.kStepN }
  dsimp only
  rw [getD_setAt]
  split
  · rename_i e; obtain ⟨rfl, -⟩ := e; exact Nat.le_trans (h.kStep j hj) (Nat.le_max_left _ _)
  · exact h.kStep j hj

/-- startCkpt keeps it. -/
@[simp] theorem keeps_startCkpt (h : Keeps qt z s) (forced : Bool) : Keeps qt z (s.startCkpt forced) := by
  unfold State.startCkpt
  split
  · exact h
  · apply keeps_fpAdd
    exact keeps_recomputeSteps (s := { s with alm := Alm.snap s.alm }) h

/-- ckptResponse keeps it. -/
@[simp] theorem keeps_ckptResponse (hk : Keeps false z s) (r : FpReq) (bad : Bool) :
    Keeps false z (s.ckptResponse r bad) := by
  unfold State.ckptResponse
  (repeat' split) <;> simp (maxDischargeDepth := 20) [hk]

/-- restoreDecided keeps it. -/
@[simp] theorem keeps_restoreDecided (h : Keeps qt z s) (r : RestoreState) : Keeps qt z (s.restoreDecided r) := by
  unfold State.restoreDecided
  dsimp only
  split <;> exact { h with kRetained := fun _ => rfl }

/-- takeImage keeps it: counts are added, saturating. -/
@[simp] theorem keeps_takeImage (h : Keeps qt z s) (img : List Byte) : Keeps qt z (s.takeImage img) := by
  unfold State.takeImage
  dsimp only
  refine keeps_recomputeSteps (keeps_foldl (fun _ _ hs => keeps_almRec hs _ _) _ ?_)
  refine { h with kLife := fun hz => ?_, kWear := fun hz => ?_, kLifeN := fun _ => by simp, kWearN := fun _ => by simp }
  · obtain ⟨h1, h2⟩ := h.kLife hz
    refine ⟨fun j => ?_, fun j hj => ?_⟩
    · simp only [List.getD_eq_getElem?_getD, List.getElem?_map]
      rcases Nat.lt_or_ge j 64 with hj | hj
      · simp [hj, satAdd64]; split <;> omega
      · simp [hj]
    · have := h1 j; have := h2 j hj
      simp [List.getD_eq_getElem?_getD, show j < 64 by omega, hj, satAdd64] at *
      omega
  · obtain ⟨h1, h2⟩ := h.kWear hz
    refine ⟨fun j => ?_, fun j hj => ?_⟩
    · rcases Nat.lt_or_ge j 256 with hj | hj
      · simp [List.getD_eq_getElem?_getD, hj, satAdd64] <;> omega
      · simp [List.getD_eq_getElem?_getD, hj]
    · have := h1 j; have := h2 j hj
      simp [List.getD_eq_getElem?_getD, hj, satAdd64] at *
      omega

/-- restore keeps it. -/
@[simp] theorem keeps_restore (hk : Keeps qt z s) :
    Keeps qt z (s.restore) := by
  unfold State.restore
  simp +contextual (maxDischargeDepth := 20) [hk]

/-- noRestore keeps it. -/
@[simp] theorem keeps_noRestore (hk : Keeps qt z s) :
    Keeps qt z (s.noRestore) := by
  simp [State.noRestore, hk]

/-- stlSnap keeps it. -/
@[simp] theorem keeps_stlSnap (hk : Keeps qt z s) : Keeps qt z s.stlSnap := by
  simp [State.stlSnap, hk]

/-- stlClear keeps it. -/
@[simp] theorem keeps_stlClear (hk : Keeps qt z s) : Keeps qt z s.stlClear := by
  simp [State.stlClear, hk]

/-- writeErr keeps it. -/
@[simp] theorem keeps_writeErr (hk : Keeps qt z s) (i : ErrId) (v : W64) :
    Keeps qt z (s.writeErr i v) := by
  unfold State.writeErr
  extract_lets n c d e u
  have hu : Keeps qt z u := keeps_setErr hk _ _
  split
  · exact keeps_emitEngine hu _ _
  · exact hu

end Sys2Proof.Machine
end

