-- ==== Sys2Proof/Laws/KeepsLegend.lean ====
section
/-! SUPPORT. The operations of Machine/Legend.lean keep what every command keeps. -/

namespace Sys2Proof.Machine

open Sys2Proof

variable {qt : Bool} {z s : State}

/-- verified keeps it. -/
@[simp] theorem keeps_verified (hk : Keeps qt z s) :
    Keeps qt z (s.verified) := by
  simp [State.verified, hk]

/-- badCmd keeps it. -/
@[simp] theorem keeps_badCmd (hk : Keeps qt z s) :
    Keeps qt z (s.badCmd) := by
  exact hk

/-- startLoad keeps it. -/
@[simp] theorem keeps_startLoad (hk : Keeps qt z s) (viaCfg : Bool) :
    Keeps qt z (s.startLoad viaCfg) := by
  exact hk

/-- lgdBegin keeps it. -/
@[simp] theorem keeps_lgdBegin (hk : Keeps qt z s) :
    Keeps qt z (s.lgdBegin) := by
  simp [State.lgdBegin, hk]

/-- lgdData keeps it. -/
@[simp] theorem keeps_lgdData (hk : Keeps qt z s) (v : W64) :
    Keeps qt z (s.lgdData v) := by
  simp [State.lgdData, hk]

/-- fetchPiece keeps it. -/
@[simp] theorem keeps_fetchPiece (hk : Keeps qt z s) :
    Keeps qt z (s.fetchPiece) := by
  simp [State.fetchPiece, hk]

/-- fetchLegend keeps it. -/
@[simp] theorem keeps_fetchLegend (hk : Keeps qt z s) :
    Keeps qt z (s.fetchLegend) := by
  unfold State.fetchLegend
  simp +contextual (maxDischargeDepth := 20) [hk]

/-- fetchResponse keeps it. -/
@[simp] theorem keeps_fetchResponse (hk : Keeps qt z s) (bad : Bool) :
    Keeps qt z (s.fetchResponse bad) := by
  unfold State.fetchResponse
  simp +contextual (maxDischargeDepth := 20) [hk]

/-- dropFetch keeps it. -/
@[simp] theorem keeps_dropFetch (h : Keeps qt z s) : Keeps qt z s.dropFetch := h

/-- lgdDiscard keeps it. -/
@[simp] theorem keeps_lgdDiscard (h : Keeps qt z s) : Keeps qt z s.lgdDiscard := keeps_ite (fun _ => keeps_dropFetch h) fun _ => h

/-- takeThresholds keeps it. -/
@[simp] theorem keeps_takeThresholds (h : Keeps qt z s) (t : Nat) : Keeps qt z (s.takeThresholds t) := by
  have h1 : ∀ (l : List Nat) (m : Tab EvQueue), Tab.wf EvQueue.init m = true → Tab.wf EvQueue.init
      (l.foldl (fun e q => e.upd EvQueue.init q fun x => { x with lost := x.lost.take t }) m) = true := by
    intro l
    induction l with
    | nil => exact fun _ hm => hm
    | cons x l ih => exact fun m hm => ih _ (Tab.wf_upd _ hm _ _)
  unfold State.takeThresholds
  generalize List.range 64 = l
  exact { h with kEvqs := fun x => h1 _ _ (h.kEvqs x), kDrops := by simpa using h.kDrops }

/-- trimHolds keeps it. -/
@[simp] theorem keeps_trimHolds (h : Keeps qt z s) : Keeps qt z s.trimHolds := h

/-- trimBudget keeps it. -/
@[simp] theorem keeps_trimBudget (h : Keeps qt z s) : Keeps qt z s.trimBudget := h

/-- Queues disabled stay in canonical form. -/
theorem wf_disableAll (t : Tab CmQueue) (h : Tab.wf CmQueue.init t = true) : Tab.wf CmQueue.init (disableAll t) = true := by
  have h1 : ∀ (l u : Tab CmQueue), Tab.wf CmQueue.init u = true → Tab.wf CmQueue.init (l.foldl
      (fun u e => Tab.set CmQueue.init u e.1 { e.2 with state := .disabled, nums := [], slot := none, pub := e.2.head }) u) = true := by
    intro l
    induction l with
    | nil => exact fun _ hu => hu
    | cons e l ih => exact fun u hu => ih _ (Tab.wf_set _ hu _ _)
  exact h1 t t h

/-- setClocks keeps it. -/
@[simp] theorem keeps_setClocks (hk : Keeps qt z s) :
    Keeps qt z (s.setClocks) := by
  simp [State.setClocks, hk]

/-- sealLegend keeps it. -/
@[simp] theorem keeps_sealLegend (h : Keeps qt z s) (g : Legend) : Keeps qt z (s.sealLegend g) := by
  unfold State.sealLegend
  dsimp only
  refine keeps_ite (fun _ => keeps_almRec (keeps_setClocks (keeps_takeThresholds ?_ _)) _ _) fun _ =>
    keeps_setClocks (keeps_takeThresholds ?_ _)
  all_goals split <;> exact
    { h with kCtxs := fun _ => rfl, kRts := fun _ => rfl, kCmqs := fun w => wf_disableAll _ (h.kCmqs w), kAcc := fun _ => Nat.zero_le _, kBatches := by simpa using h.kBatches }

/-- lgdSeal keeps it. -/
@[simp] theorem keeps_lgdSeal (hk : Keeps qt z s) :
    Keeps qt z (s.lgdSeal) := by
  unfold State.lgdSeal
  (repeat' split) <;> simp (maxDischargeDepth := 20) [hk]

/-- dropScratchWays keeps it. -/
@[simp] theorem keeps_dropScratchWays (hk : Keeps qt z s) (ways : Nat) :
    Keeps qt z (s.dropScratchWays ways) := by
  exact hk

/-- applyLegend keeps it. -/
@[simp] theorem keeps_applyLegend (hk : Keeps qt z s) :
    Keeps qt z (s.applyLegend) := by
  unfold State.applyLegend
  (repeat' split) <;> simp (maxDischargeDepth := 20) [hk]

end Sys2Proof.Machine
end

