-- ==== Sys2Proof/Laws/KeepsFlags.lean ====
section
/-! SUPPORT. The operations of Machine/Flags.lean keep what every command keeps. -/

namespace Sys2Proof.Machine

open Sys2Proof

variable {qt : Bool} {z s : State}

/-- countStall keeps it. -/
@[simp] theorem keeps_countStall (hk : Keeps qt z s) (base ch i n : Nat) :
    Keeps qt z (s.countStall base ch i n) := by
  simp [State.countStall, hk]

/-- countWork keeps it. -/
@[simp] theorem keeps_countWork (hk : Keeps qt z s) (base ch busy : Nat) (stalls : List (Nat × Nat)) :
    Keeps qt z (s.countWork base ch busy stalls) := by
  unfold State.countWork
  simp +contextual (maxDischargeDepth := 20) [hk]

end Sys2Proof.Machine
end

