-- ==== Sys2Proof/Laws/KeepsDrain.lean ====
section
/-! SUPPORT. The operations of Machine/Drain.lean keep what every command keeps. -/

namespace Sys2Proof.Machine

open Sys2Proof

variable {qt : Bool} {z s : State}

/-- fixAnchor keeps it. -/
@[simp] theorem keeps_fixAnchor (h : Keeps qt z s) (w : Work) (n : Nat) : Keeps qt z (s.fixAnchor w n) := by
  unfold State.fixAnchor
  split
  · split
    · exact keeps_ite (fun _ => h) fun _ => { h with kArrs := by simpa using h.kArrs }
    · exact h
  · exact h

/-- fixAnchors keeps it. -/
@[simp] theorem keeps_fixAnchors (h : Keeps qt z s) (w : Work) : Keeps qt z (s.fixAnchors w) :=
  keeps_foldl (fun _ _ hx => keeps_fixAnchor hx _ _) _ h

/-- countFill keeps it. -/
@[simp] theorem keeps_countFill (h : Keeps qt z s) (p : Prod) (l : List (Nat × Nat)) : Keeps qt z (s.countFill p l) :=
  keeps_foldl (fun _ _ hx => keeps_ite (fun _ => hx) fun _ => keeps_countWork hx _ _ _ _) _ h

/-- noteWrites keeps it. -/
@[simp] theorem keeps_noteWrites (h : Keeps qt z s) (id : CmdId) (n ch : Nat) : Keeps qt z (s.noteWrites id n ch) := h

/-- regionWritten keeps it. -/
@[simp] theorem keeps_regionWritten (h : Keeps qt z s) (ctx : Nat) (ws : List Host.Cell) : Keeps qt z (s.regionWritten ctx ws) := h

/-- writeOwed keeps it. -/
@[simp] theorem keeps_writeOwed (hk : Keeps false z s) (id : CmdId) (ws : List (Nat × Byte)) :
    Keeps false z (s.writeOwed id ws) := keeps_memAdd (keeps_updCmd (keeps_bulkWrite hk _) _ _) _

/-- putFields keeps it. -/
@[simp] theorem keeps_putFields (hk : Keeps false z s) (id : CmdId) (fs : List (Nat × Nat × Nat)) :
    Keeps false z (s.putFields id fs) := by
  simp [State.putFields, hk]

/-- count keeps it. -/
@[simp] theorem keeps_count (hk : Keeps qt z s) (id : CmdId) (f : Counts → Counts) :
    Keeps qt z (s.count id f) := by
  exact hk

/-- touchRegion keeps it. -/
@[simp] theorem keeps_touchRegion (h : Keeps qt z s) (id : CmdId) (idx : Nat) : Keeps qt z (s.touchRegion id idx) := by
  unfold State.touchRegion
  split
  · exact h
  · exact keeps_updCmd h _ _

/-- carryRegion keeps it. -/
@[simp] theorem keeps_carryRegion (h : Keeps false z s) (id : CmdId) (p : Prod) (t : TDesc) (idx : Nat) :
    Keeps false z (s.carryRegion id p t idx) := by
  unfold State.carryRegion
  split
  · exact h
  · exact keeps_ite (fun _ => h) fun _ => keeps_updCmd (keeps_putFields h _ _) _ _

/-- drainRegion keeps it. -/
@[simp] theorem keeps_drainRegion (h : Keeps false z s) (c : Cmd) (p : Prod) (t : TDesc) (idx : Nat) (os : List OutVal) :
    Keeps false z (s.drainRegion c p t idx os) :=
  keeps_ite (fun _ => h) fun _ => keeps_count (keeps_updCmd (keeps_regionWritten
    (keeps_putFields (keeps_readBytes (keeps_carryRegion (keeps_touchRegion h _ _) _ _ _ _) _) _ _) _ _) _ _) _ _

/-- addContribs keeps it. -/
@[simp] theorem keeps_addContribs (hk : Keeps qt z s) (id : CmdId) (cs : List Contrib) : Keeps qt z (s.addContribs id cs) := by
  simp [State.addContribs, hk]

/-- putOuts keeps it. -/
@[simp] theorem keeps_putOuts (h : Keeps false z s) (c : Cmd) (p : Prod) (os : List (Nat × OutVal)) :
    Keeps false z (s.putOuts c p os) := by
  unfold State.putOuts
  dsimp only
  split
  · exact keeps_count (keeps_putFields (keeps_readBytes h _) _ _) _ _
  · exact keeps_putFields h _ _
  · exact keeps_drainRegion h _ _ _ _ _
  · exact keeps_addContribs h _ _

/-- storeOuts keeps it. -/
@[simp] theorem keeps_storeOuts (h : Keeps false z s) (c : Cmd) (p : Prod) (os : List (Nat × OutVal)) :
    Keeps false z (s.storeOuts c p os) :=
  keeps_putOuts (keeps_count h _ _) _ _ _

/-- setHeld keeps it. -/
@[simp] theorem keeps_setHeld (hk : Keeps qt z s) (id : CmdId) (h : List BlkSum) :
    Keeps qt z (s.setHeld id h) := by
  simp [State.setHeld, hk]

/-- freeShares keeps it. -/
@[simp] theorem keeps_freeShares (h : Keeps qt z s) (w : Work) : Keeps qt z (s.freeShares w) := { h with kArrs := by simpa [State.freeShares] using h.kArrs }

/-- putSlab keeps it. -/
@[simp] theorem keeps_putSlab (h : Keeps qt z s) (a : Nat) (x : BlkSum) : Keeps qt z (s.putSlab a x) :=
  { h with kArrs := by simpa [State.putSlab] using h.kArrs }

/-- dropFlits keeps it. -/
@[simp] theorem keeps_dropFlits (h : Keeps qt z s) (a : Nat) (r : PartRef) : Keeps qt z (s.dropFlits a r) :=
  { h with kArrs := by simpa [State.dropFlits] using h.kArrs, kTiles := by simpa [State.dropFlits] using h.kTiles }

/-- stopBlk keeps it. -/
@[simp] theorem keeps_stopBlk (h : Keeps qt z s) (id : CmdId) (e : BlkErr) : Keeps qt z (s.stopBlk id e) := by
  cases e
  · exact keeps_abort h _ _
  · exact keeps_laneFault h _ _

/-- finishBlk keeps it, and so does a run of blocks (runBlks). -/
@[simp] theorem keeps_finishBlk (h : Keeps false z s) (c : Cmd) (w : Work) (x : BlkSum) : Keeps false z (s.finishBlk c w x) := by
  unfold State.finishBlk
  split
  · exact h
  · extract_lets
    exact keeps_ite (fun _ => keeps_setHeld h _ _) fun _ =>
      keeps_freeShares (keeps_updCmd (keeps_setHeld (keeps_noteWrites (keeps_storeOuts h _ _ _) _ _ _) _ _) _ _) _

/-- filledBlk keeps it. -/
@[simp] theorem keeps_filledBlk (h : Keeps false z s) (c : Cmd) (w : Work) (rs : Nat) (b : Blk) (p : Prod) (x : BlkSum) :
    Keeps false z (s.filledBlk c w rs b p x) := by
  unfold State.filledBlk
  extract_lets s1
  have h1 : Keeps false z s1 := keeps_ite (fun _ => keeps_dropFlits h _ _) fun _ => h
  refine keeps_ite (fun _ => keeps_putSlab h1 _ _) fun _ => ?_
  have h2 := keeps_finishBlk h1 c w x
  exact { h2 with kArrs := by simpa using h2.kArrs }

/-- runBlks keeps it. -/
@[simp] theorem keeps_runBlks (w : Work) (l : List (Nat × Nat)) (h : Keeps false z s) : Keeps false z (State.runBlks w l s) := by
  induction l generalizing s with
  | nil => exact h
  | cons n l ih =>
    unfold State.runBlks
    have h1 : Keeps false z (s.fixAnchor w n.1) := keeps_fixAnchor h w n.1
    repeat' first | exact h | exact ih h | exact ih h1 | exact keeps_stopBlk (keeps_countFill h1 _ _) _ _
                  | exact ih (keeps_filledBlk (keeps_countFill h1 _ _) _ _ _ _ _ _) | split | dsimp only

end Sys2Proof.Machine
end

