-- ==== Sys2Proof/Laws/KeepsArrayOps.lean ====
section
/-! SUPPORT. The operations of Machine/ArrayOps.lean keep what every command keeps. -/

namespace Sys2Proof.Machine

open Sys2Proof

variable {qt : Bool} {z s : State}

/-- runOp keeps it where the change does. -/
@[simp] theorem keeps_runOp (h : Keeps qt z s) (id : CmdId) (op : Nat) (f : Cmd → State) (hf : ∀ c, Keeps qt z (f c)) :
    Keeps qt z (s.runOp id op f) := by
  unfold State.runOp
  split
  · exact keeps_ite (fun _ => hf _) fun _ => h
  · exact h

/-- finishRun keeps it. -/
@[simp] theorem keeps_finishRun (hk : Keeps qt z s) (id : CmdId) :
    Keeps qt z (s.finishRun id) := by
  simp [State.finishRun, hk]

/-- feedRest keeps it. -/
@[simp] theorem keeps_feedRest (h : Keeps qt z s) (id : CmdId) : Keeps qt z (s.feedRest id) := keeps_readBytes h _

/-- countSpur keeps it. -/
@[simp] theorem keeps_countSpur (h : Keeps qt z s) (n kr : Nat) : Keeps qt z (s.countSpur n kr) :=
  keeps_foldl (fun _ _ hx => keeps_countWork hx _ _ _ _) _ h

/-- runSpur keeps it. -/
@[simp] theorem keeps_runSpur (h : Keeps false z s) (c : Cmd) : Keeps false z (s.runSpur c) :=
  keeps_finishRun (keeps_foldl (fun _ _ hx => keeps_storeOuts (keeps_countSpur hx _ _) _ _ _) _ (keeps_feedRest h _)) _

/-- runArray keeps it. -/
@[simp] theorem keeps_runArray (h : Keeps false z s) (c : Cmd) : Keeps false z (s.runArray c) := by
  unfold State.runArray
  refine keeps_ite (fun _ => keeps_runSpur h c) fun _ => keeps_ite (fun _ => h) fun _ => ?_
  have h1 := keeps_runBlks (s.work c) ((s.work c).runOrder (List.range (s.work c).bs.length)) (keeps_feedRest h c.id)
  dsimp only
  split
  · exact keeps_ite (fun _ => keeps_finishRun h1 _) fun _ => h1
  · exact h1

/-- zeroGroup keeps it. -/
@[simp] theorem keeps_zeroGroup (h : Keeps false z s) (id : CmdId) (g : GEntry) : Keeps false z (s.zeroGroup id g) := by
  unfold State.zeroGroup
  split
  · exact h
  · split
    · exact h
    · exact keeps_ite (fun _ => h) fun _ => keeps_updCmd (keeps_putFields h _ _) _ _

/-- mergeSlab keeps it. -/
@[simp] theorem keeps_mergeSlab (hk : Keeps false z s) (c : Cmd) :
    Keeps false z (s.mergeSlab c) := by
  simp [State.mergeSlab, hk]

/-- routing keeps it. -/
@[simp] theorem keeps_routing (hk : Keeps false z s) (c : Cmd) :
    Keeps false z (s.routing c) := by
  simp [State.routing, hk]

/-- runGroup keeps it. -/
@[simp] theorem keeps_runGroup (h : Keeps false z s) (w : Work) (g : Nat × GEntry) : Keeps false z (State.runGroup w s g) :=
  keeps_zeroGroup (keeps_runBlks _ _ h) _ _

/-- runGrouped keeps it. -/
@[simp] theorem keeps_runGrouped (h : Keeps false z s) (c : Cmd) : Keeps false z (s.runGrouped c) := by
  unfold State.runGrouped
  refine keeps_ite (fun _ => h) fun _ => ?_
  generalize s.groupRun c = g
  obtain ⟨gs, fault⟩ := g
  dsimp only
  have h2 := keeps_foldl (fun _ x hs => keeps_runGroup hs (s.work c) x) gs (keeps_feedRest h c.id)
  revert h2
  generalize List.foldl _ _ gs = t
  intro h2
  split
  · exact h2
  · refine keeps_ite (fun _ => h2) fun _ => ?_
    split
    · exact keeps_abort h2 _ _
    · exact keeps_finishRun (keeps_routing (keeps_ite (fun _ => keeps_mergeSlab h2 c) fun _ => h2) c) _

end Sys2Proof.Machine
end

