-- ==== Sys2Proof/Laws/KeepsCopying.lean ====
section
/-! SUPPORT. The operations of Machine/Copying.lean keep what every command keeps. -/

namespace Sys2Proof.Machine

open Sys2Proof

variable {qt : Bool} {z s : State}

/-- storeTensor keeps it. -/
@[simp] theorem keeps_storeTensor (hk : Keeps false z s) (c : Cmd) (d : TDesc) (given : Bool) (xs : List (Nat × Nat × XVal)) :
    Keeps false z (s.storeTensor c d given xs) := by
  simp [State.storeTensor, hk]

/-- runSurvey keeps it. -/
@[simp] theorem keeps_runSurvey (hk : Keeps false z s) (c : Cmd) :
    Keeps false z (s.runSurvey c) := by
  unfold State.runSurvey
  simp +contextual (maxDischargeDepth := 20) [hk]

/-- runDeriv keeps it. -/
@[simp] theorem keeps_runDeriv (h : Keeps false z s) (c : Cmd) : Keeps false z (s.runDeriv c) :=
  keeps_finishRun (keeps_storeTensor (keeps_readBytes h _) _ _ _ _) _

/-- runCopy keeps it. -/
@[simp] theorem keeps_runCopy (hk : Keeps false z s) (c : Cmd) :
    Keeps false z (s.runCopy c) := by
  unfold State.runCopy
  simp +contextual (maxDischargeDepth := 20) [hk]

/-- runFill keeps it. -/
@[simp] theorem keeps_runFill (hk : Keeps false z s) (c : Cmd) : Keeps false z (s.runFill c) :=
  keeps_finishRun (keeps_count (keeps_putFields hk _ _) _ _) _

end Sys2Proof.Machine
end

