-- ==== Sys2Proof/Laws/KeepsFaults.lean ====
section
/-! SUPPORT. The operations of Machine/Faults.lean keep what every command keeps. -/

namespace Sys2Proof.Machine

open Sys2Proof

variable {qt : Bool} {z s : State}

/-- undefineList keeps it. -/
@[simp] theorem keeps_undefineList (h : Keeps false z s) (l : List Nat) : Keeps false z (s.undefineList l) := by
  exact { h with kMem := fun w => Tab.wf_foldl_set _ _ _ _ (h.kMem w),
                 kUndef := fun w => Tab.wf_foldl_set none _ _ _ (h.kUndef w), kQuiet := nofun }

/-- tearRegions keeps it. -/
@[simp] theorem keeps_tearRegions (h : Keeps false z s) (c : Cmd) : Keeps false z (s.tearRegions c).2 := by
  have h1 : ∀ (l : List Nat) (x : Nat × State), Keeps false z x.2 → Keeps false z (l.foldl (fun x k =>
      let r := x.2.region c.ctx k
      if r.shadow then (x.1, x.2.undefine (r.writeAt r.base) r.size)
      else (x.1 + (if r.torn then 0 else 1), (x.2.undefine r.base r.size).setRState c.ctx k 2)) x).2 := by
    intro l
    induction l with
    | nil => exact fun _ hx => hx
    | cons k l ih =>
      refine fun x hx => ih _ ?_
      dsimp only
      split
      · exact keeps_undefine hx _ _
      · exact keeps_setRState (keeps_undefine hx _ _) _ _ _
  exact h1 _ _ h

/-- endAbort keeps it. -/
@[simp] theorem keeps_endAbort (h : Keeps false z s) (c : Cmd) (f : Cause) : Keeps false z (s.endAbort c f) :=
  keeps_closeCmd (keeps_updRt (keeps_undefineList (keeps_tearRegions h _) _) _ _) _ _ _

/-- finishAbort keeps it. -/
@[simp] theorem keeps_finishAbort (h : Keeps false z s) (id : CmdId) : Keeps false z (s.finishAbort id) := by
  unfold State.finishAbort
  split
  · exact h
  · split
    · exact h
    · exact keeps_ite (fun _ => keeps_endAbort h _ _) fun _ => h

/-- isolate keeps it: what is out of service stays out. -/
@[simp] theorem keeps_isolate (h : Keeps qt z s) (ch : Nat) (cause : Cause) (code detail : Nat) (tile : Option Nat) :
    Keeps qt z (s.isolate ch cause code detail tile) := by
  unfold State.isolate
  refine keeps_ite (fun _ => h) fun _ => keeps_ite (fun _ => ?_) fun _ => ?_
  · refine keeps_countEsc (keeps_leaveService (keeps_addLife ?_ _ _) _ _ _ _) _ _
    exact { h with kIsolated := fun c hc => by simp [testBit_putBits_one, h.kIsolated c hc] }
  · refine keeps_countEsc (keeps_foldl (fun s id hs => keeps_abort hs _ _) _ (keeps_safety (keeps_addLife ?_ _ _) _ _ _ _ _)) _ _
    exact h

/-- isolateAs keeps it. -/
@[simp] theorem keeps_isolateAs (hk : Keeps qt z s) (ch code detail : Nat) :
    Keeps qt z (s.isolateAs ch code detail) := by
  simp [State.isolateAs, hk]

/-- handOver keeps it. -/
@[simp] theorem keeps_handOver (hk : Keeps qt z s) (ch : Nat) :
    Keeps qt z (s.handOver ch) := by
  exact hk

/-- enterSafe keeps it. -/
@[simp] theorem keeps_enterSafe (hk : Keeps qt z s) (ports : Nat) :
    Keeps qt z (s.enterSafe ports) := by
  exact hk

/-- A context reset acknowledged is one still: nothing else of a context's run-time state changes. -/
theorem CtxRt.ack_init (r : CtxRt) (h : r.ack = CtxRt.init) : r = CtxRt.init := by
  have h1 := congrArg CtxRt.resetting h
  have h2 : r.resetting = none := by simpa [CtxRt.ack, CtxRt.init] using h1
  have h3 : r.ack = r := by simp [CtxRt.ack, h2]; rw [← h2]
  exact h3 ▸ h

/-- Acknowledging every context reset keeps it. -/
@[simp] theorem keeps_ackAll (h : Keeps qt z s) : Keeps qt z { s with rts := s.rts.map fun e => (e.1, e.2.ack) } :=
  { h with kRts := fun x => Tab.wf_map _ _ CtxRt.ack_init (h.kRts x) }

/-- startComputeReset keeps it. -/
@[simp] theorem keeps_startComputeReset (hk : Keeps qt z s) :
    Keeps qt z (s.startComputeReset) := by
  unfold State.startComputeReset
  simp +contextual (maxDischargeDepth := 20) [hk]

/-- writeReset keeps it. -/
@[simp] theorem keeps_writeReset (hk : Keeps qt z s) (v : W64) :
    Keeps qt z (s.writeReset v) := by
  unfold State.writeReset
  simp +contextual (maxDischargeDepth := 20) [hk]

end Sys2Proof.Machine
end

