-- ==== Sys2Proof/Laws/KeepsRound.lean ====
section
/-! SUPPORT. The operations of Machine/Round.lean keep what every command keeps. -/

namespace Sys2Proof.Machine

open Sys2Proof

variable {qt : Bool} {z s : State}

/-- setRecWord keeps it. -/
@[simp] theorem keeps_setRecWord (hk : Keeps false z s) (ctx rec_ : Nat) (f : Nat → Nat) :
    Keeps false z (s.setRecWord ctx rec_ f) := by
  simp [State.setRecWord, hk]

/-- commitRec keeps it. -/
@[simp] theorem keeps_commitRec (hk : Keeps false z s) (ctx : Nat) (u : UpdRec) :
    Keeps false z (s.commitRec ctx u) := by
  simp [State.commitRec, hk]

/-- flipWork keeps it. -/
@[simp] theorem keeps_flipWork (hk : Keeps false z s) (ctx rec_ : Nat) :
    Keeps false z (s.flipWork ctx rec_) := by
  simp [State.flipWork, hk]

/-- commitUpdates keeps it. -/
@[simp] theorem keeps_commitUpdates (hk : Keeps false z s) (ctx : Nat) :
    Keeps false z (s.commitUpdates ctx) := by
  unfold State.commitUpdates
  simp +contextual (maxDischargeDepth := 20) [hk]

/-- settleGathers keeps it. -/
@[simp] theorem keeps_settleGathers (hk : Keeps false z s) (ctx : Nat) :
    Keeps false z (s.settleGathers ctx) := by
  unfold State.settleGathers
  simp +contextual (maxDischargeDepth := 20) [hk]

/-- zeroRegion keeps it. -/
@[simp] theorem keeps_zeroRegion (hk : Keeps false z s) (ctx k : Nat) :
    Keeps false z (s.zeroRegion ctx k) := by
  simp [State.zeroRegion, hk]

/-- flipSel keeps it. -/
@[simp] theorem keeps_flipSel (hk : Keeps false z s) (ctx k : Nat) :
    Keeps false z (s.flipSel ctx k) := by
  simp [State.flipSel, hk]

/-- sealStep keeps it. -/
@[simp] theorem keeps_sealStep (hk : Keeps false z s) (ctx : Nat) (t : StepRec) :
    Keeps false z (s.sealStep ctx t) := by
  unfold State.sealStep
  (repeat' split) <;> simp (maxDischargeDepth := 20) [hk]

/-- markLate keeps it. -/
@[simp] theorem keeps_markLate (hk : Keeps qt z s) (ctx : Nat) : Keeps qt z (s.markLate ctx) := keeps_updRt hk _ _

/-- sealRound keeps it. -/
@[simp] theorem keeps_sealRound (hk : Keeps false z s) (ctx : Nat) :
    Keeps false z (s.sealRound ctx) := by
  unfold State.sealRound
  simp +contextual (maxDischargeDepth := 20) [hk]

/-- discardUpdates keeps it. -/
@[simp] theorem keeps_discardUpdates (hk : Keeps false z s) (ctx : Nat) :
    Keeps false z (s.discardUpdates ctx) := by
  unfold State.discardUpdates
  simp +contextual (maxDischargeDepth := 20) [hk]

/-- countVoid keeps it. -/
@[simp] theorem keeps_countVoid (hk : Keeps qt z s) (ctx : Nat) :
    Keeps qt z (s.countVoid ctx) := by
  simp [State.countVoid, hk]

/-- dropFrames keeps it. -/
@[simp] theorem keeps_dropFrames (hk : Keeps qt z s) (ctx : Nat) :
    Keeps qt z (s.dropFrames ctx) := by
  exact hk

/-- voidRecord keeps it. -/
@[simp] theorem keeps_voidRecord (hk : Keeps qt z s) (ctx flushed : Nat) :
    Keeps qt z (s.voidRecord ctx flushed) := by
  simp [State.voidRecord, hk]

/-- pauseQueues keeps it. -/
@[simp] theorem keeps_pauseQueues (hk : Keeps qt z s) (ctx : Nat) :
    Keeps qt z (s.pauseQueues ctx) := by
  unfold State.pauseQueues
  simp +contextual (maxDischargeDepth := 20) [hk]

/-- freshRegions keeps it. -/
@[simp] theorem keeps_freshRegions (hk : Keeps false z s) (ctx : Nat) :
    Keeps false z (s.freshRegions ctx) := by
  unfold State.freshRegions
  simp +contextual (maxDischargeDepth := 20) [hk]

/-- forgetDrains keeps it. -/
@[simp] theorem keeps_forgetDrains (h : Keeps qt z s) (ctx : Nat) : Keeps qt z (s.forgetDrains ctx) := h

/-- voidRound keeps it. -/
@[simp] theorem keeps_voidRound (hk : Keeps false z s) (ctx : Nat) :
    Keeps false z (s.voidRound ctx) := by
  unfold State.voidRound
  simp +contextual (maxDischargeDepth := 20) [hk]

/-- voidByReset keeps it. -/
@[simp] theorem keeps_voidByReset (hk : Keeps false z s) (ctx : Nat) :
    Keeps false z (s.voidByReset ctx) := by
  unfold State.voidByReset
  simp +contextual (maxDischargeDepth := 20) [hk]

/-- undecide keeps it. -/
@[simp] theorem keeps_undecide (hk : Keeps qt z s) (ctx : Nat) :
    Keeps qt z (s.undecide ctx) := by
  unfold State.undecide
  simp +contextual (maxDischargeDepth := 20) [hk]

/-- resumeQueues keeps it. -/
@[simp] theorem keeps_resumeQueues (hk : Keeps qt z s) (ctx : Nat) :
    Keeps qt z (s.resumeQueues ctx) := by
  unfold State.resumeQueues
  simp +contextual (maxDischargeDepth := 20) [hk]

end Sys2Proof.Machine
end

