-- ==== Sys2Proof/Laws/KeepsTraverse.lean ====
section
/-! SUPPORT. The operations of Machine/Traverse.lean keep what every command keeps. -/

namespace Sys2Proof.Machine

open Sys2Proof

variable {qt : Bool} {z s : State}

/-- trvDrop keeps it. -/
@[simp] theorem keeps_trvDrop (hk : Keeps qt z s) (ctx tag : Nat) (broken : Bool) (fault : Option Cause) (engine : Bool) :
    Keeps qt z (s.trvDrop ctx tag broken fault engine) := by
  unfold State.trvDrop
  (repeat' split) <;> simp (maxDischargeDepth := 20) [hk]

/-- setRx keeps it. -/
@[simp] theorem keeps_setRx (hk : Keeps qt z s) (port : Nat) (r : List TrvRx) :
    Keeps qt z (s.setRx port r) := by
  exact hk

/-- takeFrame keeps it. -/
@[simp] theorem keeps_takeFrame (hk : Keeps false z s) (port : Nat) (h : TrvHead) (place : Bool × Nat) (bytes : List Byte) :
    Keeps false z (s.takeFrame port h place bytes) := by
  unfold State.takeFrame
  simp +contextual (maxDischargeDepth := 20) [hk]

/-- trvPush keeps it. -/
@[simp] theorem keeps_trvPush (hk : Keeps false z s) (port : Nat) (bytes : List Byte) :
    Keeps false z (s.trvPush port bytes) := by
  unfold State.trvPush
  dsimp only
  repeat' first | exact hk | (simp (maxDischargeDepth := 20) [*]; done) | split | (refine keeps_foldl (fun _ _ _ => ?_) _ ?_) | dsimp only

/-- trvCommit keeps it. -/
@[simp] theorem keeps_trvCommit (hk : Keeps qt z s) (port : Nat) :
    Keeps qt z (s.trvCommit port) := by
  unfold State.trvCommit
  (repeat' split) <;> simp (maxDischargeDepth := 20) [hk]

/-- leaveOwed keeps it. -/
@[simp] theorem keeps_leaveOwed (h : Keeps qt z s) (r : TrvRx) : Keeps qt z (s.leaveOwed r) := by
  have h1 : Keeps qt z ((s.memStop (.frame r.id) r.owed).2.memLeave (.frame r.id) fun _ => true) := keeps_memLeave (keeps_memStop h _ _) _ _
  unfold State.leaveOwed
  dsimp only
  split
  · exact keeps_updRt h1 _ _
  · exact h1

/-- trvFail keeps it. -/
@[simp] theorem keeps_trvFail (hk : Keeps qt z s) (port id : Nat) (f : Cause) :
    Keeps qt z (s.trvFail port id f) := by
  unfold State.trvFail
  (repeat' split) <;> simp (maxDischargeDepth := 20) [hk]

/-- trvRemove keeps it. -/
@[simp] theorem keeps_trvRemove (hk : Keeps qt z s) (ctx : Nat) (ids popped : List Nat) :
    Keeps qt z (s.trvRemove ctx ids popped) := by
  unfold State.trvRemove
  simp +contextual (maxDischargeDepth := 20) [hk]

/-- popFrames keeps it. -/
@[simp] theorem keeps_popFrames (hk : Keeps qt z s) (c : Cmd) :
    Keeps qt z (s.popFrames c) := by
  unfold State.popFrames
  dsimp only
  repeat' first | exact hk | (simp (maxDischargeDepth := 20) [*]; done) | split | (refine keeps_foldl (fun _ _ _ => ?_) _ ?_) | dsimp only

/-- settleDiscard keeps it. -/
@[simp] theorem keeps_settleDiscard (hk : Keeps qt z s) (ctx entry : Nat) :
    Keeps qt z (s.settleDiscard ctx entry) := by
  exact hk

/-- startDiscard keeps it. -/
@[simp] theorem keeps_startDiscard (hk : Keeps qt z s) (c : Cmd) (ids : List Nat) :
    Keeps qt z (s.startDiscard c ids) := by
  unfold State.startDiscard
  simp +contextual (maxDischargeDepth := 20) [hk]

/-- pushMark keeps it. -/
@[simp] theorem keeps_pushMark (hk : Keeps false z s) (c : Cmd) :
    Keeps false z (s.pushMark c) := by
  unfold State.pushMark
  (repeat' split) <;> simp (maxDischargeDepth := 20) [hk]

/-- discardToMark keeps it. -/
@[simp] theorem keeps_discardToMark (hk : Keeps qt z s) (c : Cmd) :
    Keeps qt z (s.discardToMark c) := by
  unfold State.discardToMark
  dsimp only
  repeat' first | exact hk | (simp (maxDischargeDepth := 20) [*]; done) | split | (refine keeps_foldl (fun _ _ _ => ?_) _ ?_) | dsimp only

/-- discardEvery keeps it. -/
@[simp] theorem keeps_discardEvery (hk : Keeps qt z s) (c : Cmd) :
    Keeps qt z (s.discardEvery c) := by
  simp [State.discardEvery, hk]

/-- trvReset keeps it. -/
@[simp] theorem keeps_trvReset (hk : Keeps qt z s) (ctx : Nat) :
    Keeps qt z (s.trvReset ctx) := by
  unfold State.trvReset
  simp +contextual (maxDischargeDepth := 20) [hk]

/-- trvDestroy keeps it. -/
@[simp] theorem keeps_trvDestroy (h : Keeps qt z s) (ctx : Nat) : Keeps qt z (s.trvDestroy ctx) :=
  keeps_updRt (keeps_trvReset h ctx) _ _

end Sys2Proof.Machine
end

