-- ==== Sys2Proof/Laws/KeepsMosaic.lean ====
section
/-! SUPPORT. The operations of Machine/Mosaic.lean keep what every command keeps. -/

namespace Sys2Proof.Machine

open Sys2Proof

variable {qt : Bool} {z s : State}

/-- mosSend keeps it. -/
@[simp] theorem keeps_mosSend (hk : Keeps qt z s) (ctx lane : Nat) (h : MosHead) (payload : List Byte) :
    Keeps qt z (s.mosSend ctx lane h payload) := by
  simp [State.mosSend, hk]

/-- sendToken keeps it. -/
@[simp] theorem keeps_sendToken (hk : Keeps qt z s) (ctx kind flags : Nat) :
    Keeps qt z (s.sendToken ctx kind flags) := by
  unfold State.sendToken
  simp +contextual (maxDischargeDepth := 20) [hk]

/-- updStep keeps it. -/
@[simp] theorem keeps_updStep (hk : Keeps qt z s) (ctx idx : Nat) (f : StepRec → StepRec) :
    Keeps qt z (s.updStep ctx idx f) := by
  simp [State.updStep, hk]

/-- sendSegs keeps it. -/
@[simp] theorem keeps_sendSegs (hk : Keeps qt z s) (ctx : Nat) (h : MosHead) (lane eb : Nat) (codes : List Nat) :
    Keeps qt z (s.sendSegs ctx h lane eb codes) := by
  unfold State.sendSegs
  simp +contextual (maxDischargeDepth := 20) [hk]

/-- sendRow keeps it. -/
@[simp] theorem keeps_sendRow (hk : Keeps qt z s) (c : Cmd) (st : StepRec) (shard row : Nat) (xs : List XVal) :
    Keeps qt z (s.sendRow c st shard row xs) := by
  simp [State.sendRow, hk]

/-- sendLong keeps it. -/
@[simp] theorem keeps_sendLong (hk : Keeps qt z s) (c : Cmd) (st : StepRec) (shard row : Nat) (xs : List Int) :
    Keeps qt z (s.sendLong c st shard row xs) := by
  simp [State.sendLong, hk]

/-- ownerRow keeps it. -/
@[simp] theorem keeps_ownerRow (hk : Keeps false z s) (c : Cmd) (st : StepRec) (row : Nat) (xs : List XVal) (ls : List Int) :
    Keeps false z (s.ownerRow c st row xs ls) := by
  unfold State.ownerRow
  simp +contextual (maxDischargeDepth := 20) [hk]

/-- readRows keeps it. -/
@[simp] theorem keeps_readRows (h : Keeps qt z s) (ctx k : Nat) (d : TDesc) (eb : Nat) (rows : List Nat) (cols : Nat) :
    Keeps qt z (s.readRows ctx k d eb rows cols) := keeps_readBytes h _

/-- readOwn keeps it. -/
@[simp] theorem keeps_readOwn (h : Keeps qt z s) (c : Cmd) (t : StepRec) (rows : List Nat) : Keeps qt z (s.readOwn c t rows) := by
  unfold State.readOwn
  have h1 : Keeps qt z (match s.slotRegion c 0 with
      | some r => s.readRows c.ctx r.idx (s.opd c 0 0) (if t.long then 128 else 32) rows t.cols
      | none => s) := by
    split
    · exact keeps_readRows h _ _ _ _ _ _
    · exact h
  dsimp only
  split
  · exact keeps_ite (fun _ => keeps_readRows h1 _ _ _ _ _ _) fun _ => h1
  · exact h1

/-- combineRow keeps it. -/
@[simp] theorem keeps_combineRow (hk : Keeps false z s) (c : Cmd) (st : StepRec) (shard row : Nat) (xs : List XVal) (ls : List Int) :
    Keeps false z (s.combineRow c st shard row xs ls) := by
  unfold State.combineRow
  simp +contextual (maxDischargeDepth := 20) [hk]

/-- settleStep keeps it. -/
@[simp] theorem keeps_settleStep (hk : Keeps qt z s) (ctx idx : Nat) :
    Keeps qt z (s.settleStep ctx idx) := by
  unfold State.settleStep
  (repeat' split) <;> simp (maxDischargeDepth := 20) [hk]

/-- takeReduce keeps it. -/
@[simp] theorem keeps_takeReduce (hk : Keeps false z s) (ctx : Nat) (f : MosFrame) :
    Keeps false z (s.takeReduce ctx f) := by
  unfold State.takeReduce
  dsimp only
  repeat' first | exact hk | (simp (maxDischargeDepth := 20) [*]; done) | split | (refine keeps_foldl (fun _ _ _ => ?_) _ ?_) | dsimp only

/-- sendFactor keeps it. -/
@[simp] theorem keeps_sendFactor (hk : Keeps qt z s) (c : Cmd) (t : StepRec) (gather : Bool) (shard row : Nat) (codes : List Nat) :
    Keeps qt z (s.sendFactor c t gather shard row codes) := by
  simp [State.sendFactor, hk]

/-- gsStart keeps it. -/
@[simp] theorem keeps_gsStart (hk : Keeps qt z s) (c : Cmd) (t : StepRec) :
    Keeps qt z (s.gsStart c t) := by
  unfold State.gsStart
  simp +contextual (maxDischargeDepth := 20) [hk]

/-- gsFinish keeps it. -/
@[simp] theorem keeps_gsFinish (hk : Keeps false z s) (c : Cmd) (t : StepRec) : Keeps false z (s.gsFinish c t) :=
  keeps_updStep (keeps_count (keeps_putFields (keeps_countSpur hk _ _) _ _) _ _) _ _ _

/-- gsAdvance keeps it. -/
@[simp] theorem keeps_gsAdvance (hk : Keeps false z s) (c : Cmd) (t : StepRec) :
    Keeps false z (s.gsAdvance c t) := by
  unfold State.gsAdvance
  simp +contextual (maxDischargeDepth := 20) [hk]

/-- takeFactor keeps it. -/
@[simp] theorem keeps_takeFactor (hk : Keeps false z s) (ctx : Nat) (f : MosFrame) :
    Keeps false z (s.takeFactor ctx f) := by
  unfold State.takeFactor
  dsimp only
  repeat' first | exact hk | (simp (maxDischargeDepth := 20) [*]; done) | split | (refine keeps_foldl (fun _ _ _ => ?_) _ ?_) | dsimp only

/-- startStep keeps it. -/
@[simp] theorem keeps_startStep (h : Keeps false z s) (c : Cmd) : Keeps false z (s.startStep c) := by
  unfold State.startStep
  refine keeps_ite (fun _ => h) fun _ => ?_
  split
  · exact h
  · extract_lets d idx gen res t sh rows s0 s00 own t' sp s1 s2 p cs s3 s4
    clear_value t'
    have h0 : Keeps false z s00 := by
      unfold s00
      split
      · exact keeps_readRows (keeps_readOwn h _ _ _) _ _ _ _ _ _
      · exact keeps_readOwn h _ _ _
    clear_value s00
    have h2 : Keeps false z s2 :=
      keeps_updStream (keeps_updCmd (keeps_ite (fun _ => keeps_countSpur h0 _ _) fun _ => h0) _ _) _ _
    clear_value s2 p gen idx cs
    have h3 : Keeps false z s3 := by
      refine keeps_ite (fun _ => keeps_foldl (fun s i hs => ?_) _ h2) fun _ => keeps_ite (fun _ => keeps_gsStart h2 _ _) fun _ =>
        keeps_foldl (fun s i hs => ?_) _ h2
      · exact keeps_ite (fun _ => keeps_ownerRow hs _ _ _ _ _) fun _ => keeps_ownerRow hs _ _ _ _ _
      · exact keeps_ite (fun _ => keeps_sendLong hs _ _ _ _ _) fun _ => keeps_sendRow hs _ _ _ _ _
    exact keeps_settleStep (keeps_ite (fun _ => keeps_updStep h3 _ _ _) fun _ => h3) _ _

/-- sendVec keeps it. -/
@[simp] theorem keeps_sendVec (hk : Keeps qt z s) (c : Cmd) (gather : Bool) (v : List XVal) :
    Keeps qt z (s.sendVec c gather v) := by
  simp [State.sendVec, hk]

/-- writeVec keeps it. -/
@[simp] theorem keeps_writeVec (hk : Keeps false z s) (c : Cmd) (v : List XVal) :
    Keeps false z (s.writeVec c v) := by
  unfold State.writeVec
  simp +contextual (maxDischargeDepth := 20) [hk]

/-- startVec keeps it. -/
@[simp] theorem keeps_startVec (hk : Keeps false z s) (c : Cmd) :
    Keeps false z (s.startVec c) := by
  unfold State.startVec
  simp +contextual (maxDischargeDepth := 20) [hk]

/-- takeVec keeps it. -/
@[simp] theorem keeps_takeVec (hk : Keeps false z s) (ctx : Nat) (f : MosFrame) (v : VecRec) :
    Keeps false z (s.takeVec ctx f v) := by
  unfold State.takeVec
  (repeat' split) <;> simp (maxDischargeDepth := 20) [hk]

/-- sendPieces keeps it. -/
@[simp] theorem keeps_sendPieces (hk : Keeps qt z s) (ctx idx shard part : Nat) (w : TDesc) (off : Nat) (l : List Byte) :
    Keeps qt z (s.sendPieces ctx idx shard part w off l) := by
  unfold State.sendPieces
  simp +contextual (maxDischargeDepth := 20) [hk]

/-- sendShard keeps it. -/
@[simp] theorem keeps_sendShard (hk : Keeps qt z s) (ctx idx : Nat) (w : TDesc) :
    Keeps qt z (s.sendShard ctx idx w) := by
  unfold State.sendShard
  simp +contextual (maxDischargeDepth := 20) [hk]

/-- updGather keeps it. -/
@[simp] theorem keeps_updGather (hk : Keeps qt z s) (ctx idx : Nat) (f : GatherRec → GatherRec) :
    Keeps qt z (s.updGather ctx idx f) := by
  simp [State.updGather, hk]

/-- settleGather keeps it. -/
@[simp] theorem keeps_settleGather (hk : Keeps false z s) (c : Cmd) (g : GatherRec) :
    Keeps false z (s.settleGather c g) := by
  unfold State.settleGather
  simp +contextual (maxDischargeDepth := 20) [hk]

/-- startGather keeps it. -/
@[simp] theorem keeps_startGather (hk : Keeps false z s) (c : Cmd) (replay : Bool) :
    Keeps false z (s.startGather c replay) := by
  unfold State.startGather
  dsimp only
  repeat' first | exact hk | (simp (maxDischargeDepth := 20) [*]; done) | split | (refine keeps_foldl (fun _ _ _ => ?_) _ ?_) | dsimp only

/-- takeGather keeps it. -/
@[simp] theorem keeps_takeGather (hk : Keeps false z s) (ctx : Nat) (f : MosFrame) :
    Keeps false z (s.takeGather ctx f) := by
  unfold State.takeGather
  dsimp only
  repeat' first | exact hk | (simp (maxDischargeDepth := 20) [*]; done) | split | (refine keeps_foldl (fun _ _ _ => ?_) _ ?_) | dsimp only

/-- mosDrop keeps it. -/
@[simp] theorem keeps_mosDrop (hk : Keeps qt z s) (lane reason : Nat) (l : List Byte) :
    Keeps qt z (s.mosDrop lane reason l) := by
  unfold State.mosDrop
  simp +contextual (maxDischargeDepth := 20) [hk]

/-- mosHold keeps it. -/
@[simp] theorem keeps_mosHold (hk : Keeps qt z s) (f : MosFrame) :
    Keeps qt z (s.mosHold f) := by
  exact hk

/-- mosAct keeps it. -/
@[simp] theorem keeps_mosAct (hk : Keeps false z s) (ctx : Nat) (f : MosFrame) :
    Keeps false z (s.mosAct ctx f) := by
  unfold State.mosAct
  dsimp only
  repeat' first | exact hk | (simp (maxDischargeDepth := 20) [*]; done) | split | (refine keeps_foldl (fun _ _ _ => ?_) _ ?_) | dsimp only

/-- mosData keeps it. -/
@[simp] theorem keeps_mosData (hk : Keeps false z s) (f : MosFrame) :
    Keeps false z (s.mosData f) := by
  unfold State.mosData
  (repeat' split) <;> simp (maxDischargeDepth := 20) [hk]

/-- mosOffer keeps it. -/
@[simp] theorem keeps_mosOffer (hk : Keeps false z s) :
    Keeps false z (s.mosOffer) := by
  unfold State.mosOffer
  simp +contextual (maxDischargeDepth := 20) [hk]

/-- mosReceive keeps it. -/
@[simp] theorem keeps_mosReceive (hk : Keeps false z s) (lane kind : Nat) (l : List Byte) :
    Keeps false z (s.mosReceive lane kind l) := by
  unfold State.mosReceive
  simp +contextual (maxDischargeDepth := 20) [hk]

end Sys2Proof.Machine
end

