-- ==== Sys2Proof/Laws/KeepsClosing.lean ====
section
/-! SUPPORT. The operations of Machine/Closing.lean keep what every command keeps. -/

namespace Sys2Proof.Machine

open Sys2Proof

variable {qt : Bool} {z s : State}

/-- sendClose keeps it. -/
@[simp] theorem keeps_sendClose (hk : Keeps qt z s) (ctx : Nat) (ok : Bool) :
    Keeps qt z (s.sendClose ctx ok) := by
  unfold State.sendClose
  (repeat' split) <;> simp (maxDischargeDepth := 20) [hk]

/-- chairDecide keeps it. -/
@[simp] theorem keeps_chairDecide (hk : Keeps false z s) (ctx : Nat) (ok : Bool) :
    Keeps false z (s.chairDecide ctx ok) := by
  unfold State.chairDecide
  simp +contextual (maxDischargeDepth := 20) [hk]

/-- becomeReady keeps it. -/
@[simp] theorem keeps_becomeReady (hk : Keeps false z s) (ctx : Nat) :
    Keeps false z (s.becomeReady ctx) := by
  unfold State.becomeReady
  simp +contextual (maxDischargeDepth := 20) [hk]

/-- takeClose keeps it. -/
@[simp] theorem keeps_takeClose (hk : Keeps false z s) (ctx : Nat) (ok : Bool) :
    Keeps false z (s.takeClose ctx ok) := by
  unfold State.takeClose
  (repeat' split) <;> simp (maxDischargeDepth := 20) [hk]

/-- takeDecide keeps it. -/
@[simp] theorem keeps_takeDecide (hk : Keeps false z s) (ctx : Nat) (h : MosHead) :
    Keeps false z (s.takeDecide ctx h) := by
  unfold State.takeDecide
  simp +contextual (maxDischargeDepth := 20) [hk]

/-- mosToken keeps it. -/
@[simp] theorem keeps_mosToken (hk : Keeps false z s) (lane kind : Nat) (l : List Byte) :
    Keeps false z (s.mosToken lane kind l) := by
  unfold State.mosToken
  dsimp only
  repeat' first | exact hk | (simp (maxDischargeDepth := 20) [*]; done) | split | (refine keeps_foldl (fun _ _ _ => ?_) _ ?_) | dsimp only

/-- fireDeadline keeps it. -/
@[simp] theorem keeps_fireDeadline (hk : Keeps false z s) (ctx : Nat) :
    Keeps false z (s.fireDeadline ctx) := by
  unfold State.fireDeadline
  simp +contextual (maxDischargeDepth := 20) [hk]

/-- roundResult keeps it. -/
@[simp] theorem keeps_roundResult (hk : Keeps qt z s) (ok : Bool) :
    Keeps qt z (s.roundResult ok) := by
  exact hk

/-- roundResume keeps it. -/
@[simp] theorem keeps_roundResume (hk : Keeps qt z s) (ctx : Nat) :
    Keeps qt z (s.roundResume ctx) := by
  unfold State.roundResume
  simp +contextual (maxDischargeDepth := 20) [hk]

/-- roundSeal keeps it. -/
@[simp] theorem keeps_roundSeal (hk : Keeps false z s) (ctx : Nat) :
    Keeps false z (s.roundSeal ctx) := by
  unfold State.roundSeal
  simp +contextual (maxDischargeDepth := 20) [hk]

/-- roundVoid keeps it. -/
@[simp] theorem keeps_roundVoid (hk : Keeps false z s) (ctx : Nat) :
    Keeps false z (s.roundVoid ctx) := by
  unfold State.roundVoid
  simp +contextual (maxDischargeDepth := 20) [hk]

end Sys2Proof.Machine
end

