-- ==== Sys2Proof/Laws/KeepsUpdate.lean ====
section
/-! SUPPORT. The operations of Machine/Update.lean keep what every command keeps. -/

namespace Sys2Proof.Machine

open Sys2Proof

variable {qt : Bool} {z s : State}

/-- beginUpdate keeps it. -/
@[simp] theorem keeps_beginUpdate (hk : Keeps qt z s) (c : Cmd) :
    Keeps qt z (s.beginUpdate c) := by
  simp [State.beginUpdate, hk]

/-- writeTwin keeps it. -/
@[simp] theorem keeps_writeTwin (hk : Keeps false z s) (c : Cmd) :
    Keeps false z (s.writeTwin c) := by
  exact keeps_ite (fun _ => hk) fun _ => keeps_count (keeps_writeOwed hk _ _) _ _

/-- watchCopies keeps it. -/
@[simp] theorem keeps_watchCopies (hk : Keeps qt z s) (c : Cmd) : Keeps qt z (s.watchCopies c) := keeps_count hk _ _

/-- storeShard keeps it. -/
@[simp] theorem keeps_storeShard (hk : Keeps false z s) (c : Cmd) (u : UpdRec) (d : TDesc) (slot base row0 : Nat) (xs : List (Nat × Nat × XVal)) :
    Keeps false z (s.storeShard c u d slot base row0 xs) :=
  keeps_count (keeps_putFields (keeps_ite (fun _ => keeps_readBytes hk _) fun _ => hk) _ _) _ _

/-- applyUpdate keeps it. -/
@[simp] theorem keeps_applyUpdate (hk : Keeps false z s) (c : Cmd) :
    Keeps false z (s.applyUpdate c) := by
  unfold State.applyUpdate
  (repeat' split) <;> simp (maxDischargeDepth := 20) [hk]

/-- normUpdate keeps it. -/
@[simp] theorem keeps_normUpdate (hk : Keeps false z s) (c : Cmd) :
    Keeps false z (s.normUpdate c) := by
  unfold State.normUpdate
  simp +contextual (maxDischargeDepth := 20) [hk]

/-- completeUpdate keeps it. -/
@[simp] theorem keeps_completeUpdate (hk : Keeps false z s) (c : Cmd) :
    Keeps false z (s.completeUpdate c) := by
  unfold State.completeUpdate
  (repeat' split) <;> simp (maxDischargeDepth := 20) [hk]

end Sys2Proof.Machine
end

