-- ==== Sys2Proof/Laws/KeepsReset.lean ====
section
/-! SUPPORT. The operations of Machine/Reset.lean keep what every command keeps. -/

namespace Sys2Proof.Machine

open Sys2Proof

variable {qt : Bool} {z s : State}

/-- resetCmd keeps it. -/
@[simp] theorem keeps_resetCmd (hk : Keeps qt z s) (engine : Bool) (c : Cmd) :
    Keeps qt z (s.resetCmd engine c) :=
  keeps_ite (fun _ => keeps_updCmd (keeps_fpStop hk _) _ _) fun _ => keeps_abort hk _ _

/-- dropLook keeps it. -/
@[simp] theorem keeps_dropLook (h : Keeps qt z s) (ctx : Nat) : Keeps qt z (s.dropLook ctx) := h

/-- resetRecord keeps it. -/
@[simp] theorem keeps_resetRecord (h : Keeps false z s) (c : Cmd) : Keeps false z (s.resetRecord c) :=
  keeps_ite (fun _ => by apply keeps_endAbort; exact h) fun _ => keeps_reject h _ _

/-- startReset keeps it. -/
@[simp] theorem keeps_startReset (hk : Keeps false z s) (ctx : Nat) (engine : Bool) :
    Keeps false z (s.startReset ctx engine) := by
  unfold State.startReset
  simp +contextual (maxDischargeDepth := 20) [hk]

/-- endReset keeps it. -/
@[simp] theorem keeps_endReset (hk : Keeps qt z s) (ctx : Nat) :
    Keeps qt z (s.endReset ctx) := by
  unfold State.endReset
  (repeat' split) <;> simp (maxDischargeDepth := 20) [hk]

end Sys2Proof.Machine
end

