-- ==== Sys2Proof/Laws/KeepsTiles.lean ====
section
/-! SUPPORT. The operations of Machine/Tiles.lean keep what every command keeps. -/

namespace Sys2Proof.Machine

open Sys2Proof

variable {qt : Bool} {z s : State}

/-- updTile keeps it. -/
@[simp] theorem keeps_updTile (hk : Keeps qt z s) (t : Nat) (f : Tile → Tile) :
    Keeps qt z (s.updTile t f) := by
  simp [State.updTile, hk]

/-- tidy keeps it. -/
@[simp] theorem keeps_tidy (h : Keeps qt z s) (w : Work) (t : Nat) : Keeps qt z (s.tidy w t) := keeps_updTile h _ _

/-- placeJobs keeps it. -/
@[simp] theorem keeps_placeJobs (hk : Keeps qt z s) (c : Cmd) :
    Keeps qt z (s.placeJobs c) := by
  unfold State.placeJobs
  dsimp only
  repeat' first | exact hk | (simp (maxDischargeDepth := 20) [*]; done) | split | (refine keeps_foldl (fun _ _ _ => ?_) _ ?_) | dsimp only

/-- assign keeps it. -/
@[simp] theorem keeps_assign (hk : Keeps qt z s) (w : Work) (t : Nat) :
    Keeps qt z (s.assign w t) := by
  unfold State.assign
  dsimp only
  repeat' first | exact hk | (simp (maxDischargeDepth := 20) [*]; done) | split | (refine keeps_foldl (fun _ _ _ => ?_) _ ?_) | dsimp only

/-- assignAll keeps it. -/
@[simp] theorem keeps_assignAll (hk : Keeps qt z s) (w : Work) :
    Keeps qt z (s.assignAll w) := by
  unfold State.assignAll
  simp +contextual (maxDischargeDepth := 20) [hk]

/-- skewTiles keeps it. -/
@[simp] theorem keeps_skewTiles (h : Keeps qt z s) (w : Work) (order : List (Nat × List Nat)) : Keeps qt z (s.skewTiles w order) :=
  keeps_foldl (fun _ _ hx => keeps_foldl (fun _ _ hy => keeps_updTile hy _ _) _ hx) _ h

/-- onTile keeps it where the event does. -/
@[simp] theorem keeps_onTile (h : Keeps qt z s) (t : Nat) (f : State → Work → State)
    (hf : ∀ x w, Keeps qt z x → Keeps qt z (f x w)) : Keeps qt z (s.onTile t f) := by
  unfold State.onTile
  split
  · exact keeps_ite (fun _ => hf _ _ (keeps_assign h _ _)) fun _ => h
  · exact h

/-- settleRun keeps it. -/
@[simp] theorem keeps_settleRun (hk : Keeps qt z s) (w : Work) :
    Keeps qt z (s.settleRun w) := by
  unfold State.settleRun
  (repeat' split) <;> simp (maxDischargeDepth := 20) [hk]

/-- anchorReady keeps it. -/
@[simp] theorem keeps_anchorReady (hk : Keeps qt z s) (t : Nat) (w : Work) :
    Keeps qt z (s.anchorReady t w) := by
  unfold State.anchorReady
  dsimp only
  repeat' first | exact hk | (simp (maxDischargeDepth := 20) [*]; done) | split | (refine keeps_foldl (fun _ _ _ => ?_) _ ?_) | dsimp only

/-- sheetBeat keeps it. -/
@[simp] theorem keeps_sheetBeat (h : Keeps qt z s) (t i : Nat) (w : Work) (b : Blk) (p : Prod) (bt : Beat) (upset : Option Upset) :
    Keeps qt z (s.sheetBeat t i w b p bt upset) := by
  unfold State.sheetBeat
  dsimp only
  repeat' first | exact keeps_abort h _ _ | exact keeps_laneFault h _ _ | exact keeps_tidy (keeps_assign (keeps_updTile h _ _) _ _) _ _ | split

/-- partBeat keeps it. -/
@[simp] theorem keeps_partBeat (h : Keeps qt z s) (t : Nat) (w : Work) (r : PartRef) (b : Blk) (p : Prod) (bt : Beat)
    (upset : Option Upset) : Keeps qt z (s.partBeat t w r b p bt upset) := by
  unfold State.partBeat
  dsimp only
  split
  · exact keeps_abort h _ _
  · split
    · exact keeps_laneFault h _ _
    · exact keeps_tidy (keeps_updTile (keeps_fixAnchor h _ _) _ _) _ _

/-- tileBeat keeps it. -/
@[simp] theorem keeps_tileBeat (h : Keeps qt z s) (t : Nat) (upset : Option Upset) (w : Work) :
    Keeps qt z (s.tileBeat t upset w) := by
  unfold State.tileBeat
  split
  · exact h
  · split
    · exact h
    · refine keeps_ite (fun _ => h) fun _ => ?_
      extract_lets s1 s2
      have h2 : Keeps qt z s2 := keeps_updTile (keeps_countWork h _ _ _ _) _ _
      clear_value s2
      split <;> split
      · exact keeps_sheetBeat h2 _ _ _ _ _ _ _
      · exact h2
      · exact keeps_partBeat h2 _ _ _ _ _ _ _
      · exact h2

/-- touchBlk keeps it. -/
@[simp] theorem keeps_touchBlk (h : Keeps qt z s) (w : Work) (n : Nat) : Keeps qt z (s.touchBlk w n) := by
  unfold State.touchBlk
  split
  · split
    · exact keeps_ite (fun _ => h) fun _ => keeps_touchRegion h _ _
    · exact h
  · exact h

/-- drainAccept keeps it. -/
@[simp] theorem keeps_drainAccept (h : Keeps qt z s) (t : Nat) (w : Work) : Keeps qt z (s.drainAccept t w) := by
  unfold State.drainAccept
  split
  · exact keeps_ite (fun _ => keeps_updTile h _ _) fun _ => keeps_touchBlk (keeps_updTile h _ _) _ _
  · exact h

/-- Tiles set to a list of the same length keep it. -/
theorem keeps_setTiles (h : Keeps qt z s) (f : Tile → Tile) : Keeps qt z { s with tiles := s.tiles.map f } :=
  { h with kTiles := by simpa using h.kTiles }

/-- Arrays changed in place keep it. -/
theorem keeps_updArr (h : Keeps qt z s) (a : Nat) (f : Arr → Arr) : Keeps qt z { s with arrs := updAt s.arrs a f } :=
  { h with kArrs := by simpa using h.kArrs }

/-- setJoins keeps it. -/
@[simp] theorem keeps_setJoins (h : Keeps qt z s) (a : Nat) (js : List (Nat × Nat)) : Keeps qt z (s.setJoins a js) := keeps_updArr h _ _

/-- storePart keeps it. -/
@[simp] theorem keeps_storePart (h : Keeps qt z s) (w : Work) (sh : Sheet) : Keeps qt z (s.storePart w sh) := by
  unfold State.storePart
  extract_lets id s1
  have h1 : Keeps qt z s1 := keeps_setHeld h _ _
  exact keeps_ite (fun _ => keeps_touchBlk (keeps_setJoins h1 _ _) _ _) fun _ => h1

/-- joinUnit keeps it. -/
@[simp] theorem keeps_joinUnit (h : Keeps false z s) (w : Work) (j : Nat × Nat) : Keeps false z (State.joinUnit w s j) := by
  unfold State.joinUnit
  split
  · exact keeps_ite (fun _ => h) fun _ => keeps_finishBlk (keeps_setHeld (keeps_setJoins h _ _) _ _) _ _ _
  · exact h

/-- joinUnits keeps it. -/
@[simp] theorem keeps_joinUnits (h : Keeps false z s) (w : Work) : Keeps false z (s.joinUnits w) :=
  keeps_foldl (fun _ _ hx => keeps_joinUnit hx _ _) _ h

/-- freeSheets keeps it. -/
@[simp] theorem keeps_freeSheets (h : Keeps false z s) (w : Work) : Keeps false z (s.freeSheets w) :=
  keeps_settleRun (keeps_assignAll (keeps_setTiles h _) _) _

/-- drainDone keeps it. -/
@[simp] theorem keeps_drainDone (h : Keeps false z s) (t : Nat) (w : Work) : Keeps false z (s.drainDone t w) := by
  unfold State.drainDone
  extract_lets id s1 mine
  have h1 : Keeps false z s1 := keeps_ite (fun _ => h) fun _ => keeps_freeSheets (keeps_joinUnits h _) _
  clear_value s1
  split
  · exact h1
  · split
    · exact h1
    · exact keeps_ite (fun _ => keeps_freeSheets (keeps_joinUnits (keeps_storePart h1 _ _) _) _) fun _ =>
        keeps_ite (fun _ => h1) fun _ => keeps_freeSheets (keeps_finishBlk h1 _ _ _) _

/-- eastFlit keeps it. -/
@[simp] theorem keeps_eastFlit (h : Keeps false z s) (w : Work) (x : PFlit) (b : Blk) (p : Prod) : Keeps false z (s.eastFlit w x b p) := by
  unfold State.eastFlit
  extract_lets fs y z' s1
  have h1 : Keeps false z s1 := keeps_updArr h _ _
  clear_value s1
  refine keeps_ite (fun _ => keeps_updArr h _ _) fun _ => keeps_ite (fun _ => ?_) fun _ => keeps_putSlab h1 _ _
  split
  · exact keeps_settleRun (keeps_assignAll (keeps_updArr (keeps_finishBlk h1 _ _ _) _ _) _) _
  · exact h1

/-- landPart keeps it. -/
@[simp] theorem keeps_landPart (h : Keeps qt z s) (t : Nat) (p : Prod) (x : PFlit) (upset : List Nat) : Keeps qt z (s.landPart t p x upset) :=
  keeps_ite (fun _ => keeps_tileFault h _ _ _) fun _ => keeps_updTile h _ _

/-- A flit that passes keeps it. -/
theorem keeps_passFlit (h : Keeps false z s) {w : Work} {t : Nat} {upset : List Nat} {s' : State} (hs : s.passFlit w t upset = some s') :
    Keeps false z s' := by
  unfold State.passFlit at hs
  obtain ⟨own, -, hs⟩ := Option.bind_eq_some_iff.mp hs
  obtain ⟨x, -, hs⟩ := Option.bind_eq_some_iff.mp hs
  obtain ⟨y, -, hs⟩ := Option.bind_eq_some_iff.mp hs
  obtain ⟨f, -, hs⟩ := Option.bind_eq_some_iff.mp hs
  revert hs
  extract_lets sum out e
  intro hs
  have h1 : Keeps false z out := keeps_updTile (keeps_fixAnchor h _ _) _ _
  clear_value out
  split at hs
  · split at hs
    · cases hs
    · cases hs; exact keeps_landPart h1 _ _ _ _
  · cases hs; exact keeps_eastFlit h1 _ _ _ _

/-- passFlits keeps it. -/
@[simp] theorem keeps_passFlits (w : Work) (t n : Nat) (h : Keeps false z s) : Keeps false z (State.passFlits w t n s) := by
  induction n generalizing s with
  | zero => exact h
  | succ n ih =>
    unfold State.passFlits
    split
    · exact ih (keeps_passFlit h ‹_›)
    · exact h

/-- takeFlit keeps it. -/
@[simp] theorem keeps_takeFlit (h : Keeps qt z s) (w : Work) (t : Nat) (l : Link) : Keeps qt z (s.takeFlit w t l) := by
  unfold State.takeFlit
  split
  · exact h
  · dsimp only
    split
    · exact keeps_updTile (keeps_updTile h _ _) _ _
    · exact keeps_updTile h _ _

/-- drainLink keeps it. -/
@[simp] theorem keeps_drainLink (w : Work) (t : Nat) (l : Link) (n : Nat) (h : Keeps qt z s) : Keeps qt z (State.drainLink w t l n s) := by
  induction n generalizing s with
  | zero => exact h
  | succ n ih =>
    unfold State.drainLink
    exact keeps_ite (fun _ => ih (keeps_takeFlit h _ _ _)) fun _ => h

/-- drainLinks keeps it. -/
@[simp] theorem keeps_drainLinks (h : Keeps qt z s) (w : Work) (t : Nat) : Keeps qt z (s.drainLinks w t) :=
  keeps_drainLink _ _ _ _ (keeps_drainLink _ _ _ _ h)

/-- landFlit keeps it. -/
@[simp] theorem keeps_landFlit (h : Keeps qt z s) (w : Work) (t : Nat) (l : Link) (f : Flit) (upset : List Nat) :
    Keeps qt z (s.landFlit w t l f upset) :=
  keeps_ite (fun _ => keeps_tileFault h _ _ _) fun _ => keeps_drainLink _ _ _ _ (keeps_updTile h _ _)

end Sys2Proof.Machine
end

