-- ==== Sys2Proof/Laws/KeepsFeeding.lean ====
section
/-! SUPPORT. The operations of Machine/Feeding.lean keep what every command keeps. -/

namespace Sys2Proof.Machine

open Sys2Proof

variable {qt : Bool} {z s : State}

/-- A change of the feeders' state keeps it. -/
theorem keeps_setFeed (h : Keeps qt z s) (f : Feed) : Keeps qt z { s with feed := f } := h

/-- queueSeqs keeps it. -/
@[simp] theorem keeps_queueSeqs (h : Keeps qt z s) (qs : List (Nat × Thread)) : Keeps qt z (s.queueSeqs qs) := h

/-- setThread keeps it. -/
@[simp] theorem keeps_setThread (h : Keeps qt z s) (ch i : Nat) (f : Thread → Thread) : Keeps qt z (s.setThread ch i f) := h

/-- giveThreads keeps it. -/
@[simp] theorem keeps_giveThreads (ch n : Nat) (h : Keeps qt z s) : Keeps qt z (State.giveThreads ch n s) := by
  induction n generalizing s with
  | zero => exact h
  | succ n ih =>
    unfold State.giveThreads
    dsimp only
    split
    · exact ih (keeps_setThread (keeps_setFeed h _) ch _ _)
    · exact h

/-- settleThread keeps it. -/
@[simp] theorem keeps_settleThread (h : Keeps qt z s) (ch i : Nat) : Keeps qt z (s.settleThread ch i) :=
  keeps_ite (fun _ => keeps_setThread h _ _ _) fun _ => keeps_setThread h _ _ _

/-- comeLine keeps it. -/
@[simp] theorem keeps_comeLine (h : Keeps qt z s) (ch l : Nat) : Keeps qt z (s.comeLine ch l) := by
  have h1 := keeps_came (keeps_touchLine h l) l
  exact h1

/-- handLine keeps it. -/
@[simp] theorem keeps_handLine (h : Keeps qt z s) (ch i l : Nat) : Keeps qt z (s.handLine ch i l) := by
  unfold State.handLine
  dsimp only
  split
  · exact keeps_updCmd h _ _
  · exact h
  · exact h
  · exact keeps_setThread h _ _ _

/-- askLine keeps it. -/
@[simp] theorem keeps_askLine (h : Keeps qt z s) (ch i l : Nat) : Keeps qt z (s.askLine ch i l) := h

/-- deliverLines keeps it. -/
@[simp] theorem keeps_deliverLines (ch i n : Nat) (h : Keeps qt z s) : Keeps qt z (State.deliverLines ch i n s) := by
  induction n generalizing s with
  | zero => exact h
  | succ n ih =>
    unfold State.deliverLines
    split
    · exact keeps_ite (fun _ => h) fun _ => keeps_ite (fun _ => ih (keeps_setThread (keeps_handLine h _ _ _) _ _ _)) fun _ =>
        keeps_askLine (keeps_setThread h _ _ _) _ _ _
    · exact h

/-- loadBlk keeps it. -/
@[simp] theorem keeps_loadBlk (h : Keeps qt z s) (w : Work) (t : Nat) (x : OpBlk) (scales : List Host.Cell) :
    Keeps qt z (s.loadBlk w t x scales).1 := by
  unfold State.loadBlk
  split
  · exact h
  · split
    · exact keeps_updTile h _ _
    · exact h

/-- A fold that carries a second result keeps it where its first one does. -/
theorem keeps_foldPair {α β : Type} {f : State × β → α → State × β} (hf : ∀ a x, Keeps qt z a.1 → Keeps qt z (f a x).1) (l : List α)
    (a : State × β) (h : Keeps qt z a.1) : Keeps qt z (l.foldl f a).1 := by
  induction l generalizing a with
  | nil => exact h
  | cons x l ih => exact ih _ (hf a x h)

/-- pumpProj keeps it. -/
@[simp] theorem keeps_pumpProj (h : Keeps qt z s) (w : Work) (ch : Nat) : Keeps qt z (s.pumpProj w ch) := by
  unfold State.pumpProj
  extract_lets r
  have h1 : Keeps qt z r.1 := by
    refine keeps_foldPair (fun a x ha => ?_) _ _ h
    split
    · exact ha
    · exact keeps_loadBlk ha _ _ _ _
  clear_value r
  exact h1

/-- pumpLoad keeps it. -/
@[simp] theorem keeps_pumpLoad (w : Work) (ch i n : Nat) (h : Keeps qt z s) : Keeps qt z (State.pumpLoad w ch i n s) := by
  induction n generalizing s with
  | zero => exact h
  | succ n ih =>
    unfold State.pumpLoad
    dsimp only
    split
    · refine keeps_ite (fun _ => h) fun _ => keeps_ite (fun _ => ih (keeps_setThread ?_ _ _ _)) fun _ => h
      split
      · split
        · exact h
        · exact h
      · exact keeps_loadBlk h _ _ _ _
    · exact h

/-- pumpCh keeps it. -/
@[simp] theorem keeps_pumpCh (h : Keeps qt z s) (ch : Nat) : Keeps qt z (s.pumpCh ch) := by
  unfold State.pumpCh
  extract_lets s1 s2
  have h1 : Keeps qt z s1 := keeps_foldl (fun _ _ hx => keeps_deliverLines _ _ _ hx) _ h
  clear_value s1
  have h2 : Keeps qt z s2 := by
    unfold s2
    split
    · exact keeps_pumpProj (keeps_foldl (fun _ _ hx => keeps_pumpLoad _ _ _ _ hx) _ (keeps_pumpProj h1 _ _)) _ _
    · exact h1
  clear_value s2
  exact keeps_foldl (fun _ _ hx => keeps_settleThread hx _ _) _ h2

/-- fuseSurvey keeps it. -/
@[simp] theorem keeps_fuseSurvey (h : Keeps qt z s) (w : Work) : Keeps qt z (s.fuseSurvey w) :=
  keeps_ite (fun _ => keeps_fixAnchors (keeps_readBytes h _) _) fun _ => h

/-- reorder keeps it. -/
@[simp] theorem keeps_reorder (h : Keeps qt z s) (c : Cmd) (w : Work) : Keeps qt z (s.reorder c w) := keeps_setFeed (keeps_skewTiles h _ _) _

/-- placeWork keeps it. -/
@[simp] theorem keeps_placeWork (h : Keeps qt z s) (id : CmdId) : Keeps qt z (s.placeWork id) := by
  unfold State.placeWork
  split
  · exact h
  · split
    · exact h
    · refine keeps_ite (fun _ => h) fun _ => ?_
      extract_lets s1 w s2
      have h2 : Keeps qt z s2 := keeps_queueSeqs (keeps_fuseSurvey (keeps_placeJobs (keeps_updArr h _ _) _) _) _
      exact keeps_assignAll (keeps_ite (fun _ => keeps_reorder h2 _ _) fun _ => h2) _

/-- placeCh keeps it. -/
@[simp] theorem keeps_placeCh (h : Keeps qt z s) (ch : Nat) : Keeps qt z (s.placeCh ch) := by
  unfold State.placeCh
  split
  · exact keeps_placeWork h _
  · exact h

/-- startThreads keeps it. -/
@[simp] theorem keeps_startThreads (h : Keeps qt z s) (c : Cmd) : Keeps qt z (s.startThreads c) :=
  keeps_foldl (fun _ _ hx => keeps_giveThreads _ _ hx) _ (keeps_placeWork (keeps_queueSeqs h _) _)

/-- issueLines keeps it. -/
@[simp] theorem keeps_issueLines (ch i n : Nat) (h : Keeps qt z s) : Keeps qt z (State.issueLines ch i n s) := by
  induction n generalizing s with
  | zero => exact h
  | succ n ih =>
    unfold State.issueLines
    split
    · exact h
    · refine keeps_ite (fun _ => h) fun _ => ih ?_
      exact keeps_ite (fun _ => keeps_setThread (keeps_demandRead h _) _ _ _) fun _ => keeps_askLine (keeps_setThread (keeps_demandRead h _) _ _ _) _ _ _

/-- activeCycle keeps it. -/
@[simp] theorem keeps_activeCycle (h : Keeps qt z s) (ch i : Nat) : Keeps qt z (s.activeCycle ch i) := by
  unfold State.activeCycle
  exact keeps_setThread (keeps_issueLines _ _ _ (keeps_setFeed (keeps_setThread h _ _ _) _)) _ _ _

/-- countSpurWait keeps it. -/
@[simp] theorem keeps_countSpurWait (h : Keeps qt z s) (ch : Nat) : Keeps qt z (s.countSpurWait ch) := by
  unfold State.countSpurWait
  extract_lets
  split
  · exact h
  · exact keeps_countWork h _ _ _ _

/-- sramError keeps it. -/
@[simp] theorem keeps_sramError (hk : Keeps qt z s) (code store word action : Nat) (ch : Option Nat) :
    Keeps qt z (s.sramError code store word action ch) := by
  simp [State.sramError, hk]

/-- awaitRead keeps it. -/
@[simp] theorem keeps_awaitRead (h : Keeps qt z s) (th : Thread) (l : Nat) : Keeps qt z (s.awaitRead th l) := by
  unfold State.awaitRead
  split
  · exact keeps_updCmd h _ _
  · exact h

/-- missLine keeps it. -/
@[simp] theorem keeps_missLine (h : Keeps qt z s) (ch i l : Nat) : Keeps qt z (s.missLine ch i l) :=
  keeps_ite (fun _ => keeps_awaitRead (keeps_setThread (keeps_setFeed h _) _ _ _) _ _) fun _ =>
    keeps_ite (fun _ => keeps_awaitRead (keeps_setThread (keeps_sendFill h _ _ _ _) _ _ _) _ _) fun _ => h

/-- runAhead keeps it. -/
@[simp] theorem keeps_runAhead (ctx : Nat) (l : List SeqLine) (n : Nat) (h : Keeps qt z s) : Keeps qt z (State.runAhead ctx l n s).1 := by
  induction l generalizing s n with
  | nil => exact h
  | cons x l ih =>
    unfold State.runAhead
    split
    · exact ih _ h
    · split
      · exact ih _ (keeps_sendFill h _ _ _ _)
      · exact h

/-- takeFill keeps it. -/
@[simp] theorem keeps_takeFill (h : Keeps qt z s) (f : Fill) : Keeps qt z (s.takeFill f) := by
  unfold State.takeFill
  dsimp only
  split
  · exact keeps_ite (fun _ => h) fun _ => keeps_foldl (fun _ _ hx => keeps_placeCh (keeps_pumpCh hx _) _) _
      (keeps_foldl (fun _ _ hx => keeps_setThread (keeps_comeLine hx _ _) _ _ _) _ (keeps_install h _ _ _ _))
  · exact keeps_ite (fun _ => h) fun _ => keeps_install h _ _ _ _
  · exact keeps_ite (fun _ => h) fun _ => keeps_ite (fun _ => keeps_install h _ _ _ _) fun _ =>
      keeps_ite (fun _ => keeps_addPerf h _ _) fun _ => keeps_install h _ _ _ _

/-- readDone keeps it. -/
@[simp] theorem keeps_readDone (h : Keeps qt z s) (line : Nat) : Keeps qt z (s.readDone line) := h

/-- fillResponse keeps it. -/
@[simp] theorem keeps_fillResponse (h : Keeps qt z s) (f : Fill) (r : Resp) : Keeps qt z (s.fillResponse f r) := by
  unfold State.fillResponse
  extract_lets f0 s1 hit
  have h1 : Keeps qt z s1 := h
  clear_value s1
  refine keeps_ite (fun _ => keeps_readDone h1 _) fun _ => keeps_ite (fun _ => keeps_ite (fun _ =>
    keeps_pumpLook (keeps_bumpErr h1 _)) fun _ => keeps_foldl (fun x th hx => ?_) _ (keeps_readDone h1 _)) fun _ => keeps_ite
    (fun _ => keeps_ite (fun _ => keeps_pumpLook (keeps_readDone h1 _)) fun _ => keeps_ite (fun _ => keeps_sendFill h1 _ _ _ _)
      fun _ => keeps_foldl (fun _ _ hx => keeps_askLine (keeps_setThread hx _ _ _) _ _ _) _ (keeps_readDone h1 _)) fun _ =>
    keeps_pumpLook (keeps_takeFill (keeps_readDone h1 _) _)
  split
  · exact keeps_abort hx _ _
  · exact hx

/-- handedDone keeps it. -/
@[simp] theorem keeps_handedDone (h : Keeps qt z s) (line : Nat) : Keeps qt z (s.handedDone line) := h

/-- resetWriteDone keeps it. -/
@[simp] theorem keeps_resetWriteDone (h : Keeps qt z s) (line : Nat) : Keeps qt z (s.resetWriteDone line) := by
  unfold State.resetWriteDone
  split
  · exact keeps_updRt h _ _
  · exact keeps_handedDone h _

/-- cmdWriteDone keeps it. -/
@[simp] theorem keeps_cmdWriteDone (h : Keeps qt z s) (id : CmdId) (port line : Nat) (r : Resp) : Keeps qt z (s.cmdWriteDone id port line r) := by
  unfold State.cmdWriteDone
  split
  · exact h
  · exact keeps_ite (fun _ => keeps_abort (keeps_updCmd h _ _) _ _) fun _ => keeps_updCmd h _ _

/-- frameWriteDone keeps it. -/
@[simp] theorem keeps_frameWriteDone (h : Keeps qt z s) (id port line : Nat) (r : Resp) :
    Keeps qt z (s.frameWriteDone id port line r) :=
  keeps_ite (fun _ => keeps_trvFail (keeps_setRx h _ _) _ _ _) fun _ => keeps_setRx h _ _

/-- agentWrite keeps it. -/
@[simp] theorem keeps_agentWrite (h : Keeps false z s) (a : Nat) (bs : List Byte) : Keeps false z (s.agentWrite a bs) :=
  keeps_foldl (fun _ _ hx => keeps_pokeMem hx _ _) _ h

/-- skew keeps it. -/
@[simp] theorem keeps_skew (h : Keeps qt z s) (a : Nat) (c : Cmd) : Keeps qt z (s.skew a c) := by
  unfold State.skew
  exact keeps_ite (fun _ => h) fun _ => keeps_ite (fun _ => keeps_reorder (keeps_updArr h _ _) _ _) fun _ => keeps_updArr h _ _

end Sys2Proof.Machine
end

