-- ==== Sys2Proof/Laws/KeepsLifecycle.lean ====
section
/-! SUPPORT. The operations of Machine/Lifecycle.lean keep what every command keeps. -/

namespace Sys2Proof.Machine

open Sys2Proof

variable {qt : Bool} {z s : State}

/-- keepRegions keeps it. -/
@[simp] theorem keeps_keepRegions (hk : Keeps qt z s) (c : Cmd) (rs : List Nat) : Keeps qt z (s.keepRegions c rs) := keeps_updRt hk _ _

/-- askPieces keeps it. -/
@[simp] theorem keeps_askPieces (hk : Keeps qt z s) (c : Cmd) (use : Nat → FpUse) (ps : List (Nat × Nat)) : Keeps qt z (s.askPieces c use ps) :=
  keeps_fpAdd hk _

/-- askTables keeps it. -/
@[simp] theorem keeps_askTables (hk : Keeps qt z s) (c : Cmd) (ps : List (Nat × Nat)) : Keeps qt z (s.askTables c ps) := keeps_fpAdd hk _

/-- tableCame keeps it. -/
@[simp] theorem keeps_tableCame (hk : Keeps qt z s) (id : CmdId) (addr : Nat) : Keeps qt z (s.tableCame id addr) := by
  unfold State.tableCame
  split
  · exact hk
  · exact keeps_updCmd hk _ _

/-- startEffects keeps it. -/
@[simp] theorem keeps_startEffects (hk : Keeps qt z s) (c : Cmd) :
    Keeps qt z (s.startEffects c) := by
  unfold State.startEffects
  simp +contextual (maxDischargeDepth := 20) [hk]

/-- begin_ keeps it. -/
@[simp] theorem keeps_begin_ (hk : Keeps qt z s) (c : Cmd) :
    Keeps qt z (s.begin_ c) := by
  unfold State.begin_
  (repeat' split) <;> simp (maxDischargeDepth := 20) [hk]

/-- completeRegions keeps it. -/
@[simp] theorem keeps_completeRegions (h : Keeps false z s) (c : Cmd) : Keeps false z (s.completeRegions c) := by
  unfold State.completeRegions
  extract_lets s1 s2 done s3
  have h1 : Keeps false z s1 := by
    refine keeps_foldl (fun s k hs => ?_) _ h
    have h1 := keeps_ite (p := (s.region c.ctx k).shadow = true) (fun _ => keeps_flipSel hs c.ctx k) fun _ => hs
    exact keeps_ite (fun _ => keeps_setRState h1 _ _ _) fun _ => h1
  clear_value s1
  have h2 : Keeps false z s2 := keeps_ite (fun _ => keeps_foldl (fun s k hs => keeps_setRState hs _ _ _) _ h1) fun _ => h1
  clear_value s2
  have h3 : Keeps false z s3 := keeps_updStream h2 _ _
  clear_value s3
  refine keeps_ite (fun _ => ?_) fun _ => h2
  split
  · exact keeps_setRState h3 _ _ _
  · exact h3

/-- spillWorkspace keeps it. -/
@[simp] theorem keeps_spillWorkspace (hk : Keeps false z s) (c : Cmd) :
    Keeps false z (s.spillWorkspace c) := by
  unfold State.spillWorkspace
  simp +contextual (maxDischargeDepth := 20) [hk]

/-- complete keeps it. -/
@[simp] theorem keeps_complete (hk : Keeps false z s) (c : Cmd) :
    Keeps false z (s.complete c) := by
  unfold State.complete
  simp +contextual (maxDischargeDepth := 20) [hk]

/-- bearingDone keeps it. -/
@[simp] theorem keeps_bearingDone (hk : Keeps qt z s) (id : CmdId) :
    Keeps qt z (s.bearingDone id) := by
  simp [State.bearingDone, hk]

end Sys2Proof.Machine
end

