-- ==== Sys2Proof/Laws/KeepsBeats.lean ====
section
/-! SUPPORT. The operations of Machine/Beats.lean keep what every command keeps. -/

namespace Sys2Proof.Machine

open Sys2Proof

variable {qt : Bool} {z s : State}

/-- injectFlit keeps it. -/
@[simp] theorem keeps_injectFlit (h : Keeps qt z s) (w : Work) (t : Nat) (l : Link) (upset : List Nat) :
    Keeps qt z (s.injectFlit w t l upset) := by
  unfold State.injectFlit
  split
  · exact h
  · dsimp only
    split
    · exact h
    · exact keeps_ite (fun _ => h) fun _ => keeps_pumpCh (keeps_landFlit (keeps_setThread h _ _ _) _ _ _ _ _) _

/-- sendFlit keeps it. -/
@[simp] theorem keeps_sendFlit (h : Keeps false z s) (w : Work) (t : Nat) (l : Link) (upset : List Nat) :
    Keeps false z (s.sendFlit w t l upset) := by
  unfold State.sendFlit
  split
  · cases hf : (s.linkFrom w t .row).bind fun e => s.passFlit w e upset with
    | none => exact h
    | some s' =>
      obtain ⟨e, -, he⟩ := Option.bind_eq_some_iff.mp hf
      exact keeps_passFlit h he
  · extract_lets s1
    have h1 : Keeps false z s1 := keeps_drainLink _ _ _ _ h
    clear_value s1
    refine keeps_ite (fun _ => h1) fun _ => ?_
    split
    · split
      · exact h1
      · exact keeps_ite (fun _ => keeps_landFlit (keeps_takeFlit h1 _ _ _) _ _ _ _ _) fun _ => h1
    · exact keeps_injectFlit h1 _ _ _ _

end Sys2Proof.Machine
end

