-- ==== Sys2Proof/Laws/KeepsDatum.lean ====
section
/-! SUPPORT. The operations of Machine/Datum.lean keep what every command keeps. -/

namespace Sys2Proof.Machine

open Sys2Proof

variable {qt : Bool} {z s : State}

/-- modeReq keeps it. -/
@[simp] theorem keeps_modeReq (hk : Keeps qt z s) (v : W64) :
    Keeps qt z (s.modeReq v) := by
  simp [State.modeReq, hk]

/-- applyEpoch keeps it. -/
@[simp] theorem keeps_applyEpoch (hk : Keeps qt z s) :
    Keeps qt z (s.applyEpoch) := by
  unfold State.applyEpoch
  simp +contextual (maxDischargeDepth := 20) [hk]

/-- markFired keeps it. -/
@[simp] theorem keeps_markFired (hk : Keeps qt z s) (e : Nat) :
    Keeps qt z (s.markFired e) := by
  exact hk

/-- actLook keeps it. -/
@[simp] theorem keeps_actLook (hk : Keeps qt z s) (e : Nat) :
    Keeps qt z (s.actLook e) := by
  simp [State.actLook, hk]

/-- actWindow keeps it. -/
@[simp] theorem keeps_actWindow (hk : Keeps qt z s) (e : Nat) :
    Keeps qt z (s.actWindow e) := by
  exact hk

/-- actCheckpoint keeps it. -/
@[simp] theorem keeps_actCheckpoint (hk : Keeps qt z s) :
    Keeps qt z (s.actCheckpoint) := by
  simp [State.actCheckpoint, hk]

/-- flushHeld keeps it. -/
@[simp] theorem keeps_flushHeld (hk : Keeps false z s) (ctx : Nat) :
    Keeps false z (s.flushHeld ctx) := by
  unfold State.flushHeld
  dsimp only
  repeat' first | exact hk | (simp (maxDischargeDepth := 20) [*]; done) | split | (refine keeps_foldl (fun _ _ _ => ?_) _ ?_) | dsimp only

/-- openWindow keeps it. -/
@[simp] theorem keeps_openWindow (hk : Keeps false z s) (ctx : Nat) :
    Keeps false z (s.openWindow ctx) := by
  simp [State.openWindow, hk]

/-- closeWindow keeps it. -/
@[simp] theorem keeps_closeWindow (hk : Keeps qt z s) (ctx : Nat) :
    Keeps qt z (s.closeWindow ctx) := by
  simp [State.closeWindow, hk]

/-- actEntry keeps it. -/
@[simp] theorem keeps_actEntry (hk : Keeps false z s) (e : Nat) :
    Keeps false z (s.actEntry e) := by
  unfold State.actEntry
  (repeat' split) <;> simp (maxDischargeDepth := 20) [hk]

/-- fireEntry keeps it. -/
@[simp] theorem keeps_fireEntry (hk : Keeps false z s) (kind e : Nat) :
    Keeps false z (s.fireEntry kind e) := by
  unfold State.fireEntry
  simp +contextual (maxDischargeDepth := 20) [hk]

/-- rejectPulse keeps it. -/
@[simp] theorem keeps_rejectPulse (hk : Keeps qt z s) :
    Keeps qt z (s.rejectPulse) := by
  unfold State.rejectPulse
  simp +contextual (maxDischargeDepth := 20) [hk]

/-- A Bearing within the accumulator's bound keeps it. -/
theorem keeps_acc (h : Keeps qt z s) (v : Nat) (hv : v ≤ 2 ^ 57) : Keeps qt z { s with dat := { s.dat with acc := v } } :=
  { h with kAcc := fun _ => hv }

/-- fireLate keeps it: the Bearing an event is scheduled at is within the accumulator's bound. -/
@[simp] theorem keeps_fireLate (h : Keeps false z s) (x : Nat × Nat × Nat × BEvent) : Keeps false z (s.fireLate x) := by
  have h1 := keeps_acc h (min (2 ^ 57) (x.1 * 2 ^ 44)) (Nat.min_le_left _ _)
  unfold State.fireLate
  dsimp only
  generalize min (2 ^ 57) (x.1 * 2 ^ 44) = v at h1 ⊢
  split
  · exact keeps_actEntry (keeps_markFired h1 _) _
  · exact keeps_ite (fun _ => keeps_fireDeadline h1 _) fun _ => h1
  · exact keeps_ite (fun _ => keeps_bearingDone h1 _) fun _ => h1

/-- fireAll keeps it. -/
@[simp] theorem keeps_fireAll (hk : Keeps false z s) :
    Keeps false z (s.fireAll) := by
  unfold State.fireAll
  simp +contextual (maxDischargeDepth := 20) [hk]

/-- track keeps it: the accumulator restarts at 0. -/
@[simp] theorem keeps_track (h : Keeps qt z s) : Keeps qt z s.track := by
  exact { h with kAcc := fun _ => Nat.zero_le _ }

/-- advancePass keeps it. -/
@[simp] theorem keeps_advancePass (hk : Keeps qt z s) (ctx : Nat) :
    Keeps qt z (s.advancePass ctx) := by
  unfold State.advancePass
  simp +contextual (maxDischargeDepth := 20) [hk]

/-- resetWindows keeps it. -/
@[simp] theorem keeps_resetWindows (hk : Keeps false z s) :
    Keeps false z (s.resetWindows) := by
  unfold State.resetWindows
  simp +contextual (maxDischargeDepth := 20) [hk]

/-- openWindows keeps it. -/
@[simp] theorem keeps_openWindows (hk : Keeps false z s) :
    Keeps false z (s.openWindows) := by
  unfold State.openWindows
  simp +contextual (maxDischargeDepth := 20) [hk]

/-- releasePassed keeps it. -/
@[simp] theorem keeps_releasePassed (hk : Keeps qt z s) :
    Keeps qt z (s.releasePassed) := by
  unfold State.releasePassed
  simp +contextual (maxDischargeDepth := 20) [hk]

/-- acceptPulse keeps it. -/
@[simp] theorem keeps_acceptPulse (hk : Keeps false z s) (pass : W64) :
    Keeps false z (s.acceptPulse pass) := by
  unfold State.acceptPulse
  simp +contextual (maxDischargeDepth := 20) [hk]

/-- startFree keeps it. -/
@[simp] theorem keeps_startFree (h : Keeps qt z s) : Keeps qt z s.startFree := by
  unfold State.startFree
  extract_lets b0 d s0 s1 fired
  have h0 : Keeps qt z s0 := { h with kAcc := fun _ => Nat.zero_le _ }
  clear_value s0
  have h1 : Keeps qt z s1 := keeps_ite (fun _ => keeps_applyEpoch h0) fun _ => h0
  clear_value s1
  apply keeps_endHolds
  exact h1

/-- enterFree keeps it. -/
@[simp] theorem keeps_enterFree (hk : Keeps false z s) :
    Keeps false z (s.enterFree) := by
  unfold State.enterFree
  simp +contextual (maxDischargeDepth := 20) [hk]

end Sys2Proof.Machine
end

