-- ==== Sys2Proof/Laws/KeepsContexts.lean ====
section
/-! SUPPORT. The operations of Machine/Contexts.lean keep what every command keeps. -/

namespace Sys2Proof.Machine

open Sys2Proof

variable {qt : Bool} {z s : State}

/-- runCtxOp keeps it where the operation does. -/
@[simp] theorem keeps_runCtxOp (h : Keeps qt z s) (op : State → Nat → Nat × State) (hop : ∀ c, Keeps qt z (op s c).2) :
    Keeps qt z (s.runCtxOp op) := by
  unfold State.runCtxOp
  refine keeps_ite (fun _ => h) fun _ => keeps_ite (fun _ => h) fun _ => ?_
  dsimp only
  split
  · exact hop _
  · exact h

/-- skipLate keeps it. -/
@[simp] theorem keeps_skipLate (hk : Keeps qt z s) (ctx : Nat) :
    Keeps qt z (s.skipLate ctx) :=
  have h1 := keeps_markLate hk ctx
  keeps_ite (fun _ => h1) fun _ => h1

/-- opCreate keeps it. -/
@[simp] theorem keeps_opCreate (h : Keeps qt z s) (c : Nat) : Keeps qt z (s.opCreate c).2 := by
  unfold State.opCreate
  extract_lets n e r w
  clear_value e r w
  split
  · exact h
  · split
    · exact h
    · exact keeps_skipLate (keeps_updRt (keeps_updCtx h _ _) _ _) _

/-- opUpdate keeps it. -/
@[simp] theorem keeps_opUpdate (h : Keeps qt z s) (c : Nat) : Keeps qt z (s.opUpdate c).2 := by
  unfold State.opUpdate
  extract_lets n old new rounds r s1 moved gen s2
  have h1 : Keeps qt z s1 := keeps_updRt (keeps_updCtx h _ _) _ _
  have h2 : Keeps qt z s2 := keeps_updStream h1 _ _
  clear_value s2 s1 r moved rounds new
  split
  · exact h
  · split
    · exact h
    · split
      · exact h
      · split
        · exact keeps_skipLate (keeps_ite (fun _ => keeps_updRt h2 _ _) fun _ => h2) _
        · split
          · exact keeps_skipLate (keeps_updRt h1 _ _) _
          · exact h1

/-- opDestroy keeps it. -/
@[simp] theorem keeps_opDestroy (h : Keeps qt z s) (c : Nat) : Keeps qt z (s.opDestroy c).2 := by
  unfold State.opDestroy
  repeat' first | (simp (maxDischargeDepth := 20) [h]; done) | split | dsimp only

/-- opRead keeps it. -/
@[simp] theorem keeps_opRead (h : Keeps qt z s) (c : Nat) : Keeps qt z (s.opRead c).2 := by
  unfold State.opRead
  repeat' first | (simp (maxDischargeDepth := 20) [h]; done) | split | dsimp only

/-- opSync keeps it. -/
@[simp] theorem keeps_opSync (h : Keeps qt z s) (c : Nat) : Keeps qt z (s.opSync c).2 := by
  unfold State.opSync
  repeat' first | (simp (maxDischargeDepth := 20) [h]; done) | split | dsimp only

/-- opReset keeps it. -/
@[simp] theorem keeps_opReset (h : Keeps false z s) (c : Nat) : Keeps false z (s.opReset c).2 := by
  unfold State.opReset
  repeat' first | (simp (maxDischargeDepth := 20) [h]; done) | split | dsimp only

/-- writeCtxCmd keeps it. -/
@[simp] theorem keeps_writeCtxCmd (h : Keeps false z s) (op : Nat) : Keeps false z (s.writeCtxCmd op) := by
  unfold State.writeCtxCmd
  split <;> simp [h]

end Sys2Proof.Machine
end

