-- ==== Sys2Proof/Laws/KeepsFootpath.lean ====
section
/-! SUPPORT. The operations of Machine/Footpath.lean keep what every command keeps. -/

namespace Sys2Proof.Machine

open Sys2Proof

variable {qt : Bool} {z s : State}

/-- slotFailed keeps it. -/
@[simp] theorem keeps_slotFailed (hk : Keeps qt z s) (q : Nat) :
    Keeps qt z (s.slotFailed q) := by
  unfold State.slotFailed
  simp +contextual (maxDischargeDepth := 20) [hk]

/-- fpDone keeps it. -/
@[simp] theorem keeps_fpDone (hk : Keeps qt z s) (id : CmdId) :
    Keeps qt z (s.fpDone id) := by
  exact hk

/-- flagResponse keeps it. -/
@[simp] theorem keeps_flagResponse (hk : Keeps qt z s) (id : CmdId) (addr : Nat) :
    Keeps qt z (s.flagResponse id addr) := by
  unfold State.flagResponse
  (repeat' split) <;> simp (maxDischargeDepth := 20) [hk]

/-- ownResponse keeps it. -/
@[simp] theorem keeps_ownResponse (hk : Keeps qt z s) (id : CmdId) (addr : Nat) (r : Resp) :
    Keeps qt z (s.ownResponse id addr r) := by
  unfold State.ownResponse
  dsimp only
  repeat' first | exact hk | (simp (maxDischargeDepth := 20) [*]; done) | split | (refine keeps_foldl (fun _ _ _ => ?_) _ ?_) | dsimp only

/-- fpAfter keeps it. -/
@[simp] theorem keeps_fpAfter (hk : Keeps false z s) (q : FpReq) (r : Resp) :
    Keeps false z (s.fpAfter q r) := by
  unfold State.fpAfter
  (repeat' split) <;> simp (maxDischargeDepth := 20) [hk]

/-- fpResponse keeps it. -/
@[simp] theorem keeps_fpResponse (hk : Keeps false z s) (u : FpUse) (r : Resp) :
    Keeps false z (s.fpResponse u r) := by
  unfold State.fpResponse
  (repeat' split) <;> simp (maxDischargeDepth := 20) [hk]

end Sys2Proof.Machine
end

