-- ==== Sys2Proof/Laws/KeepsSelfTest.lean ====
section
/-! SUPPORT. The operations of Machine/SelfTest.lean keep what every command keeps. -/

namespace Sys2Proof.Machine

open Sys2Proof

variable {qt : Bool} {z s : State}

/-- updBatch keeps it. -/
@[simp] theorem keeps_updBatch (hk : Keeps qt z s) (b : Nat) (f : Batch → Batch) :
    Keeps qt z (s.updBatch b f) := by
  simp [State.updBatch, hk]

/-- pauseArrs keeps it. -/
@[simp] theorem keeps_pauseArrs (hk : Keeps qt z s) (l : List Nat) (on : Bool) :
    Keeps qt z (s.pauseArrs l on) := by
  simp [State.pauseArrs, hk]

/-- countPause keeps it. -/
@[simp] theorem keeps_countPause (hk : Keeps qt z s) (l : List Nat) (us : Nat) :
    Keeps qt z (s.countPause l us) := by
  exact keeps_foldl (fun _ _ hx => keeps_foldl (fun _ _ hy => keeps_ite (fun _ => keeps_countWork hy _ _ _ _) fun _ => hy) _ hx) _ hk

/-- testRecord keeps it. -/
@[simp] theorem keeps_testRecord (hk : Keeps qt z s) (ctx : Option Nat) (p : Nat) :
    Keeps qt z (s.testRecord ctx p) := by
  unfold State.testRecord
  (repeat' split) <;> simp (maxDischargeDepth := 20) [hk]

/-- testFailed keeps it. -/
@[simp] theorem keeps_testFailed (hk : Keeps qt z s) (f : TestFail) :
    Keeps qt z (s.testFailed f) := by
  unfold State.testFailed
  simp +contextual (maxDischargeDepth := 20) [hk]

/-- settleTests keeps it. -/
@[simp] theorem keeps_settleTests (hk : Keeps qt z s) :
    Keeps qt z (s.settleTests) := by
  unfold State.settleTests
  simp +contextual (maxDischargeDepth := 20) [hk]

/-- unqueue keeps it. -/
@[simp] theorem keeps_unqueue (hk : Keeps qt z s) (l : List Nat) :
    Keeps qt z (s.unqueue l) := by
  simp [State.unqueue, hk]

/-- batchEnd keeps it. -/
@[simp] theorem keeps_batchEnd (hk : Keeps qt z s) (b : Nat) (fail : Option TestFail) :
    Keeps qt z (s.batchEnd b fail) := by
  unfold State.batchEnd
  (repeat' split) <;> simp (maxDischargeDepth := 20) [hk]

/-- runSelftest keeps it. -/
@[simp] theorem keeps_runSelftest (hk : Keeps qt z s) (c : Cmd) :
    Keeps qt z (s.runSelftest c) := by
  unfold State.runSelftest
  simp +contextual (maxDischargeDepth := 20) [hk]

/-- startFull keeps it. -/
@[simp] theorem keeps_startFull (hk : Keeps qt z s) (c : Cmd) (ready : Bool) :
    Keeps qt z (s.startFull c ready) := by
  unfold State.startFull
  simp +contextual (maxDischargeDepth := 20) [hk]

/-- fullEnd keeps it. -/
@[simp] theorem keeps_fullEnd (hk : Keeps qt z s) (id : CmdId) (since : Nat) (fail : Option TestFail) :
    Keeps qt z (s.fullEnd id since fail) := by
  unfold State.fullEnd
  dsimp only
  repeat' first | exact hk | (simp (maxDischargeDepth := 20) [*]; done) | split | (refine keeps_foldl (fun _ _ _ => ?_) _ ?_) | dsimp only

end Sys2Proof.Machine
end

