-- ==== Sys2Proof/Laws/KeepsStartup.lean ====
section
/-! SUPPORT. The operations of Machine/Startup.lean keep what every command keeps. -/

namespace Sys2Proof.Machine

open Sys2Proof

variable {qt : Bool} {z s : State}

/-- loseWrites keeps it. -/
@[simp] theorem keeps_loseWrites (hk : Keeps false z s) :
    Keeps false z (s.loseWrites) := by
  unfold State.loseWrites
  simp +contextual (maxDischargeDepth := 20) [hk]

/-- warmReset keeps it of an engine in service: what is out of service or isolated stays so. -/
theorem keeps_warmReset (h : Keeps false z s) (hout : s.flt.out = false) : Keeps false z s.warmReset := by
  have h1 := keeps_loseWrites h
  unfold State.warmReset State.restart
  generalize s.loseWrites = t at h1 ⊢
  exact { h1 with
    kCtxs := fun _ => rfl, kRts := fun _ => rfl, kCmqs := fun _ => rfl, kEvqs := fun _ => rfl, kSched := fun _ => rfl
    kAcc := fun _ => Nat.zero_le _, kOut := fun hz => absurd (h.kOut hz) (by simp [hout])
    kTiles := by simpa using h1.kTiles, kArrs := fun _ => rfl, kBatches := fun _ => rfl, kDrops := fun _ => rfl
    kIsolated := fun c hc => by simp [Nat.testBit_or, h.kIsolated c hc] }

/-- runBist keeps it. -/
@[simp] theorem keeps_runBist (hk : Keeps qt z s) :
    Keeps qt z (s.runBist) := by
  simp [State.runBist, hk]

/-- tapBist keeps it. -/
@[simp] theorem keeps_tapBist (hk : Keeps qt z s) : Keeps qt z s.tapBist := keeps_ite (fun _ => keeps_runBist hk) fun _ => hk

/-- tapEvent keeps it. -/
@[simp] theorem keeps_tapEvent (h : Keeps qt z s) (e : TapEvent) : Keeps qt z (s.tapEvent e) := by
  cases e <;> first | exact h | exact keeps_tapBist h

/-- tapEvents keeps it. -/
@[simp] theorem keeps_tapEvents (h : Keeps qt z s) (l : List TapEvent) : Keeps qt z (s.tapEvents l) := keeps_foldl (fun _ _ hx => keeps_tapEvent hx _) _ h

/-- bistEnd keeps it. -/
@[simp] theorem keeps_bistEnd (hk : Keeps qt z s) (r : BistResult) :
    Keeps qt z (s.bistEnd r) := by
  unfold State.bistEnd
  simp +contextual (maxDischargeDepth := 20) [hk]

end Sys2Proof.Machine
end

