-- ==== Sys2Proof/Laws/KeepsRegs.lean ====
section
/-! SUPPORT. The operations of Machine/Regs.lean keep what every command keeps. -/

namespace Sys2Proof.Machine

open Sys2Proof

variable {qt : Bool} {z s : State}

/-- lockedWrite keeps it. -/
@[simp] theorem keeps_lockedWrite (hk : Keeps qt z s) (o : Nat) :
    Keeps qt z (s.lockedWrite o) := by
  simp [State.lockedWrite, hk]

/-- writeStage keeps it. -/
@[simp] theorem keeps_writeStage (hk : Keeps qt z s) (o : Nat) (v : W64) :
    Keeps qt z (s.writeStage o v) := by
  simp [State.writeStage, hk]

/-- writeLgdCtl keeps it. -/
@[simp] theorem keeps_writeLgdCtl (hk : Keeps qt z s) (v : W64) :
    Keeps qt z (s.writeLgdCtl v) := by
  unfold State.writeLgdCtl
  simp +contextual (maxDischargeDepth := 20) [hk]

/-- writeWin keeps it. -/
@[simp] theorem keeps_writeWin (hk : Keeps qt z s) (f : CtxWin → CtxWin) :
    Keeps qt z (s.writeWin f) := by
  simp [State.writeWin, hk]

/-- writeRoundCtl keeps it. -/
@[simp] theorem keeps_writeRoundCtl (hk : Keeps false z s) (v : W64) :
    Keeps false z (s.writeRoundCtl v) := by
  unfold State.writeRoundCtl
  (repeat' split) <;> simp (maxDischargeDepth := 20) [hk]

/-- writeSched keeps it. -/
@[simp] theorem keeps_writeSched (h : Keeps qt z s) (o i : Nat) (f : Nat × Nat → Nat × Nat) : Keeps qt z (s.writeSched o i f) := by
  unfold State.writeSched
  exact keeps_ite (fun _ => keeps_lockedWrite h _) fun _ => { h with kSched := fun x => Tab.wf_upd _ (h.kSched x) _ _ }

/-- writeRwl keeps it. -/
@[simp] theorem keeps_writeRwl (hk : Keeps qt z s) (o : Nat) (f : Lgd → Lgd) :
    Keeps qt z (s.writeRwl o f) := by
  simp [State.writeRwl, hk]

/-- writeWindow keeps it. -/
@[simp] theorem keeps_writeWindow (hk : Keeps qt z s) (o w : Nat) (v : W64) :
    Keeps qt z (s.writeWindow o w v) := by
  simp [State.writeWindow, hk]

/-- writeAlmCtl keeps it. -/
@[simp] theorem keeps_writeAlmCtl (hk : Keeps qt z s) (v : W64) :
    Keeps qt z (s.writeAlmCtl v) := by
  unfold State.writeAlmCtl
  (repeat' split) <;> simp (maxDischargeDepth := 20) [hk]

/-- writePerf keeps it. -/
@[simp] theorem keeps_writePerf (hk : Keeps qt z s) (i : PerfId) (v : W64) :
    Keeps qt z (s.writePerf i v) := by
  simp [State.writePerf, hk]

/-- writeReg keeps it. -/
@[simp] theorem keeps_writeReg (hk : Keeps false z s) (o : Nat) (r : Reg) (v : W64) :
    Keeps false z (s.writeReg o r v) := by
  unfold State.writeReg
  (repeat' split) <;> simp (maxDischargeDepth := 20) [hk]

end Sys2Proof.Machine
end

