-- ==== Sys2Proof/Laws/KeepsMeanings.lean ====
section
/-! SUPPORT. What each meaning keeps, one lemma for each command. Those that leave host memory alone say Keeps true; of the others,
ALMANAC_POR, PORESET_ASSERT and SYSRESET_RELEASE give up by their own rules what Keeps says of the domains they reset. -/

namespace Sys2Proof.Machine

open Sys2Proof

/-- What gpPair keeps. -/
theorem execGpPair_keeps {s s' : State} (c : CmdId) (h : execGpPair c s = .next s') :
    Keeps false s s' := by
  have hk := Keeps.refl false s
  unfold execGpPair at h
  injection h with h; subst h
  simp

/-- What gpData keeps. -/
theorem execGpData_keeps {s s' : State} (c : CmdId) (h : execGpData c s = .next s') :
    Keeps false s s' := by
  have hk := Keeps.refl false s
  unfold execGpData at h
  injection h with h; subst h
  simp

/-- What gpWeight keeps. -/
theorem execGpWeight_keeps {s s' : State} (c : CmdId) (h : execGpWeight c s = .next s') :
    Keeps false s s' := by
  have hk := Keeps.refl false s
  unfold execGpWeight at h
  injection h with h; subst h
  simp

/-- What mm keeps. -/
theorem execMm_keeps {s s' : State} (c : CmdId) (h : execMm c s = .next s') :
    Keeps false s s' := by
  have hk := Keeps.refl false s
  unfold execMm at h
  injection h with h; subst h
  simp

/-- What gpGrouped keeps. -/
theorem execGpGrouped_keeps {s s' : State} (c : CmdId) (h : execGpGrouped c s = .next s') :
    Keeps false s s' := by
  have hk := Keeps.refl false s
  unfold execGpGrouped at h
  injection h with h; subst h
  simp

/-- What convData keeps. -/
theorem execConvData_keeps {s s' : State} (c : CmdId) (h : execConvData c s = .next s') :
    Keeps false s s' := by
  have hk := Keeps.refl false s
  unfold execConvData at h
  injection h with h; subst h
  simp

/-- What convWeight keeps. -/
theorem execConvWeight_keeps {s s' : State} (c : CmdId) (h : execConvWeight c s = .next s') :
    Keeps false s s' := by
  have hk := Keeps.refl false s
  unfold execConvWeight at h
  injection h with h; subst h
  simp

/-- What matvec keeps. -/
theorem execMatvec_keeps {s s' : State} (c : CmdId) (h : execMatvec c s = .next s') :
    Keeps false s s' := by
  have hk := Keeps.refl false s
  unfold execMatvec at h
  injection h with h; subst h
  simp

/-- What survey keeps. -/
theorem execSurvey_keeps {s s' : State} (c : CmdId) (h : execSurvey c s = .next s') :
    Keeps false s s' := by
  have hk := Keeps.refl false s
  unfold execSurvey at h
  injection h with h; subst h
  simp

/-- What deriv keeps. -/
theorem execDeriv_keeps {s s' : State} (c : CmdId) (h : execDeriv c s = .next s') :
    Keeps false s s' := by
  have hk := Keeps.refl false s
  unfold execDeriv at h
  injection h with h; subst h
  simp

/-- What pushMark keeps. -/
theorem execPushMark_keeps {s s' : State} (c : CmdId) (h : execPushMark c s = .next s') :
    Keeps false s s' := by
  have hk := Keeps.refl false s
  unfold execPushMark at h
  injection h with h; subst h
  simp

/-- What discardToMark keeps. -/
theorem execDiscardToMark_keeps {s s' : State} (c : CmdId) (h : execDiscardToMark c s = .next s') :
    Keeps true s s' := by
  have hk := Keeps.refl true s
  unfold execDiscardToMark at h
  injection h with h; subst h
  simp

/-- What discardAll keeps. -/
theorem execDiscardAll_keeps {s s' : State} (c : CmdId) (h : execDiscardAll c s = .next s') :
    Keeps true s s' := by
  have hk := Keeps.refl true s
  unfold execDiscardAll at h
  injection h with h; subst h
  simp

/-- What reduceScatter keeps. -/
theorem execReduceScatter_keeps {s s' : State} (c : CmdId) (h : execReduceScatter c s = .next s') :
    Keeps false s s' := by
  have hk := Keeps.refl false s
  unfold execReduceScatter at h
  injection h with h; subst h
  simp +contextual (maxDischargeDepth := 20)

/-- What vector keeps. -/
theorem execVector_keeps {s s' : State} (c : CmdId) (h : execVector c s = .next s') :
    Keeps false s s' := by
  have hk := Keeps.refl false s
  unfold execVector at h
  injection h with h; subst h
  simp +contextual (maxDischargeDepth := 20)

/-- What mosaicGather keeps. -/
theorem execMosaicGather_keeps {s s' : State} (c : CmdId) (h : execMosaicGather c s = .next s') :
    Keeps false s s' := by
  have hk := Keeps.refl false s
  unfold execMosaicGather at h
  injection h with h; subst h
  simp +contextual (maxDischargeDepth := 20)

/-- What replay keeps. -/
theorem execReplay_keeps {s s' : State} (c : CmdId) (h : execReplay c s = .next s') :
    Keeps false s s' := by
  have hk := Keeps.refl false s
  unfold execReplay at h
  injection h with h; subst h
  simp +contextual (maxDischargeDepth := 20)

/-- What apply keeps. -/
theorem execApply_keeps {s s' : State} (c : CmdId) (h : execApply c s = .next s') :
    Keeps false s s' := by
  have hk := Keeps.refl false s
  unfold execApply at h
  injection h with h; subst h
  simp

/-- What norm keeps. -/
theorem execNorm_keeps {s s' : State} (c : CmdId) (h : execNorm c s = .next s') :
    Keeps false s s' := by
  have hk := Keeps.refl false s
  unfold execNorm at h
  injection h with h; subst h
  simp

/-- What copy keeps. -/
theorem execCopy_keeps {s s' : State} (c : CmdId) (h : execCopy c s = .next s') :
    Keeps false s s' := by
  have hk := Keeps.refl false s
  unfold execCopy at h
  injection h with h; subst h
  exact keeps_runOp hk _ _ _ fun _ => keeps_ite (fun _ => keeps_runCopy hk _) fun _ => keeps_askPieces hk _ _ _

/-- What fill keeps. -/
theorem execFill_keeps {s s' : State} (c : CmdId) (h : execFill c s = .next s') :
    Keeps false s s' := by
  have hk := Keeps.refl false s
  unfold execFill at h
  injection h with h; subst h
  simp

/-- What fence keeps. -/
theorem execFence_keeps {s s' : State} (id : CmdId) (h : execFence id s = .next s') :
    Keeps true s s' := by
  have hk := Keeps.refl true s
  unfold execFence at h
  injection h with h; subst h
  simp +contextual (maxDischargeDepth := 20)

/-- What waitFlag keeps. -/
theorem execWaitFlag_keeps {s s' : State} (id : CmdId) (h : execWaitFlag id s = .next s') :
    Keeps true s s' := by
  have hk := Keeps.refl true s
  unfold execWaitFlag at h
  injection h with h; subst h
  simp

/-- What signalFlag keeps. -/
theorem execSignalFlag_keeps {s s' : State} (id : CmdId) (h : execSignalFlag id s = .next s') :
    Keeps true s s' := by
  have hk := Keeps.refl true s
  unfold execSignalFlag at h
  injection h with h; subst h
  simp +contextual (maxDischargeDepth := 20)

/-- What atBearing keeps. -/
theorem execAtBearing_keeps {s s' : State} (id : CmdId) (h : execAtBearing id s = .next s') :
    Keeps true s s' := by
  have hk := Keeps.refl true s
  unfold execAtBearing at h
  injection h with h; subst h
  simp +contextual (maxDischargeDepth := 20)

/-- What selftest keeps. -/
theorem execSelftest_keeps {s s' : State} (c : CmdId) (h : execSelftest c s = .next s') :
    Keeps true s s' := by
  have hk := Keeps.refl true s
  unfold execSelftest at h
  injection h with h; subst h
  simp

/-- What fullSelftest keeps. -/
theorem execFullSelftest_keeps {s s' : State} (c : CmdId) (h : execFullSelftest c s = .next s') :
    Keeps true s s' := by
  have hk := Keeps.refl true s
  unfold execFullSelftest at h
  injection h with h; subst h
  simp +contextual (maxDischargeDepth := 20)

/-- What preemptSelftest keeps. -/
theorem execPreemptSelftest_keeps {s s' : State} (c : CmdId) (h : execPreemptSelftest c s = .next s') :
    Keeps true s s' := by
  have hk := Keeps.refl true s
  unfold execPreemptSelftest at h
  injection h with h; subst h
  simp +contextual (maxDischargeDepth := 20)

/-- What doorbell keeps. -/
theorem execDoorbell_keeps {s s' : State} (q : Nat) (v : W64) (h : execDoorbell q v s = .next s') :
    Keeps true s s' := by
  have hk := Keeps.refl true s
  unfold execDoorbell at h
  injection h with h; subst h
  simp

/-- What commandAccept keeps. -/
theorem execCommandAccept_keeps {s s' : State} (q : Nat) (h : execCommandAccept q s = .next s') :
    Keeps true s s' := by
  have hk := Keeps.refl true s
  unfold execCommandAccept at h
  injection h with h; subst h
  exact keeps_ite (fun _ => keeps_accept hk _) fun _ => keeps_ite (fun _ => keeps_readSlotAt hk _) fun _ => hk

/-- What commandIssue keeps. -/
theorem execCommandIssue_keeps {s s' : State} (q : Nat) (h : execCommandIssue q s = .next s') :
    Keeps true s s' := by
  have hk := Keeps.refl true s
  unfold execCommandIssue at h
  injection h with h; subst h
  dsimp only
  repeat' first | exact hk | (simp (maxDischargeDepth := 20) [*]; done) | split | (refine keeps_foldl (fun _ _ _ => ?_) _ ?_) | dsimp only

/-- What commandBegin keeps. -/
theorem execCommandBegin_keeps {s s' : State} (q : Nat) (h : execCommandBegin q s = .next s') :
    Keeps true s s' := by
  have hk := Keeps.refl true s
  unfold execCommandBegin at h
  injection h with h; subst h
  dsimp only
  repeat' first | exact hk | (simp (maxDischargeDepth := 20) [*]; done) | split | (refine keeps_foldl (fun _ _ _ => ?_) _ ?_) | dsimp only

/-- What frameResolve keeps. -/
theorem execFrameResolve_keeps {s s' : State} (id : CmdId) (h : execFrameResolve id s = .next s') :
    Keeps true s s' := by
  have hk := Keeps.refl true s
  unfold execFrameResolve at h
  injection h with h; subst h
  (repeat' split) <;> simp (maxDischargeDepth := 20)

/-- What commandComplete keeps. -/
theorem execCommandComplete_keeps {s s' : State} (id : CmdId) (h : execCommandComplete id s = .next s') :
    Keeps false s s' := by
  have hk := Keeps.refl false s
  unfold execCommandComplete at h
  injection h with h; subst h
  (repeat' split) <;> simp (maxDischargeDepth := 20)

/-- What deadline keeps. -/
theorem execDeadline_keeps {s s' : State} (id : CmdId) (h : execDeadline id s = .next s') :
    Keeps true s s' := by
  have hk := Keeps.refl true s
  unfold execDeadline at h
  injection h with h; subst h
  (repeat' split) <;> simp (maxDischargeDepth := 20)

/-- What abortDone keeps. -/
theorem execAbortDone_keeps {s s' : State} (c : CmdId) (h : execAbortDone c s = .next s') :
    Keeps false s s' := by
  have hk := Keeps.refl false s
  unfold execAbortDone at h
  injection h with h; subst h
  simp

/-- What abortTimeout keeps. -/
theorem execAbortTimeout_keeps {s s' : State} (id : CmdId) (h : execAbortTimeout id s = .next s') :
    Keeps false s s' := by
  have hk := Keeps.refl false s
  unfold execAbortTimeout at h
  injection h with h; subst h
  (repeat' split) <;> simp (maxDischargeDepth := 20)

/-- What tileBeat keeps. -/
theorem execTileBeat_keeps {s s' : State} (t stalls : Nat) (upset : Option Upset) (h : execTileBeat t stalls upset s = .next s') :
    Keeps true s s' := by
  have hk := Keeps.refl true s
  unfold execTileBeat at h
  injection h with h; subst h
  dsimp only
  split
  · split
    · exact keeps_countWork hk _ _ _ _
    · exact hk
  · refine keeps_onTile hk _ _ fun x w hx => keeps_ite (fun _ => keeps_ite (fun _ => keeps_countWork hx _ _ _ _) fun _ => hx) fun _ => ?_
    have h1 := keeps_drainLinks hx w t
    split
    · exact keeps_countWork h1 _ _ _ _
    · exact keeps_pumpCh (keeps_drainLinks (keeps_tileBeat h1 _ _ _) _ _) _

/-- What anchorReady keeps. -/
theorem execAnchorReady_keeps {s s' : State} (t : Nat) (h : execAnchorReady t s = .next s') :
    Keeps true s s' := by
  have hk := Keeps.refl true s
  unfold execAnchorReady at h
  injection h with h; subst h
  simp +contextual (maxDischargeDepth := 20)

/-- What drainAccept keeps. -/
theorem execDrainAccept_keeps {s s' : State} (t : Nat) (h : execDrainAccept t s = .next s') : Keeps true s s' := by
  injection h with h; subst h
  exact keeps_onTile (Keeps.refl true s) _ _ fun _ _ hx => keeps_drainAccept hx _ _

/-- What drainDone keeps. -/
theorem execDrainDone_keeps {s s' : State} (t : Nat) (h : execDrainDone t s = .next s') :
    Keeps false s s' := by
  have hk := Keeps.refl false s
  unfold execDrainDone at h
  injection h with h; subst h
  simp +contextual (maxDischargeDepth := 20)

/-- What flitTransfer keeps. -/
theorem execFlitTransfer_keeps {s s' : State} (t : Nat) (l : Link) (upset : List Nat) (h : execFlitTransfer t l upset s = .next s') :
    Keeps false s s' := by
  injection h with h; subst h
  exact keeps_onTile (Keeps.refl false s) _ _ fun _ _ hx => keeps_sendFlit hx _ _ _ _

/-- What partialEast keeps. -/
theorem execPartialEast_keeps {s s' : State} (t : Nat) (h : execPartialEast t s = .next s') :
    Keeps false s s' := by
  have hk := Keeps.refl false s
  unfold execPartialEast at h
  injection h with h; subst h
  simp +contextual (maxDischargeDepth := 20)

/-- What lineRequest keeps. -/
theorem execLineRequest_keeps {s s' : State} (ch : Nat) (h : execLineRequest ch s = .next s') : Keeps true s s' := by
  unfold execLineRequest at h
  injection h with h; subst h
  refine keeps_ite (fun _ => Keeps.refl true s) fun _ => ?_
  have h1 := keeps_giveThreads ch 32 (keeps_countSpurWait (Keeps.refl true s) ch)
  dsimp only
  split
  · exact h1
  · exact keeps_pumpLook (keeps_endConvoys (keeps_placeCh (keeps_pumpCh (keeps_activeCycle h1 _ _) _) _))

/-- What atlasLineArrive keeps. -/
theorem execAtlasLineArrive_keeps {s s' : State} (ch i : Nat) (bad : Bool) (h : execAtlasLineArrive ch i bad s = .next s') :
    Keeps true s s' := by
  have hk := Keeps.refl true s
  unfold execAtlasLineArrive at h
  injection h with h; subst h
  split
  · exact hk
  · extract_lets th w s1
    have h1 : Keeps true s s1 := by
      apply keeps_sramError
      exact hk
    clear_value s1
    refine keeps_ite (fun _ => hk) fun _ => keeps_ite (fun _ => keeps_endConvoys (keeps_missLine hk _ _ _)) fun _ =>
      keeps_ite (fun _ => hk) fun _ => keeps_ite (fun _ => ?_) fun _ =>
        keeps_endConvoys (keeps_placeCh (keeps_pumpCh (keeps_setThread (keeps_comeLine hk _ _) _ _ _) _) _)
    split
    · exact keeps_endConvoys (keeps_abort h1 _ _)
    · exact h1

/-- What runAhead keeps. -/
theorem execRunAhead_keeps {s s' : State} (ch i : Nat) (h : execRunAhead ch i s = .next s') :
    Keeps true s s' := by
  have hk := Keeps.refl true s
  unfold execRunAhead at h
  injection h with h; subst h
  simp +contextual (maxDischargeDepth := 20)

/-- What nextOpPrefetch keeps. -/
theorem execNextOpPrefetch_keeps {s s' : State} (a : Nat) (h : execNextOpPrefetch a s = .next s') : Keeps true s s' := by
  have hk := Keeps.refl true s
  unfold execNextOpPrefetch at h
  injection h with h; subst h
  cases s.prefetchFor a with
  | none => exact hk
  | some c => exact keeps_ite (fun _ => keeps_foldl (fun _ _ h => keeps_prefill h _ _ _) _ hk) fun _ => hk

/-- What memReadResponse keeps. -/
theorem execMemReadResponse_keeps {s s' : State} (port line : Nat) (r : Resp) (h : execMemReadResponse port line r s = .next s') :
    Keeps true s s' := by
  have hk := Keeps.refl true s
  unfold execMemReadResponse at h
  injection h with h; subst h
  apply keeps_fpResume
  (repeat' split) <;> simp (maxDischargeDepth := 20)

/-- What memWriteResponse keeps. -/
theorem execMemWriteResponse_keeps {s s' : State} (port line : Nat) (r : Resp) (h : execMemWriteResponse port line r s = .next s') :
    Keeps true s s' := by
  have hk := Keeps.refl true s
  unfold execMemWriteResponse at h
  injection h with h; subst h
  split
  · exact hk
  · refine keeps_ite (fun _ => hk) fun _ => keeps_fpResume ?_
    have h1 : Keeps true s { s with memq := s.memq.eraseP fun x => x.line == line && x.sent } := hk
    split
    · exact keeps_cmdWriteDone h1 _ _ _ _
    · exact keeps_frameWriteDone h1 _ _ _ _
    · exact keeps_resetWriteDone h1 _

/-- What footpathResponse keeps. -/
theorem execFootpathResponse_keeps {s s' : State} (u : FpUse) (r : Resp) (h : execFootpathResponse u r s = .next s') :
    Keeps false s s' := by
  have hk := Keeps.refl false s
  unfold execFootpathResponse at h
  injection h with h; subst h
  (repeat' split) <;> simp (maxDischargeDepth := 20)

/-- What notifyGap keeps. -/
theorem execNotifyGap_keeps {s s' : State} (q : Nat) (h : execNotifyGap q s = .next s') :
    Keeps true s s' := by
  have hk := Keeps.refl true s
  unfold execNotifyGap at h
  injection h with h; subst h
  simp +contextual (maxDischargeDepth := 20)

/-- What flagInterval keeps. -/
theorem execFlagInterval_keeps {s s' : State} (id : CmdId) (h : execFlagInterval id s = .next s') :
    Keeps true s s' := by
  have hk := Keeps.refl true s
  unfold execFlagInterval at h
  injection h with h; subst h
  simp

/-- What invalidation keeps. -/
theorem execInvalidation_keeps {s s' : State} (addr : Addr) (size : BitVec 4) (written : AgentWrite)
    (h : execInvalidation addr size written s = .next s') : Keeps false s s' := by
  have hk := Keeps.refl false s
  unfold execInvalidation at h
  injection h with h; subst h
  dsimp only
  split
  · exact keeps_agentWrite hk _ _
  · exact hk
  · exact keeps_setFeed (keeps_agentWrite hk _ _) _

/-- What invFilterFree keeps. -/
theorem execInvFilterFree_keeps {s s' : State} (slot : Nat) (h : execInvFilterFree slot s = .next s') :
    Keeps true s s' := by
  have hk := Keeps.refl true s
  unfold execInvFilterFree at h
  injection h with h; subst h
  (repeat' split) <;> simp (maxDischargeDepth := 20)

/-- What bankConvoy keeps. -/
theorem execBankConvoy_keeps {s s' : State} (ch : Nat) (h : execBankConvoy ch s = .next s') :
    Keeps true s s' := by
  have hk := Keeps.refl true s
  unfold execBankConvoy at h
  injection h with h; subst h
  dsimp only
  repeat' first | exact hk | (simp (maxDischargeDepth := 20) [*]; done) | split | (refine keeps_foldl (fun _ _ _ => ?_) _ ?_) | dsimp only

/-- What scrub keeps. -/
theorem execScrub_keeps {s s' : State} (h : ScrubHit) (h : execScrub h s = .next s') :
    Keeps true s s' := by
  have hk := Keeps.refl true s
  unfold execScrub at h
  injection h with h; subst h
  (repeat' split) <;> simp (maxDischargeDepth := 20)

/-- What traversePush keeps. -/
theorem execTraversePush_keeps {s s' : State} (port : Nat) (bytes : List Byte) (h : execTraversePush port bytes s = .next s') :
    Keeps false s s' := by
  have hk := Keeps.refl false s
  unfold execTraversePush at h
  injection h with h; subst h
  simp

/-- What traverseCommit keeps. -/
theorem execTraverseCommit_keeps {s s' : State} (port : Nat) (h : execTraverseCommit port s = .next s') :
    Keeps true s s' := by
  have hk := Keeps.refl true s
  unfold execTraverseCommit at h
  injection h with h; subst h
  simp

/-- What traverseEntryFree keeps. -/
theorem execTraverseEntryFree_keeps {s s' : State} (ctx : Nat) (h : execTraverseEntryFree ctx s = .next s') :
    Keeps true s s' := by
  have hk := Keeps.refl true s
  unfold execTraverseEntryFree at h
  injection h with h; subst h
  (repeat' split) <;> simp (maxDischargeDepth := 20)

/-- What reduce keeps. -/
theorem execReduce_keeps {s s' : State} (lane : Nat) (bytes : List Byte) (h : execReduce lane bytes s = .next s') :
    Keeps false s s' := by
  have hk := Keeps.refl false s
  unfold execReduce at h
  injection h with h; subst h
  simp

/-- What gather keeps. -/
theorem execGather_keeps {s s' : State} (lane : Nat) (bytes : List Byte) (h : execGather lane bytes s = .next s') :
    Keeps false s s' := by
  have hk := Keeps.refl false s
  unfold execGather at h
  injection h with h; subst h
  simp

/-- What vectorFrame keeps. -/
theorem execVectorFrame_keeps {s s' : State} (lane : Nat) (bytes : List Byte) (h : execVectorFrame lane bytes s = .next s') :
    Keeps false s s' := by
  have hk := Keeps.refl false s
  unfold execVectorFrame at h
  injection h with h; subst h
  simp

/-- What rankReady keeps. -/
theorem execRankReady_keeps {s s' : State} (ctx : Nat) (h : execRankReady ctx s = .next s') :
    Keeps false s s' := by
  have hk := Keeps.refl false s
  unfold execRankReady at h
  injection h with h; subst h
  simp

/-- What close keeps. -/
theorem execClose_keeps {s s' : State} (lane : Nat) (bytes : List Byte) (h : execClose lane bytes s = .next s') :
    Keeps false s s' := by
  have hk := Keeps.refl false s
  unfold execClose at h
  injection h with h; subst h
  simp

/-- What decide keeps. -/
theorem execDecide_keeps {s s' : State} (lane : Nat) (bytes : List Byte) (h : execDecide lane bytes s = .next s') :
    Keeps false s s' := by
  have hk := Keeps.refl false s
  unfold execDecide at h
  injection h with h; subst h
  simp

/-- What mosaicDeadline keeps. -/
theorem execMosaicDeadline_keeps {s s' : State} (ctx : Nat) (h : execMosaicDeadline ctx s = .next s') :
    Keeps false s s' := by
  have hk := Keeps.refl false s
  unfold execMosaicDeadline at h
  injection h with h; subst h
  simp

/-- What mosGrace keeps. -/
theorem execMosGrace_keeps {s s' : State} (ctx : Nat) (h : execMosGrace ctx s = .next s') :
    Keeps false s s' := by
  have hk := Keeps.refl false s
  unfold execMosGrace at h
  injection h with h; subst h
  simp

/-- What mosDecideWait keeps. -/
theorem execMosDecideWait_keeps {s s' : State} (ctx : Nat) (h : execMosDecideWait ctx s = .next s') :
    Keeps false s s' := by
  have hk := Keeps.refl false s
  unfold execMosDecideWait at h
  injection h with h; subst h
  simp +contextual (maxDischargeDepth := 20)

/-- What mosResume keeps. -/
theorem execMosResume_keeps {s s' : State} (ctx : Nat) (h : execMosResume ctx s = .next s') :
    Keeps true s s' := by
  have hk := Keeps.refl true s
  unfold execMosResume at h
  injection h with h; subst h
  simp

/-- What mosSeal keeps. -/
theorem execMosSeal_keeps {s s' : State} (ctx : Nat) (h : execMosSeal ctx s = .next s') :
    Keeps false s s' := by
  have hk := Keeps.refl false s
  unfold execMosSeal at h
  injection h with h; subst h
  simp

/-- What mosVoid keeps. -/
theorem execMosVoid_keeps {s s' : State} (ctx : Nat) (h : execMosVoid ctx s = .next s') :
    Keeps false s s' := by
  have hk := Keeps.refl false s
  unfold execMosVoid at h
  injection h with h; subst h
  simp

/-- What datumPulse keeps. -/
theorem execDatumPulse_keeps {s s' : State} (valid : Bool) (pass : W64) (h : execDatumPulse valid pass s = .next s') :
    Keeps false s s' := by
  have hk := Keeps.refl false s
  unfold execDatumPulse at h
  injection h with h; subst h
  simp +contextual (maxDischargeDepth := 20)

/-- What datumLost keeps. -/
theorem execDatumLost_keeps {s s' : State} (h : execDatumLost s = .next s') :
    Keeps false s s' := by
  have hk := Keeps.refl false s
  unfold execDatumLost at h
  injection h with h; subst h
  dsimp only
  repeat' first | exact hk | (simp (maxDischargeDepth := 20) [*]; done) | split | (refine keeps_foldl (fun _ _ _ => ?_) _ ?_) | dsimp only

/-- What accumulatorLimit keeps. -/
theorem execAccumulatorLimit_keeps {s s' : State} (h : execAccumulatorLimit s = .next s') :
    Keeps false s s' := by
  have hk := Keeps.refl false s
  unfold execAccumulatorLimit at h
  injection h with h; subst h
  simp

/-- What freePeriod keeps. -/
theorem execFreePeriod_keeps {s s' : State} (h : execFreePeriod s = .next s') :
    Keeps true s s' := by
  have hk := Keeps.refl true s
  unfold execFreePeriod at h
  injection h with h; subst h
  simp

/-- What lookahead keeps. -/
theorem execLookahead_keeps {s s' : State} (e : Nat) (h : execLookahead e s = .next s') : Keeps true s s' := by
  have hk := Keeps.refl true s
  unfold execLookahead State.fireEntry at h
  injection h with h; subst h
  refine keeps_ite (fun hd => ?_) fun _ => hk
  have hs : (s.markFired e).schedKind e = 1 := by
    simp only [State.entryDue, Bool.and_eq_true, beq_iff_eq] at hd
    exact hd.1.1.1.1.2
  unfold State.actEntry
  simp [hs]

/-- What selftestWindow keeps. -/
theorem execSelftestWindow_keeps {s s' : State} (e : Nat) (h : execSelftestWindow e s = .next s') : Keeps true s s' := by
  have hk := Keeps.refl true s
  unfold execSelftestWindow State.fireEntry at h
  injection h with h; subst h
  refine keeps_ite (fun hd => ?_) fun _ => hk
  have hs : (s.markFired e).schedKind e = 2 := by
    simp only [State.entryDue, Bool.and_eq_true, beq_iff_eq] at hd
    exact hd.1.1.1.1.2
  unfold State.actEntry
  simp [hs]

/-- What checkpoint keeps. -/
theorem execCheckpoint_keeps {s s' : State} (e : Nat) (h : execCheckpoint e s = .next s') : Keeps true s s' := by
  have hk := Keeps.refl true s
  unfold execCheckpoint State.fireEntry at h
  injection h with h; subst h
  refine keeps_ite (fun hd => ?_) fun _ => hk
  have hs : (s.markFired e).schedKind e = 3 := by
    simp only [State.entryDue, Bool.and_eq_true, beq_iff_eq] at hd
    exact hd.1.1.1.1.2
  unfold State.actEntry
  simp [hs]

/-- What sendOpen keeps. -/
theorem execSendOpen_keeps {s s' : State} (e : Nat) (h : execSendOpen e s = .next s') :
    Keeps false s s' := by
  have hk := Keeps.refl false s
  unfold execSendOpen at h
  injection h with h; subst h
  simp

/-- What sendClose keeps. -/
theorem execSendClose_keeps {s s' : State} (e : Nat) (h : execSendClose e s = .next s') : Keeps true s s' := by
  have hk := Keeps.refl true s
  unfold execSendClose State.fireEntry at h
  injection h with h; subst h
  refine keeps_ite (fun hd => ?_) fun _ => hk
  have hs : (s.markFired e).schedKind e = 5 := by
    simp only [State.entryDue, Bool.and_eq_true, beq_iff_eq] at hd
    exact hd.1.1.1.1.2
  unfold State.actEntry
  simp [hs]

/-- What atBearingReached keeps. -/
theorem execAtBearingReached_keeps {s s' : State} (id : CmdId) (h : execAtBearingReached id s = .next s') :
    Keeps true s s' := by
  have hk := Keeps.refl true s
  unfold execAtBearingReached at h
  injection h with h; subst h
  simp +contextual (maxDischargeDepth := 20)

/-- What modeReq keeps. -/
theorem execModeReq_keeps {s s' : State} (v : W64) (h : execModeReq v s = .next s') :
    Keeps true s s' := by
  have hk := Keeps.refl true s
  unfold execModeReq at h
  injection h with h; subst h
  simp

/-- What create keeps. -/
theorem execCreate_keeps {s s' : State} (h : execCreate s = .next s') :
    Keeps true s s' := by
  have hk := Keeps.refl true s
  unfold execCreate at h
  injection h with h; subst h
  exact keeps_cfgWrite hk (keeps_runCtxOp hk _ fun _ => keeps_opCreate hk _)

/-- What update keeps. -/
theorem execUpdate_keeps {s s' : State} (h : execUpdate s = .next s') :
    Keeps true s s' := by
  have hk := Keeps.refl true s
  unfold execUpdate at h
  injection h with h; subst h
  exact keeps_cfgWrite hk (keeps_runCtxOp hk _ fun _ => keeps_opUpdate hk _)

/-- What destroy keeps. -/
theorem execDestroy_keeps {s s' : State} (h : execDestroy s = .next s') :
    Keeps true s s' := by
  have hk := Keeps.refl true s
  unfold execDestroy at h
  injection h with h; subst h
  exact keeps_cfgWrite hk (keeps_runCtxOp hk _ fun _ => keeps_opDestroy hk _)

/-- What read keeps. -/
theorem execRead_keeps {s s' : State} (h : execRead s = .next s') :
    Keeps true s s' := by
  have hk := Keeps.refl true s
  unfold execRead at h
  injection h with h; subst h
  exact keeps_cfgWrite hk (keeps_runCtxOp hk _ fun _ => keeps_opRead hk _)

/-- What sync keeps. -/
theorem execSync_keeps {s s' : State} (h : execSync s = .next s') :
    Keeps true s s' := by
  have hk := Keeps.refl true s
  unfold execSync at h
  injection h with h; subst h
  exact keeps_cfgWrite hk (keeps_runCtxOp hk _ fun _ => keeps_opSync hk _)

/-- What reset keeps. -/
theorem execReset_keeps {s s' : State} (h : execReset s = .next s') :
    Keeps false s s' := by
  have hk := Keeps.refl false s
  unfold execReset at h
  injection h with h; subst h
  exact keeps_cfgWrite hk (keeps_runCtxOp hk _ fun _ => keeps_opReset hk _)

/-- What contextResetDone keeps. -/
theorem execContextResetDone_keeps {s s' : State} (ctx : Nat) (h : execContextResetDone ctx s = .next s') : Keeps false s s' := by
  have hk := Keeps.refl false s
  unfold execContextResetDone at h
  injection h with h; subst h
  exact keeps_ite (fun _ => keeps_endReset (keeps_foldl (fun _ _ h => keeps_resetRecord h _) _ hk) _) fun _ => hk

/-- What enable keeps. -/
theorem execEnable_keeps {s s' : State} (q : Nat) (v : W64) (h : execEnable q v s = .next s') :
    Keeps true s s' := by
  have hk := Keeps.refl true s
  unfold execEnable at h
  injection h with h; subst h
  simp

/-- What queueDisable keeps. -/
theorem execQueueDisable_keeps {s s' : State} (q : Nat) (v : W64) (h : execQueueDisable q v s = .next s') :
    Keeps true s s' := by
  have hk := Keeps.refl true s
  unfold execQueueDisable at h
  injection h with h; subst h
  simp

/-- What restart keeps. -/
theorem execRestart_keeps {s s' : State} (q : Nat) (v : W64) (h : execRestart q v s = .next s') :
    Keeps true s s' := by
  have hk := Keeps.refl true s
  unfold execRestart at h
  injection h with h; subst h
  simp

/-- What evqEnable keeps. -/
theorem execEvqEnable_keeps {s s' : State} (q : Nat) (v : W64) (h : execEvqEnable q v s = .next s') :
    Keeps true s s' := by
  have hk := Keeps.refl true s
  unfold execEvqEnable at h
  injection h with h; subst h
  simp

/-- What evqDisable keeps. -/
theorem execEvqDisable_keeps {s s' : State} (q : Nat) (v : W64) (h : execEvqDisable q v s = .next s') :
    Keeps true s s' := by
  have hk := Keeps.refl true s
  unfold execEvqDisable at h
  injection h with h; subst h
  simp

/-- What evqHead keeps. -/
theorem execEvqHead_keeps {s s' : State} (q : Nat) (v : W64) (h : execEvqHead q v s = .next s') :
    Keeps true s s' := by
  have hk := Keeps.refl true s
  unfold execEvqHead at h
  injection h with h; subst h
  simp

/-- What sequencerMismatch keeps. -/
theorem execSequencerMismatch_keeps {s s' : State} (u : SeqUnit) (h : execSequencerMismatch u s = .next s') :
    Keeps true s s' := by
  have hk := Keeps.refl true s
  unfold execSequencerMismatch at h
  injection h with h; subst h
  (repeat' split) <;> simp (maxDischargeDepth := 20)

/-- What isolationDone keeps. -/
theorem execIsolationDone_keeps {s s' : State} (ch : Nat) (h : execIsolationDone ch s = .next s') : Keeps true s s' := by
  have hk := Keeps.refl true s
  unfold execIsolationDone at h
  injection h with h; subst h
  refine keeps_ite (fun _ => keeps_setClocks (keeps_handOver ?_ _)) fun _ => hk
  exact { hk with kIsolated := fun c hc => by simp [testBit_putBits_one, hc] }

/-- What clockMonitor keeps. -/
theorem execClockMonitor_keeps {s s' : State} (t mhz : Nat) (h : execClockMonitor t mhz s = .next s') :
    Keeps true s s' := by
  have hk := Keeps.refl true s
  unfold execClockMonitor at h
  injection h with h; subst h
  simp +contextual (maxDischargeDepth := 20)

/-- What safeState keeps. -/
theorem execSafeState_keeps {s s' : State} (h : execSafeState s = .next s') :
    Keeps true s s' := by
  have hk := Keeps.refl true s
  unfold execSafeState at h
  injection h with h; subst h
  simp

/-- What safeStateTimeout keeps. -/
theorem execSafeStateTimeout_keeps {s s' : State} (h : execSafeStateTimeout s = .next s') :
    Keeps true s s' := by
  have hk := Keeps.refl true s
  unfold execSafeStateTimeout at h
  injection h with h; subst h
  simp

/-- What droop keeps. -/
theorem execDroop_keeps {s s' : State} (t mhz : Nat) (h : execDroop t mhz s = .next s') :
    Keeps true s s' := by
  have hk := Keeps.refl true s
  unfold execDroop at h
  injection h with h; subst h
  simp

/-- What droopClear keeps. -/
theorem execDroopClear_keeps {s s' : State} (t : Nat) (h : execDroopClear t s = .next s') :
    Keeps true s s' := by
  have hk := Keeps.refl true s
  unfold execDroopClear at h
  injection h with h; subst h
  simp

/-- What computeReset keeps. -/
theorem execComputeReset_keeps {s s' : State} (v : W64) (h : execComputeReset v s = .next s') :
    Keeps true s s' := by
  have hk := Keeps.refl true s
  unfold execComputeReset at h
  injection h with h; subst h
  simp

/-- What computeResetDone keeps. -/
theorem execComputeResetDone_keeps {s s' : State} (h : execComputeResetDone s = .next s') :
    Keeps true s s' := by
  have hk := Keeps.refl true s
  unfold execComputeResetDone at h
  injection h with h; subst h
  exact keeps_ite (fun _ => keeps_applyLegend (keeps_ackAll (s := { s with flt := _ }) hk)) fun _ => hk

/-- What isolate keeps. -/
theorem execIsolate_keeps {s s' : State} (v : W64) (h : execIsolate v s = .next s') :
    Keeps true s s' := by
  have hk := Keeps.refl true s
  unfold execIsolate at h
  injection h with h; subst h
  simp

/-- What resetHang keeps. -/
theorem execResetHang_keeps {s s' : State} (h : Hang) (h : execResetHang h s = .next s') :
    Keeps true s s' := by
  have hk := Keeps.refl true s
  unfold execResetHang at h
  injection h with h; subst h
  dsimp only
  repeat' first | exact hk | (simp (maxDischargeDepth := 20) [*]; done) | split | (refine keeps_foldl (fun _ _ _ => ?_) _ ?_) | dsimp only

/-- What forcingPoint keeps. -/
theorem execForcingPoint_keeps {s s' : State} (b : Nat) (h : execForcingPoint b s = .next s') :
    Keeps true s s' := by
  have hk := Keeps.refl true s
  unfold execForcingPoint at h
  injection h with h; subst h
  simp

/-- What batchTest keeps. -/
theorem execBatchTest_keeps {s s' : State} (b : Nat) (h : execBatchTest b s = .next s') :
    Keeps true s s' := by
  have hk := Keeps.refl true s
  unfold execBatchTest at h
  injection h with h; subst h
  simp +contextual (maxDischargeDepth := 20)

/-- What batchDone keeps. -/
theorem execBatchDone_keeps {s s' : State} (b : Nat) (fail : Option TestFail) (h : execBatchDone b fail s = .next s') :
    Keeps true s s' := by
  have hk := Keeps.refl true s
  unfold execBatchDone at h
  injection h with h; subst h
  simp

/-- What rotationEnd keeps. -/
theorem execRotationEnd_keeps {s s' : State} (h : execRotationEnd s = .next s') :
    Keeps true s s' := by
  have hk := Keeps.refl true s
  unfold execRotationEnd at h
  injection h with h; subst h
  simp +contextual (maxDischargeDepth := 20)

/-- What fullTestDone keeps. -/
theorem execFullTestDone_keeps {s s' : State} (fail : Option TestFail) (h : execFullTestDone fail s = .next s') :
    Keeps true s s' := by
  have hk := Keeps.refl true s
  unfold execFullTestDone at h
  injection h with h; subst h
  (repeat' split) <;> simp (maxDischargeDepth := 20)

/-- A settled Almanac with more of the calendar keeps it. -/
theorem keeps_settleAlm {qt : Bool} {z s : State} (h : Keeps qt z s) (n k : Nat) :
    Keeps qt z { s with alm := Alm.settle { (s.alm.advance n) with ticks := k } } := by
  simp only [Alm.settle, Alm.advance, Alm.snap]
  (repeat' split) <;> first | exact h | exact { h with kCalValid := fun _ => rfl }

/-- More of the calendar keeps it. -/
theorem keeps_advanceAlm {qt : Bool} {z s : State} (h : Keeps qt z s) (n k : Nat) :
    Keeps qt z { s with alm := { (s.alm.advance n) with ticks := k } } := by
  simp only [Alm.advance]
  split <;> first | exact h | exact { h with kCalValid := h.kCalValid }

/-- Settling the Almanac keeps it. -/
theorem keeps_settle {qt : Bool} {z s : State} (h : Keeps qt z s) : Keeps qt z { s with alm := s.alm.settle } := by
  simp only [Alm.settle, Alm.snap]
  (repeat' split) <;> first | exact h | exact { h with kCalValid := fun _ => rfl }

/-- What almanacSecond keeps. -/
theorem execAlmanacSecond_keeps {s s' : State} (h : execAlmanacSecond s = .next s') : Keeps true s s' := by
  have hk := keeps_advanceAlm (Keeps.refl true s) (32768 - s.alm.ticks) 0
  unfold execAlmanacSecond at h
  injection h with h; subst h
  have h0 := keeps_addLife hk 0 1
  have h1 : ∀ b : Bool, Keeps true s (if b = true then State.addLife _ 0 1 else (State.addLife _ 0 1).addLife 1 1) :=
    fun b => keeps_ite (fun _ => h0) fun _ => keeps_addLife h0 1 1
  exact keeps_settle (keeps_ite (fun _ => keeps_addLife (h1 _) _ _) fun _ => h1 _)

/-- What wearSample keeps. -/
theorem execWearSample_keeps {s s' : State} (l : List (Nat × Int)) (h : execWearSample l s = .next s') :
    Keeps true s s' := by
  have hk := Keeps.refl true s
  unfold execWearSample at h
  injection h with h; subst h
  simp +contextual (maxDischargeDepth := 20)

/-- What toBackup keeps. -/
theorem execToBackup_keeps {s s' : State} (h : execToBackup s = .next s') :
    Keeps true s s' := by
  have hk := Keeps.refl true s
  unfold execToBackup at h
  injection h with h; subst h
  simp +contextual (maxDischargeDepth := 20)

/-- What toMain keeps. -/
theorem execToMain_keeps {s s' : State} (h : execToMain s = .next s') :
    Keeps true s s' := by
  have hk := Keeps.refl true s
  unfold execToMain at h
  injection h with h; subst h
  simp +contextual (maxDischargeDepth := 20)

/-- What backupLow keeps. -/
theorem execBackupLow_keeps {s s' : State} (h : execBackupLow s = .next s') :
    Keeps true s s' := by
  have hk := Keeps.refl true s
  unfold execBackupLow at h
  injection h with h; subst h
  simp

/-- What checkpointForced keeps. -/
theorem execCheckpointForced_keeps {s s' : State} (h : execCheckpointForced s = .next s') :
    Keeps true s s' := by
  have hk := Keeps.refl true s
  unfold execCheckpointForced at h
  injection h with h; subst h
  simp

/-- What checkpointRetry keeps. -/
theorem execCheckpointRetry_keeps {s s' : State} (h : execCheckpointRetry s = .next s') :
    Keeps true s s' := by
  have hk := Keeps.refl true s
  unfold execCheckpointRetry at h
  injection h with h; subst h
  (repeat' split) <;> simp (maxDischargeDepth := 20)

/-- What restore keeps. -/
theorem execRestore_keeps {s s' : State} (h : execRestore s = .next s') :
    Keeps true s s' := by
  have hk := Keeps.refl true s
  unfold execRestore at h
  injection h with h; subst h
  simp

/-- What noRestore keeps. -/
theorem execNoRestore_keeps {s s' : State} (h : execNoRestore s = .next s') :
    Keeps true s s' := by
  have hk := Keeps.refl true s
  unfold execNoRestore at h
  injection h with h; subst h
  simp

/-- What almTai keeps. -/
theorem execAlmTai_keeps {s s' : State} (v : W64) (h : execAlmTai v s = .next s') :
    Keeps true s s' := by
  have hk := Keeps.refl true s
  unfold execAlmTai at h
  injection h with h; subst h
  simp

/-- What almSnap keeps. -/
theorem execAlmSnap_keeps {s s' : State} (h : execAlmSnap s = .next s') :
    Keeps true s s' := by
  have hk := Keeps.refl true s
  unfold execAlmSnap at h
  injection h with h; subst h
  simp

/-- What stlSnap keeps. -/
theorem execStlSnap_keeps {s s' : State} (h : execStlSnap s = .next s') :
    Keeps true s s' := by
  have hk := Keeps.refl true s
  unfold execStlSnap at h
  injection h with h; subst h
  simp

/-- What stlClear keeps. -/
theorem execStlClear_keeps {s s' : State} (h : execStlClear s = .next s') :
    Keeps true s s' := by
  have hk := Keeps.refl true s
  unfold execStlClear at h
  injection h with h; subst h
  simp

/-- What clear keeps. -/
theorem execClear_keeps {s s' : State} (offset : Nat) (v : W64) (h : execClear offset v s = .next s') :
    Keeps true s s' := by
  have hk := Keeps.refl true s
  unfold execClear at h
  injection h with h; subst h
  (repeat' split) <;> simp (maxDischargeDepth := 20)

/-- What lgdBegin keeps. -/
theorem execLgdBegin_keeps {s s' : State} (h : execLgdBegin s = .next s') :
    Keeps true s s' := by
  have hk := Keeps.refl true s
  unfold execLgdBegin at h
  injection h with h; subst h
  simp

/-- What lgdData keeps. -/
theorem execLgdData_keeps {s s' : State} (v : W64) (h : execLgdData v s = .next s') :
    Keeps true s s' := by
  have hk := Keeps.refl true s
  unfold execLgdData at h
  injection h with h; subst h
  simp

/-- What fetch keeps. -/
theorem execFetch_keeps {s s' : State} (h : execFetch s = .next s') :
    Keeps true s s' := by
  have hk := Keeps.refl true s
  unfold execFetch at h
  injection h with h; subst h
  exact keeps_cfgWrite hk (keeps_ite (fun _ => hk) fun _ => keeps_fetchLegend hk)

/-- What legendVerified keeps. -/
theorem execLegendVerified_keeps {s s' : State} (h : execLegendVerified s = .next s') :
    Keeps true s s' := by
  have hk := Keeps.refl true s
  unfold execLegendVerified at h
  injection h with h; subst h
  simp

/-- What lgdSeal keeps. -/
theorem execLgdSeal_keeps {s s' : State} (h : execLgdSeal s = .next s') :
    Keeps true s s' := by
  have hk := Keeps.refl true s
  unfold execLgdSeal at h
  injection h with h; subst h
  simp

/-- What discard keeps. -/
theorem execDiscard_keeps {s s' : State} (h : execDiscard s = .next s') :
    Keeps true s s' := by
  have hk := Keeps.refl true s
  unfold execDiscard at h
  injection h with h; subst h
  simp

/-- What bistRun keeps. -/
theorem execBistRun_keeps {s s' : State} (h : execBistRun s = .next s') :
    Keeps true s s' := by
  have hk := Keeps.refl true s
  unfold execBistRun at h
  injection h with h; subst h
  simp

/-- What bistDone keeps. -/
theorem execBistDone_keeps {s s' : State} (r : BistResult) (h : execBistDone r s = .next s') :
    Keeps true s s' := by
  have hk := Keeps.refl true s
  unfold execBistDone at h
  injection h with h; subst h
  simp

/-- What poresetRelease keeps. -/
theorem execPoresetRelease_keeps {s s' : State} (p : TestPins) (h : execPoresetRelease p s = .next s') :
    Keeps true s s' := by
  have hk := Keeps.refl true s
  unfold execPoresetRelease at h
  injection h with h; subst h
  refine keeps_ite (fun _ => ?_) fun _ => keeps_tapEvents hk _
  apply keeps_tapEvents
  exact hk

/-- What sysresetAssert keeps. -/
theorem execSysresetAssert_keeps {s s' : State} (h : execSysresetAssert s = .next s') :
    Keeps true s s' := by
  have hk := Keeps.refl true s
  unfold execSysresetAssert at h
  injection h with h; subst h
  simp

/-- What registerWrite keeps. -/
theorem execRegisterWrite_keeps {s s' : State} (o : Nat) (v : W64) (strobe : Byte) (h : execRegisterWrite o v strobe s = .next s') :
    Keeps false s s' := by
  have hk := Keeps.refl false s
  unfold execRegisterWrite at h
  injection h with h; subst h
  (repeat' split) <;> simp (maxDischargeDepth := 20)

/-- What datumEdgesResumed keeps. -/
theorem execDatumEdgesResumed_keeps {s s' : State} (h : execDatumEdgesResumed s = .next s') :
    Keeps true s s' := by
  have hk := Keeps.refl true s
  unfold execDatumEdgesResumed at h
  injection h with h; subst h
  exact hk

/-- What vddAonBReturn keeps. -/
theorem execVddAonBReturn_keeps {s s' : State} (h : execVddAonBReturn s = .next s') :
    Keeps true s s' := by
  have hk := Keeps.refl true s
  unfold execVddAonBReturn at h
  injection h with h; subst h
  exact hk

/-- What contextOperationDone keeps. -/
theorem execContextOperationDone_keeps {s s' : State} (h : execContextOperationDone s = .next s') :
    Keeps true s s' := by
  have hk := Keeps.refl true s
  unfold execContextOperationDone at h
  injection h with h; subst h
  simp

/-- What timebaseTick keeps. -/
theorem execTimebaseTick_keeps {s s' : State} (h : execTimebaseTick s = .next s') : Keeps true s s' := by
  have hk := Keeps.refl true s
  unfold execTimebaseTick at h
  injection h with h; subst h
  simp only [Alm.settle, Alm.advance, Alm.snap]
  (repeat' split) <;> first | exact hk | exact { hk with kCalValid := fun _ => rfl }

/-- What supply keeps. -/
theorem execSupply_keeps {s s' : State} (rail mv : Nat) (h : execSupply rail mv s = .next s') :
    Keeps true s s' := by
  have hk := Keeps.refl true s
  unfold execSupply at h
  split at h
  · split at h
    · exact execVddAonBReturn_keeps h
    · exact execBackupLow_keeps h
  · injection h with h; subst h
    exact keeps_ite (fun _ => hk) fun _ => by
      apply keeps_leaveService
      exact keeps_ite (fun _ => hk) fun _ => hk

end Sys2Proof.Machine
end

