-- ==== Sys2Proof/Laws/State.lean ====
section
/-! SUPPORT. The fields of a state after each of the named updates: one lemma per field per update, and what each update puts into
the field it is named after. -/

namespace Sys2Proof.Machine

open Sys2Proof

variable (s : State)

/-! ## okay -/

@[simp] theorem okay_build : s.okay.build = s.build := rfl
@[simp] theorem okay_mem : s.okay.mem = s.mem := rfl
@[simp] theorem okay_undef : s.okay.undef = s.undef := rfl
@[simp] theorem okay_free : s.okay.free = s.free := rfl
@[simp] theorem okay_pending : s.okay.pending = s.pending := rfl
@[simp] theorem okay_flt : s.okay.flt = s.flt := rfl
@[simp] theorem okay_mode : s.okay.mode = s.mode := rfl
@[simp] theorem okay_lgd : s.okay.lgd = s.lgd := rfl
@[simp] theorem okay_win : s.okay.win = s.win := rfl
@[simp] theorem okay_ctxs : s.okay.ctxs = s.ctxs := rfl
@[simp] theorem okay_rts : s.okay.rts = s.rts := rfl
@[simp] theorem okay_cmqs : s.okay.cmqs = s.cmqs := rfl
@[simp] theorem okay_badDoorbell : s.okay.badDoorbell = s.badDoorbell := rfl
@[simp] theorem okay_cmds : s.okay.cmds = s.cmds := rfl
@[simp] theorem okay_accepted : s.okay.accepted = s.accepted := rfl
@[simp] theorem okay_evqs : s.okay.evqs = s.evqs := rfl
@[simp] theorem okay_headOverrun : s.okay.headOverrun = s.headOverrun := rfl
@[simp] theorem okay_log : s.okay.log = s.log := rfl
@[simp] theorem okay_fp : s.okay.fp = s.fp := rfl
@[simp] theorem okay_fpOut : s.okay.fpOut = s.fpOut := rfl
@[simp] theorem okay_fpRun : s.okay.fpRun = s.fpRun := rfl
@[simp] theorem okay_memq : s.okay.memq = s.memq := rfl
@[simp] theorem okay_dat : s.okay.dat = s.dat := rfl
@[simp] theorem okay_trv : s.okay.trv = s.trv := rfl
@[simp] theorem okay_mos : s.okay.mos = s.mos := rfl
@[simp] theorem okay_upd : s.okay.upd = s.upd := rfl
@[simp] theorem okay_arrs : s.okay.arrs = s.arrs := rfl
@[simp] theorem okay_tiles : s.okay.tiles = s.tiles := rfl
@[simp] theorem okay_feed : s.okay.feed = s.feed := rfl
@[simp] theorem okay_stl : s.okay.stl = s.stl := rfl
@[simp] theorem okay_alm : s.okay.alm = s.alm := rfl
@[simp] theorem okay_pwrDroops : s.okay.pwrDroops = s.pwrDroops := rfl
@[simp] theorem okay_tst : s.okay.tst = s.tst := rfl
@[simp] theorem okay_pins : s.okay.pins = { s.pins with cfg := .okay } := rfl

/-- Where CFG takes writes, a write does what it does and answers OKAY. -/
theorem cfgWrite_open (h : s.cfgOpen = true) (f : State → State) : s.cfgWrite f = (f s).okay := by
  have hp : s.pins.poreset = false := by simp only [State.cfgOpen, Bool.and_eq_true, Bool.not_eq_true'] at h; exact h.1.1
  simp [State.cfgWrite, h, hp]

/-- Where CFG is out of reset and takes no writes, a write answers OKAY and does nothing. -/
theorem cfgWrite_ignored (h : s.cfgOpen = false) (hp : s.pins.poreset = false) (f : State → State) : s.cfgWrite f = s.okay := by
  simp [State.cfgWrite, h, hp]

/-! ## updCtx -/

@[simp] theorem updCtx_build (c : Nat) (f : CtxEntry → CtxEntry) : (s.updCtx c f).build = s.build := rfl
@[simp] theorem updCtx_mem (c : Nat) (f : CtxEntry → CtxEntry) : (s.updCtx c f).mem = s.mem := rfl
@[simp] theorem updCtx_undef (c : Nat) (f : CtxEntry → CtxEntry) : (s.updCtx c f).undef = s.undef := rfl
@[simp] theorem updCtx_free (c : Nat) (f : CtxEntry → CtxEntry) : (s.updCtx c f).free = s.free := rfl
@[simp] theorem updCtx_pending (c : Nat) (f : CtxEntry → CtxEntry) : (s.updCtx c f).pending = s.pending := rfl
@[simp] theorem updCtx_pins (c : Nat) (f : CtxEntry → CtxEntry) : (s.updCtx c f).pins = s.pins := rfl
@[simp] theorem updCtx_flt (c : Nat) (f : CtxEntry → CtxEntry) : (s.updCtx c f).flt = s.flt := rfl
@[simp] theorem updCtx_mode (c : Nat) (f : CtxEntry → CtxEntry) : (s.updCtx c f).mode = s.mode := rfl
@[simp] theorem updCtx_lgd (c : Nat) (f : CtxEntry → CtxEntry) : (s.updCtx c f).lgd = s.lgd := rfl
@[simp] theorem updCtx_win (c : Nat) (f : CtxEntry → CtxEntry) : (s.updCtx c f).win = s.win := rfl
@[simp] theorem updCtx_rts (c : Nat) (f : CtxEntry → CtxEntry) : (s.updCtx c f).rts = s.rts := rfl
@[simp] theorem updCtx_cmqs (c : Nat) (f : CtxEntry → CtxEntry) : (s.updCtx c f).cmqs = s.cmqs := rfl
@[simp] theorem updCtx_badDoorbell (c : Nat) (f : CtxEntry → CtxEntry) : (s.updCtx c f).badDoorbell = s.badDoorbell := rfl
@[simp] theorem updCtx_cmds (c : Nat) (f : CtxEntry → CtxEntry) : (s.updCtx c f).cmds = s.cmds := rfl
@[simp] theorem updCtx_accepted (c : Nat) (f : CtxEntry → CtxEntry) : (s.updCtx c f).accepted = s.accepted := rfl
@[simp] theorem updCtx_evqs (c : Nat) (f : CtxEntry → CtxEntry) : (s.updCtx c f).evqs = s.evqs := rfl
@[simp] theorem updCtx_headOverrun (c : Nat) (f : CtxEntry → CtxEntry) : (s.updCtx c f).headOverrun = s.headOverrun := rfl
@[simp] theorem updCtx_log (c : Nat) (f : CtxEntry → CtxEntry) : (s.updCtx c f).log = s.log := rfl
@[simp] theorem updCtx_fp (c : Nat) (f : CtxEntry → CtxEntry) : (s.updCtx c f).fp = s.fp := rfl
@[simp] theorem updCtx_fpOut (c : Nat) (f : CtxEntry → CtxEntry) : (s.updCtx c f).fpOut = s.fpOut := rfl
@[simp] theorem updCtx_fpRun (c : Nat) (f : CtxEntry → CtxEntry) : (s.updCtx c f).fpRun = s.fpRun := rfl
@[simp] theorem updCtx_memq (c : Nat) (f : CtxEntry → CtxEntry) : (s.updCtx c f).memq = s.memq := rfl
@[simp] theorem updCtx_dat (c : Nat) (f : CtxEntry → CtxEntry) : (s.updCtx c f).dat = s.dat := rfl
@[simp] theorem updCtx_trv (c : Nat) (f : CtxEntry → CtxEntry) : (s.updCtx c f).trv = s.trv := rfl
@[simp] theorem updCtx_mos (c : Nat) (f : CtxEntry → CtxEntry) : (s.updCtx c f).mos = s.mos := rfl
@[simp] theorem updCtx_upd (c : Nat) (f : CtxEntry → CtxEntry) : (s.updCtx c f).upd = s.upd := rfl
@[simp] theorem updCtx_arrs (c : Nat) (f : CtxEntry → CtxEntry) : (s.updCtx c f).arrs = s.arrs := rfl
@[simp] theorem updCtx_tiles (c : Nat) (f : CtxEntry → CtxEntry) : (s.updCtx c f).tiles = s.tiles := rfl
@[simp] theorem updCtx_feed (c : Nat) (f : CtxEntry → CtxEntry) : (s.updCtx c f).feed = s.feed := rfl
@[simp] theorem updCtx_stl (c : Nat) (f : CtxEntry → CtxEntry) : (s.updCtx c f).stl = s.stl := rfl
@[simp] theorem updCtx_alm (c : Nat) (f : CtxEntry → CtxEntry) : (s.updCtx c f).alm = s.alm := rfl
@[simp] theorem updCtx_pwrDroops (c : Nat) (f : CtxEntry → CtxEntry) : (s.updCtx c f).pwrDroops = s.pwrDroops := rfl
@[simp] theorem updCtx_tst (c : Nat) (f : CtxEntry → CtxEntry) : (s.updCtx c f).tst = s.tst := rfl

/-! ## updRt -/

@[simp] theorem updRt_build (c : Nat) (f : CtxRt → CtxRt) : (s.updRt c f).build = s.build := rfl
@[simp] theorem updRt_mem (c : Nat) (f : CtxRt → CtxRt) : (s.updRt c f).mem = s.mem := rfl
@[simp] theorem updRt_undef (c : Nat) (f : CtxRt → CtxRt) : (s.updRt c f).undef = s.undef := rfl
@[simp] theorem updRt_free (c : Nat) (f : CtxRt → CtxRt) : (s.updRt c f).free = s.free := rfl
@[simp] theorem updRt_pending (c : Nat) (f : CtxRt → CtxRt) : (s.updRt c f).pending = s.pending := rfl
@[simp] theorem updRt_pins (c : Nat) (f : CtxRt → CtxRt) : (s.updRt c f).pins = s.pins := rfl
@[simp] theorem updRt_flt (c : Nat) (f : CtxRt → CtxRt) : (s.updRt c f).flt = s.flt := rfl
@[simp] theorem updRt_mode (c : Nat) (f : CtxRt → CtxRt) : (s.updRt c f).mode = s.mode := rfl
@[simp] theorem updRt_lgd (c : Nat) (f : CtxRt → CtxRt) : (s.updRt c f).lgd = s.lgd := rfl
@[simp] theorem updRt_win (c : Nat) (f : CtxRt → CtxRt) : (s.updRt c f).win = s.win := rfl
@[simp] theorem updRt_ctxs (c : Nat) (f : CtxRt → CtxRt) : (s.updRt c f).ctxs = s.ctxs := rfl
@[simp] theorem updRt_cmqs (c : Nat) (f : CtxRt → CtxRt) : (s.updRt c f).cmqs = s.cmqs := rfl
@[simp] theorem updRt_badDoorbell (c : Nat) (f : CtxRt → CtxRt) : (s.updRt c f).badDoorbell = s.badDoorbell := rfl
@[simp] theorem updRt_cmds (c : Nat) (f : CtxRt → CtxRt) : (s.updRt c f).cmds = s.cmds := rfl
@[simp] theorem updRt_accepted (c : Nat) (f : CtxRt → CtxRt) : (s.updRt c f).accepted = s.accepted := rfl
@[simp] theorem updRt_evqs (c : Nat) (f : CtxRt → CtxRt) : (s.updRt c f).evqs = s.evqs := rfl
@[simp] theorem updRt_headOverrun (c : Nat) (f : CtxRt → CtxRt) : (s.updRt c f).headOverrun = s.headOverrun := rfl
@[simp] theorem updRt_log (c : Nat) (f : CtxRt → CtxRt) : (s.updRt c f).log = s.log := rfl
@[simp] theorem updRt_fp (c : Nat) (f : CtxRt → CtxRt) : (s.updRt c f).fp = s.fp := rfl
@[simp] theorem updRt_fpOut (c : Nat) (f : CtxRt → CtxRt) : (s.updRt c f).fpOut = s.fpOut := rfl
@[simp] theorem updRt_fpRun (c : Nat) (f : CtxRt → CtxRt) : (s.updRt c f).fpRun = s.fpRun := rfl
@[simp] theorem updRt_memq (c : Nat) (f : CtxRt → CtxRt) : (s.updRt c f).memq = s.memq := rfl
@[simp] theorem updRt_dat (c : Nat) (f : CtxRt → CtxRt) : (s.updRt c f).dat = s.dat := rfl
@[simp] theorem updRt_trv (c : Nat) (f : CtxRt → CtxRt) : (s.updRt c f).trv = s.trv := rfl
@[simp] theorem updRt_mos (c : Nat) (f : CtxRt → CtxRt) : (s.updRt c f).mos = s.mos := rfl
@[simp] theorem updRt_upd (c : Nat) (f : CtxRt → CtxRt) : (s.updRt c f).upd = s.upd := rfl
@[simp] theorem updRt_arrs (c : Nat) (f : CtxRt → CtxRt) : (s.updRt c f).arrs = s.arrs := rfl
@[simp] theorem updRt_tiles (c : Nat) (f : CtxRt → CtxRt) : (s.updRt c f).tiles = s.tiles := rfl
@[simp] theorem updRt_feed (c : Nat) (f : CtxRt → CtxRt) : (s.updRt c f).feed = s.feed := rfl
@[simp] theorem updRt_stl (c : Nat) (f : CtxRt → CtxRt) : (s.updRt c f).stl = s.stl := rfl
@[simp] theorem updRt_alm (c : Nat) (f : CtxRt → CtxRt) : (s.updRt c f).alm = s.alm := rfl
@[simp] theorem updRt_pwrDroops (c : Nat) (f : CtxRt → CtxRt) : (s.updRt c f).pwrDroops = s.pwrDroops := rfl
@[simp] theorem updRt_tst (c : Nat) (f : CtxRt → CtxRt) : (s.updRt c f).tst = s.tst := rfl

/-! ## updStream -/

@[simp] theorem updStream_build (c : Nat) (f : Stream → Stream) : (s.updStream c f).build = s.build := rfl
@[simp] theorem updStream_mem (c : Nat) (f : Stream → Stream) : (s.updStream c f).mem = s.mem := rfl
@[simp] theorem updStream_undef (c : Nat) (f : Stream → Stream) : (s.updStream c f).undef = s.undef := rfl
@[simp] theorem updStream_free (c : Nat) (f : Stream → Stream) : (s.updStream c f).free = s.free := rfl
@[simp] theorem updStream_pending (c : Nat) (f : Stream → Stream) : (s.updStream c f).pending = s.pending := rfl
@[simp] theorem updStream_pins (c : Nat) (f : Stream → Stream) : (s.updStream c f).pins = s.pins := rfl
@[simp] theorem updStream_flt (c : Nat) (f : Stream → Stream) : (s.updStream c f).flt = s.flt := rfl
@[simp] theorem updStream_mode (c : Nat) (f : Stream → Stream) : (s.updStream c f).mode = s.mode := rfl
@[simp] theorem updStream_lgd (c : Nat) (f : Stream → Stream) : (s.updStream c f).lgd = s.lgd := rfl
@[simp] theorem updStream_win (c : Nat) (f : Stream → Stream) : (s.updStream c f).win = s.win := rfl
@[simp] theorem updStream_ctxs (c : Nat) (f : Stream → Stream) : (s.updStream c f).ctxs = s.ctxs := rfl
@[simp] theorem updStream_cmqs (c : Nat) (f : Stream → Stream) : (s.updStream c f).cmqs = s.cmqs := rfl
@[simp] theorem updStream_badDoorbell (c : Nat) (f : Stream → Stream) : (s.updStream c f).badDoorbell = s.badDoorbell := rfl
@[simp] theorem updStream_cmds (c : Nat) (f : Stream → Stream) : (s.updStream c f).cmds = s.cmds := rfl
@[simp] theorem updStream_accepted (c : Nat) (f : Stream → Stream) : (s.updStream c f).accepted = s.accepted := rfl
@[simp] theorem updStream_evqs (c : Nat) (f : Stream → Stream) : (s.updStream c f).evqs = s.evqs := rfl
@[simp] theorem updStream_headOverrun (c : Nat) (f : Stream → Stream) : (s.updStream c f).headOverrun = s.headOverrun := rfl
@[simp] theorem updStream_log (c : Nat) (f : Stream → Stream) : (s.updStream c f).log = s.log := rfl
@[simp] theorem updStream_fp (c : Nat) (f : Stream → Stream) : (s.updStream c f).fp = s.fp := rfl
@[simp] theorem updStream_fpOut (c : Nat) (f : Stream → Stream) : (s.updStream c f).fpOut = s.fpOut := rfl
@[simp] theorem updStream_fpRun (c : Nat) (f : Stream → Stream) : (s.updStream c f).fpRun = s.fpRun := rfl
@[simp] theorem updStream_memq (c : Nat) (f : Stream → Stream) : (s.updStream c f).memq = s.memq := rfl
@[simp] theorem updStream_dat (c : Nat) (f : Stream → Stream) : (s.updStream c f).dat = s.dat := rfl
@[simp] theorem updStream_trv (c : Nat) (f : Stream → Stream) : (s.updStream c f).trv = s.trv := rfl
@[simp] theorem updStream_mos (c : Nat) (f : Stream → Stream) : (s.updStream c f).mos = s.mos := rfl
@[simp] theorem updStream_upd (c : Nat) (f : Stream → Stream) : (s.updStream c f).upd = s.upd := rfl
@[simp] theorem updStream_arrs (c : Nat) (f : Stream → Stream) : (s.updStream c f).arrs = s.arrs := rfl
@[simp] theorem updStream_tiles (c : Nat) (f : Stream → Stream) : (s.updStream c f).tiles = s.tiles := rfl
@[simp] theorem updStream_feed (c : Nat) (f : Stream → Stream) : (s.updStream c f).feed = s.feed := rfl
@[simp] theorem updStream_stl (c : Nat) (f : Stream → Stream) : (s.updStream c f).stl = s.stl := rfl
@[simp] theorem updStream_alm (c : Nat) (f : Stream → Stream) : (s.updStream c f).alm = s.alm := rfl
@[simp] theorem updStream_pwrDroops (c : Nat) (f : Stream → Stream) : (s.updStream c f).pwrDroops = s.pwrDroops := rfl
@[simp] theorem updStream_tst (c : Nat) (f : Stream → Stream) : (s.updStream c f).tst = s.tst := rfl

/-! ## updCmq -/

@[simp] theorem updCmq_build (q : Nat) (f : CmQueue → CmQueue) : (s.updCmq q f).build = s.build := rfl
@[simp] theorem updCmq_mem (q : Nat) (f : CmQueue → CmQueue) : (s.updCmq q f).mem = s.mem := rfl
@[simp] theorem updCmq_undef (q : Nat) (f : CmQueue → CmQueue) : (s.updCmq q f).undef = s.undef := rfl
@[simp] theorem updCmq_free (q : Nat) (f : CmQueue → CmQueue) : (s.updCmq q f).free = s.free := rfl
@[simp] theorem updCmq_pending (q : Nat) (f : CmQueue → CmQueue) : (s.updCmq q f).pending = s.pending := rfl
@[simp] theorem updCmq_pins (q : Nat) (f : CmQueue → CmQueue) : (s.updCmq q f).pins = s.pins := rfl
@[simp] theorem updCmq_flt (q : Nat) (f : CmQueue → CmQueue) : (s.updCmq q f).flt = s.flt := rfl
@[simp] theorem updCmq_mode (q : Nat) (f : CmQueue → CmQueue) : (s.updCmq q f).mode = s.mode := rfl
@[simp] theorem updCmq_lgd (q : Nat) (f : CmQueue → CmQueue) : (s.updCmq q f).lgd = s.lgd := rfl
@[simp] theorem updCmq_win (q : Nat) (f : CmQueue → CmQueue) : (s.updCmq q f).win = s.win := rfl
@[simp] theorem updCmq_ctxs (q : Nat) (f : CmQueue → CmQueue) : (s.updCmq q f).ctxs = s.ctxs := rfl
@[simp] theorem updCmq_rts (q : Nat) (f : CmQueue → CmQueue) : (s.updCmq q f).rts = s.rts := rfl
@[simp] theorem updCmq_badDoorbell (q : Nat) (f : CmQueue → CmQueue) : (s.updCmq q f).badDoorbell = s.badDoorbell := rfl
@[simp] theorem updCmq_cmds (q : Nat) (f : CmQueue → CmQueue) : (s.updCmq q f).cmds = s.cmds := rfl
@[simp] theorem updCmq_accepted (q : Nat) (f : CmQueue → CmQueue) : (s.updCmq q f).accepted = s.accepted := rfl
@[simp] theorem updCmq_evqs (q : Nat) (f : CmQueue → CmQueue) : (s.updCmq q f).evqs = s.evqs := rfl
@[simp] theorem updCmq_headOverrun (q : Nat) (f : CmQueue → CmQueue) : (s.updCmq q f).headOverrun = s.headOverrun := rfl
@[simp] theorem updCmq_log (q : Nat) (f : CmQueue → CmQueue) : (s.updCmq q f).log = s.log := rfl
@[simp] theorem updCmq_fp (q : Nat) (f : CmQueue → CmQueue) : (s.updCmq q f).fp = s.fp := rfl
@[simp] theorem updCmq_fpOut (q : Nat) (f : CmQueue → CmQueue) : (s.updCmq q f).fpOut = s.fpOut := rfl
@[simp] theorem updCmq_fpRun (q : Nat) (f : CmQueue → CmQueue) : (s.updCmq q f).fpRun = s.fpRun := rfl
@[simp] theorem updCmq_memq (q : Nat) (f : CmQueue → CmQueue) : (s.updCmq q f).memq = s.memq := rfl
@[simp] theorem updCmq_dat (q : Nat) (f : CmQueue → CmQueue) : (s.updCmq q f).dat = s.dat := rfl
@[simp] theorem updCmq_trv (q : Nat) (f : CmQueue → CmQueue) : (s.updCmq q f).trv = s.trv := rfl
@[simp] theorem updCmq_mos (q : Nat) (f : CmQueue → CmQueue) : (s.updCmq q f).mos = s.mos := rfl
@[simp] theorem updCmq_upd (q : Nat) (f : CmQueue → CmQueue) : (s.updCmq q f).upd = s.upd := rfl
@[simp] theorem updCmq_arrs (q : Nat) (f : CmQueue → CmQueue) : (s.updCmq q f).arrs = s.arrs := rfl
@[simp] theorem updCmq_tiles (q : Nat) (f : CmQueue → CmQueue) : (s.updCmq q f).tiles = s.tiles := rfl
@[simp] theorem updCmq_feed (q : Nat) (f : CmQueue → CmQueue) : (s.updCmq q f).feed = s.feed := rfl
@[simp] theorem updCmq_stl (q : Nat) (f : CmQueue → CmQueue) : (s.updCmq q f).stl = s.stl := rfl
@[simp] theorem updCmq_alm (q : Nat) (f : CmQueue → CmQueue) : (s.updCmq q f).alm = s.alm := rfl
@[simp] theorem updCmq_pwrDroops (q : Nat) (f : CmQueue → CmQueue) : (s.updCmq q f).pwrDroops = s.pwrDroops := rfl
@[simp] theorem updCmq_tst (q : Nat) (f : CmQueue → CmQueue) : (s.updCmq q f).tst = s.tst := rfl

/-! ## updCmd -/

@[simp] theorem updCmd_build (c : CmdId) (f : Cmd → Cmd) : (s.updCmd c f).build = s.build := rfl
@[simp] theorem updCmd_mem (c : CmdId) (f : Cmd → Cmd) : (s.updCmd c f).mem = s.mem := rfl
@[simp] theorem updCmd_undef (c : CmdId) (f : Cmd → Cmd) : (s.updCmd c f).undef = s.undef := rfl
@[simp] theorem updCmd_free (c : CmdId) (f : Cmd → Cmd) : (s.updCmd c f).free = s.free := rfl
@[simp] theorem updCmd_pending (c : CmdId) (f : Cmd → Cmd) : (s.updCmd c f).pending = s.pending := rfl
@[simp] theorem updCmd_pins (c : CmdId) (f : Cmd → Cmd) : (s.updCmd c f).pins = s.pins := rfl
@[simp] theorem updCmd_flt (c : CmdId) (f : Cmd → Cmd) : (s.updCmd c f).flt = s.flt := rfl
@[simp] theorem updCmd_mode (c : CmdId) (f : Cmd → Cmd) : (s.updCmd c f).mode = s.mode := rfl
@[simp] theorem updCmd_lgd (c : CmdId) (f : Cmd → Cmd) : (s.updCmd c f).lgd = s.lgd := rfl
@[simp] theorem updCmd_win (c : CmdId) (f : Cmd → Cmd) : (s.updCmd c f).win = s.win := rfl
@[simp] theorem updCmd_ctxs (c : CmdId) (f : Cmd → Cmd) : (s.updCmd c f).ctxs = s.ctxs := rfl
@[simp] theorem updCmd_rts (c : CmdId) (f : Cmd → Cmd) : (s.updCmd c f).rts = s.rts := rfl
@[simp] theorem updCmd_cmqs (c : CmdId) (f : Cmd → Cmd) : (s.updCmd c f).cmqs = s.cmqs := rfl
@[simp] theorem updCmd_badDoorbell (c : CmdId) (f : Cmd → Cmd) : (s.updCmd c f).badDoorbell = s.badDoorbell := rfl
@[simp] theorem updCmd_accepted (c : CmdId) (f : Cmd → Cmd) : (s.updCmd c f).accepted = s.accepted := rfl
@[simp] theorem updCmd_evqs (c : CmdId) (f : Cmd → Cmd) : (s.updCmd c f).evqs = s.evqs := rfl
@[simp] theorem updCmd_headOverrun (c : CmdId) (f : Cmd → Cmd) : (s.updCmd c f).headOverrun = s.headOverrun := rfl
@[simp] theorem updCmd_log (c : CmdId) (f : Cmd → Cmd) : (s.updCmd c f).log = s.log := rfl
@[simp] theorem updCmd_fp (c : CmdId) (f : Cmd → Cmd) : (s.updCmd c f).fp = s.fp := rfl
@[simp] theorem updCmd_fpOut (c : CmdId) (f : Cmd → Cmd) : (s.updCmd c f).fpOut = s.fpOut := rfl
@[simp] theorem updCmd_fpRun (c : CmdId) (f : Cmd → Cmd) : (s.updCmd c f).fpRun = s.fpRun := rfl
@[simp] theorem updCmd_memq (c : CmdId) (f : Cmd → Cmd) : (s.updCmd c f).memq = s.memq := rfl
@[simp] theorem updCmd_dat (c : CmdId) (f : Cmd → Cmd) : (s.updCmd c f).dat = s.dat := rfl
@[simp] theorem updCmd_trv (c : CmdId) (f : Cmd → Cmd) : (s.updCmd c f).trv = s.trv := rfl
@[simp] theorem updCmd_mos (c : CmdId) (f : Cmd → Cmd) : (s.updCmd c f).mos = s.mos := rfl
@[simp] theorem updCmd_upd (c : CmdId) (f : Cmd → Cmd) : (s.updCmd c f).upd = s.upd := rfl
@[simp] theorem updCmd_arrs (c : CmdId) (f : Cmd → Cmd) : (s.updCmd c f).arrs = s.arrs := rfl
@[simp] theorem updCmd_tiles (c : CmdId) (f : Cmd → Cmd) : (s.updCmd c f).tiles = s.tiles := rfl
@[simp] theorem updCmd_feed (c : CmdId) (f : Cmd → Cmd) : (s.updCmd c f).feed = s.feed := rfl
@[simp] theorem updCmd_stl (c : CmdId) (f : Cmd → Cmd) : (s.updCmd c f).stl = s.stl := rfl
@[simp] theorem updCmd_alm (c : CmdId) (f : Cmd → Cmd) : (s.updCmd c f).alm = s.alm := rfl
@[simp] theorem updCmd_pwrDroops (c : CmdId) (f : Cmd → Cmd) : (s.updCmd c f).pwrDroops = s.pwrDroops := rfl
@[simp] theorem updCmd_tst (c : CmdId) (f : Cmd → Cmd) : (s.updCmd c f).tst = s.tst := rfl

/-! ## updEvq -/

@[simp] theorem updEvq_build (q : Nat) (f : EvQueue → EvQueue) : (s.updEvq q f).build = s.build := rfl
@[simp] theorem updEvq_mem (q : Nat) (f : EvQueue → EvQueue) : (s.updEvq q f).mem = s.mem := rfl
@[simp] theorem updEvq_undef (q : Nat) (f : EvQueue → EvQueue) : (s.updEvq q f).undef = s.undef := rfl
@[simp] theorem updEvq_free (q : Nat) (f : EvQueue → EvQueue) : (s.updEvq q f).free = s.free := rfl
@[simp] theorem updEvq_pending (q : Nat) (f : EvQueue → EvQueue) : (s.updEvq q f).pending = s.pending := rfl
@[simp] theorem updEvq_pins (q : Nat) (f : EvQueue → EvQueue) : (s.updEvq q f).pins = s.pins := rfl
@[simp] theorem updEvq_flt (q : Nat) (f : EvQueue → EvQueue) : (s.updEvq q f).flt = s.flt := rfl
@[simp] theorem updEvq_mode (q : Nat) (f : EvQueue → EvQueue) : (s.updEvq q f).mode = s.mode := rfl
@[simp] theorem updEvq_lgd (q : Nat) (f : EvQueue → EvQueue) : (s.updEvq q f).lgd = s.lgd := rfl
@[simp] theorem updEvq_win (q : Nat) (f : EvQueue → EvQueue) : (s.updEvq q f).win = s.win := rfl
@[simp] theorem updEvq_ctxs (q : Nat) (f : EvQueue → EvQueue) : (s.updEvq q f).ctxs = s.ctxs := rfl
@[simp] theorem updEvq_rts (q : Nat) (f : EvQueue → EvQueue) : (s.updEvq q f).rts = s.rts := rfl
@[simp] theorem updEvq_cmqs (q : Nat) (f : EvQueue → EvQueue) : (s.updEvq q f).cmqs = s.cmqs := rfl
@[simp] theorem updEvq_badDoorbell (q : Nat) (f : EvQueue → EvQueue) : (s.updEvq q f).badDoorbell = s.badDoorbell := rfl
@[simp] theorem updEvq_cmds (q : Nat) (f : EvQueue → EvQueue) : (s.updEvq q f).cmds = s.cmds := rfl
@[simp] theorem updEvq_accepted (q : Nat) (f : EvQueue → EvQueue) : (s.updEvq q f).accepted = s.accepted := rfl
@[simp] theorem updEvq_headOverrun (q : Nat) (f : EvQueue → EvQueue) : (s.updEvq q f).headOverrun = s.headOverrun := rfl
@[simp] theorem updEvq_log (q : Nat) (f : EvQueue → EvQueue) : (s.updEvq q f).log = s.log := rfl
@[simp] theorem updEvq_fp (q : Nat) (f : EvQueue → EvQueue) : (s.updEvq q f).fp = s.fp := rfl
@[simp] theorem updEvq_fpOut (q : Nat) (f : EvQueue → EvQueue) : (s.updEvq q f).fpOut = s.fpOut := rfl
@[simp] theorem updEvq_fpRun (q : Nat) (f : EvQueue → EvQueue) : (s.updEvq q f).fpRun = s.fpRun := rfl
@[simp] theorem updEvq_memq (q : Nat) (f : EvQueue → EvQueue) : (s.updEvq q f).memq = s.memq := rfl
@[simp] theorem updEvq_dat (q : Nat) (f : EvQueue → EvQueue) : (s.updEvq q f).dat = s.dat := rfl
@[simp] theorem updEvq_trv (q : Nat) (f : EvQueue → EvQueue) : (s.updEvq q f).trv = s.trv := rfl
@[simp] theorem updEvq_mos (q : Nat) (f : EvQueue → EvQueue) : (s.updEvq q f).mos = s.mos := rfl
@[simp] theorem updEvq_upd (q : Nat) (f : EvQueue → EvQueue) : (s.updEvq q f).upd = s.upd := rfl
@[simp] theorem updEvq_arrs (q : Nat) (f : EvQueue → EvQueue) : (s.updEvq q f).arrs = s.arrs := rfl
@[simp] theorem updEvq_tiles (q : Nat) (f : EvQueue → EvQueue) : (s.updEvq q f).tiles = s.tiles := rfl
@[simp] theorem updEvq_feed (q : Nat) (f : EvQueue → EvQueue) : (s.updEvq q f).feed = s.feed := rfl
@[simp] theorem updEvq_stl (q : Nat) (f : EvQueue → EvQueue) : (s.updEvq q f).stl = s.stl := rfl
@[simp] theorem updEvq_alm (q : Nat) (f : EvQueue → EvQueue) : (s.updEvq q f).alm = s.alm := rfl
@[simp] theorem updEvq_pwrDroops (q : Nat) (f : EvQueue → EvQueue) : (s.updEvq q f).pwrDroops = s.pwrDroops := rfl
@[simp] theorem updEvq_tst (q : Nat) (f : EvQueue → EvQueue) : (s.updEvq q f).tst = s.tst := rfl

/-! ## updTile -/

@[simp] theorem updTile_build (k : Nat) (f : Tile → Tile) : (s.updTile k f).build = s.build := rfl
@[simp] theorem updTile_mem (k : Nat) (f : Tile → Tile) : (s.updTile k f).mem = s.mem := rfl
@[simp] theorem updTile_undef (k : Nat) (f : Tile → Tile) : (s.updTile k f).undef = s.undef := rfl
@[simp] theorem updTile_free (k : Nat) (f : Tile → Tile) : (s.updTile k f).free = s.free := rfl
@[simp] theorem updTile_pending (k : Nat) (f : Tile → Tile) : (s.updTile k f).pending = s.pending := rfl
@[simp] theorem updTile_pins (k : Nat) (f : Tile → Tile) : (s.updTile k f).pins = s.pins := rfl
@[simp] theorem updTile_flt (k : Nat) (f : Tile → Tile) : (s.updTile k f).flt = s.flt := rfl
@[simp] theorem updTile_mode (k : Nat) (f : Tile → Tile) : (s.updTile k f).mode = s.mode := rfl
@[simp] theorem updTile_lgd (k : Nat) (f : Tile → Tile) : (s.updTile k f).lgd = s.lgd := rfl
@[simp] theorem updTile_win (k : Nat) (f : Tile → Tile) : (s.updTile k f).win = s.win := rfl
@[simp] theorem updTile_ctxs (k : Nat) (f : Tile → Tile) : (s.updTile k f).ctxs = s.ctxs := rfl
@[simp] theorem updTile_rts (k : Nat) (f : Tile → Tile) : (s.updTile k f).rts = s.rts := rfl
@[simp] theorem updTile_cmqs (k : Nat) (f : Tile → Tile) : (s.updTile k f).cmqs = s.cmqs := rfl
@[simp] theorem updTile_badDoorbell (k : Nat) (f : Tile → Tile) : (s.updTile k f).badDoorbell = s.badDoorbell := rfl
@[simp] theorem updTile_cmds (k : Nat) (f : Tile → Tile) : (s.updTile k f).cmds = s.cmds := rfl
@[simp] theorem updTile_accepted (k : Nat) (f : Tile → Tile) : (s.updTile k f).accepted = s.accepted := rfl
@[simp] theorem updTile_evqs (k : Nat) (f : Tile → Tile) : (s.updTile k f).evqs = s.evqs := rfl
@[simp] theorem updTile_headOverrun (k : Nat) (f : Tile → Tile) : (s.updTile k f).headOverrun = s.headOverrun := rfl
@[simp] theorem updTile_log (k : Nat) (f : Tile → Tile) : (s.updTile k f).log = s.log := rfl
@[simp] theorem updTile_fp (k : Nat) (f : Tile → Tile) : (s.updTile k f).fp = s.fp := rfl
@[simp] theorem updTile_fpOut (k : Nat) (f : Tile → Tile) : (s.updTile k f).fpOut = s.fpOut := rfl
@[simp] theorem updTile_fpRun (k : Nat) (f : Tile → Tile) : (s.updTile k f).fpRun = s.fpRun := rfl
@[simp] theorem updTile_memq (k : Nat) (f : Tile → Tile) : (s.updTile k f).memq = s.memq := rfl
@[simp] theorem updTile_dat (k : Nat) (f : Tile → Tile) : (s.updTile k f).dat = s.dat := rfl
@[simp] theorem updTile_trv (k : Nat) (f : Tile → Tile) : (s.updTile k f).trv = s.trv := rfl
@[simp] theorem updTile_mos (k : Nat) (f : Tile → Tile) : (s.updTile k f).mos = s.mos := rfl
@[simp] theorem updTile_upd (k : Nat) (f : Tile → Tile) : (s.updTile k f).upd = s.upd := rfl
@[simp] theorem updTile_arrs (k : Nat) (f : Tile → Tile) : (s.updTile k f).arrs = s.arrs := rfl
@[simp] theorem updTile_feed (k : Nat) (f : Tile → Tile) : (s.updTile k f).feed = s.feed := rfl
@[simp] theorem updTile_stl (k : Nat) (f : Tile → Tile) : (s.updTile k f).stl = s.stl := rfl
@[simp] theorem updTile_alm (k : Nat) (f : Tile → Tile) : (s.updTile k f).alm = s.alm := rfl
@[simp] theorem updTile_pwrDroops (k : Nat) (f : Tile → Tile) : (s.updTile k f).pwrDroops = s.pwrDroops := rfl
@[simp] theorem updTile_tst (k : Nat) (f : Tile → Tile) : (s.updTile k f).tst = s.tst := rfl

/-! ## setThread -/

@[simp] theorem setThread_build (ch i : Nat) (f : Thread → Thread) : (s.setThread ch i f).build = s.build := rfl
@[simp] theorem setThread_mem (ch i : Nat) (f : Thread → Thread) : (s.setThread ch i f).mem = s.mem := rfl
@[simp] theorem setThread_undef (ch i : Nat) (f : Thread → Thread) : (s.setThread ch i f).undef = s.undef := rfl
@[simp] theorem setThread_free (ch i : Nat) (f : Thread → Thread) : (s.setThread ch i f).free = s.free := rfl
@[simp] theorem setThread_pending (ch i : Nat) (f : Thread → Thread) : (s.setThread ch i f).pending = s.pending := rfl
@[simp] theorem setThread_pins (ch i : Nat) (f : Thread → Thread) : (s.setThread ch i f).pins = s.pins := rfl
@[simp] theorem setThread_flt (ch i : Nat) (f : Thread → Thread) : (s.setThread ch i f).flt = s.flt := rfl
@[simp] theorem setThread_mode (ch i : Nat) (f : Thread → Thread) : (s.setThread ch i f).mode = s.mode := rfl
@[simp] theorem setThread_lgd (ch i : Nat) (f : Thread → Thread) : (s.setThread ch i f).lgd = s.lgd := rfl
@[simp] theorem setThread_win (ch i : Nat) (f : Thread → Thread) : (s.setThread ch i f).win = s.win := rfl
@[simp] theorem setThread_ctxs (ch i : Nat) (f : Thread → Thread) : (s.setThread ch i f).ctxs = s.ctxs := rfl
@[simp] theorem setThread_rts (ch i : Nat) (f : Thread → Thread) : (s.setThread ch i f).rts = s.rts := rfl
@[simp] theorem setThread_cmqs (ch i : Nat) (f : Thread → Thread) : (s.setThread ch i f).cmqs = s.cmqs := rfl
@[simp] theorem setThread_badDoorbell (ch i : Nat) (f : Thread → Thread) : (s.setThread ch i f).badDoorbell = s.badDoorbell := rfl
@[simp] theorem setThread_cmds (ch i : Nat) (f : Thread → Thread) : (s.setThread ch i f).cmds = s.cmds := rfl
@[simp] theorem setThread_accepted (ch i : Nat) (f : Thread → Thread) : (s.setThread ch i f).accepted = s.accepted := rfl
@[simp] theorem setThread_evqs (ch i : Nat) (f : Thread → Thread) : (s.setThread ch i f).evqs = s.evqs := rfl
@[simp] theorem setThread_headOverrun (ch i : Nat) (f : Thread → Thread) : (s.setThread ch i f).headOverrun = s.headOverrun := rfl
@[simp] theorem setThread_log (ch i : Nat) (f : Thread → Thread) : (s.setThread ch i f).log = s.log := rfl
@[simp] theorem setThread_fp (ch i : Nat) (f : Thread → Thread) : (s.setThread ch i f).fp = s.fp := rfl
@[simp] theorem setThread_fpOut (ch i : Nat) (f : Thread → Thread) : (s.setThread ch i f).fpOut = s.fpOut := rfl
@[simp] theorem setThread_fpRun (ch i : Nat) (f : Thread → Thread) : (s.setThread ch i f).fpRun = s.fpRun := rfl
@[simp] theorem setThread_memq (ch i : Nat) (f : Thread → Thread) : (s.setThread ch i f).memq = s.memq := rfl
@[simp] theorem setThread_dat (ch i : Nat) (f : Thread → Thread) : (s.setThread ch i f).dat = s.dat := rfl
@[simp] theorem setThread_trv (ch i : Nat) (f : Thread → Thread) : (s.setThread ch i f).trv = s.trv := rfl
@[simp] theorem setThread_mos (ch i : Nat) (f : Thread → Thread) : (s.setThread ch i f).mos = s.mos := rfl
@[simp] theorem setThread_upd (ch i : Nat) (f : Thread → Thread) : (s.setThread ch i f).upd = s.upd := rfl
@[simp] theorem setThread_arrs (ch i : Nat) (f : Thread → Thread) : (s.setThread ch i f).arrs = s.arrs := rfl
@[simp] theorem setThread_tiles (ch i : Nat) (f : Thread → Thread) : (s.setThread ch i f).tiles = s.tiles := rfl
@[simp] theorem setThread_stl (ch i : Nat) (f : Thread → Thread) : (s.setThread ch i f).stl = s.stl := rfl
@[simp] theorem setThread_alm (ch i : Nat) (f : Thread → Thread) : (s.setThread ch i f).alm = s.alm := rfl
@[simp] theorem setThread_pwrDroops (ch i : Nat) (f : Thread → Thread) : (s.setThread ch i f).pwrDroops = s.pwrDroops := rfl
@[simp] theorem setThread_tst (ch i : Nat) (f : Thread → Thread) : (s.setThread ch i f).tst = s.tst := rfl

/-! ## setRx -/

@[simp] theorem setRx_build (p : Nat) (r : List TrvRx) : (s.setRx p r).build = s.build := rfl
@[simp] theorem setRx_mem (p : Nat) (r : List TrvRx) : (s.setRx p r).mem = s.mem := rfl
@[simp] theorem setRx_undef (p : Nat) (r : List TrvRx) : (s.setRx p r).undef = s.undef := rfl
@[simp] theorem setRx_free (p : Nat) (r : List TrvRx) : (s.setRx p r).free = s.free := rfl
@[simp] theorem setRx_pending (p : Nat) (r : List TrvRx) : (s.setRx p r).pending = s.pending := rfl
@[simp] theorem setRx_pins (p : Nat) (r : List TrvRx) : (s.setRx p r).pins = s.pins := rfl
@[simp] theorem setRx_flt (p : Nat) (r : List TrvRx) : (s.setRx p r).flt = s.flt := rfl
@[simp] theorem setRx_mode (p : Nat) (r : List TrvRx) : (s.setRx p r).mode = s.mode := rfl
@[simp] theorem setRx_lgd (p : Nat) (r : List TrvRx) : (s.setRx p r).lgd = s.lgd := rfl
@[simp] theorem setRx_win (p : Nat) (r : List TrvRx) : (s.setRx p r).win = s.win := rfl
@[simp] theorem setRx_ctxs (p : Nat) (r : List TrvRx) : (s.setRx p r).ctxs = s.ctxs := rfl
@[simp] theorem setRx_rts (p : Nat) (r : List TrvRx) : (s.setRx p r).rts = s.rts := rfl
@[simp] theorem setRx_cmqs (p : Nat) (r : List TrvRx) : (s.setRx p r).cmqs = s.cmqs := rfl
@[simp] theorem setRx_badDoorbell (p : Nat) (r : List TrvRx) : (s.setRx p r).badDoorbell = s.badDoorbell := rfl
@[simp] theorem setRx_cmds (p : Nat) (r : List TrvRx) : (s.setRx p r).cmds = s.cmds := rfl
@[simp] theorem setRx_accepted (p : Nat) (r : List TrvRx) : (s.setRx p r).accepted = s.accepted := rfl
@[simp] theorem setRx_evqs (p : Nat) (r : List TrvRx) : (s.setRx p r).evqs = s.evqs := rfl
@[simp] theorem setRx_headOverrun (p : Nat) (r : List TrvRx) : (s.setRx p r).headOverrun = s.headOverrun := rfl
@[simp] theorem setRx_log (p : Nat) (r : List TrvRx) : (s.setRx p r).log = s.log := rfl
@[simp] theorem setRx_fp (p : Nat) (r : List TrvRx) : (s.setRx p r).fp = s.fp := rfl
@[simp] theorem setRx_fpOut (p : Nat) (r : List TrvRx) : (s.setRx p r).fpOut = s.fpOut := rfl
@[simp] theorem setRx_fpRun (p : Nat) (r : List TrvRx) : (s.setRx p r).fpRun = s.fpRun := rfl
@[simp] theorem setRx_memq (p : Nat) (r : List TrvRx) : (s.setRx p r).memq = s.memq := rfl
@[simp] theorem setRx_dat (p : Nat) (r : List TrvRx) : (s.setRx p r).dat = s.dat := rfl
@[simp] theorem setRx_mos (p : Nat) (r : List TrvRx) : (s.setRx p r).mos = s.mos := rfl
@[simp] theorem setRx_upd (p : Nat) (r : List TrvRx) : (s.setRx p r).upd = s.upd := rfl
@[simp] theorem setRx_arrs (p : Nat) (r : List TrvRx) : (s.setRx p r).arrs = s.arrs := rfl
@[simp] theorem setRx_tiles (p : Nat) (r : List TrvRx) : (s.setRx p r).tiles = s.tiles := rfl
@[simp] theorem setRx_feed (p : Nat) (r : List TrvRx) : (s.setRx p r).feed = s.feed := rfl
@[simp] theorem setRx_stl (p : Nat) (r : List TrvRx) : (s.setRx p r).stl = s.stl := rfl
@[simp] theorem setRx_alm (p : Nat) (r : List TrvRx) : (s.setRx p r).alm = s.alm := rfl
@[simp] theorem setRx_pwrDroops (p : Nat) (r : List TrvRx) : (s.setRx p r).pwrDroops = s.pwrDroops := rfl
@[simp] theorem setRx_tst (p : Nat) (r : List TrvRx) : (s.setRx p r).tst = s.tst := rfl

/-! ## What is read back -/

/-- A context's entry after a change of one. -/
theorem ctx_updCtx (h : Tab.wf CtxEntry.init s.ctxs = true) (c k : Nat) (f : CtxEntry → CtxEntry) :
    (s.updCtx c f).ctx k = if k = c then f (s.ctx c) else s.ctx k := Tab.get_upd _ h c k f

/-- A context's run-time state after a change of one. -/
theorem rt_updRt (h : Tab.wf CtxRt.init s.rts = true) (c k : Nat) (f : CtxRt → CtxRt) :
    (s.updRt c f).rt k = if k = c then f (s.rt c) else s.rt k := Tab.get_upd _ h c k f

/-- A command queue after a change of one. -/
theorem cmq_updCmq (h : Tab.wf CmQueue.init s.cmqs = true) (q k : Nat) (f : CmQueue → CmQueue) :
    (s.updCmq q f).cmq k = if k = q then f (s.cmq q) else s.cmq k := Tab.get_upd _ h q k f

/-- An event queue after a change of one. -/
theorem evq_updEvq (h : Tab.wf EvQueue.init s.evqs = true) (q k : Nat) (f : EvQueue → EvQueue) :
    (s.updEvq q f).evq k = if k = q then f (s.evq q) else s.evq k := Tab.get_upd _ h q k f

/-- A command's name is kept by a change, so the command is found again, changed. -/
theorem cmd_updCmd (c k : CmdId) (f : Cmd → Cmd) (hf : ∀ x, (f x).id = x.id) :
    (s.updCmd c f).cmd k = if k = c then (s.cmd c).map f else s.cmd k := by
  have hg : ((fun x : Cmd => x.id == k) ∘ fun x => if x.id = c then f x else x) = fun x => x.id == k := by
    funext x
    by_cases hx : x.id = c <;> simp [hx, hf]
  have h1 : (s.updCmd c f).cmd k = (s.cmd k).map fun x => if x.id = c then f x else x := by
    unfold State.cmd State.updCmd
    rw [List.find?_map, hg]
  rw [h1]
  by_cases hk : k = c
  · subst hk
    cases h : s.cmd k with
    | none => simp
    | some y =>
      have : y.id = k := by simpa using List.find?_some h
      simp [this]
  · cases h : s.cmd k with
    | none => simp [hk]
    | some y =>
      have : y.id = k := by simpa using List.find?_some h
      simp [this, hk]

/-- The frames received on a port after a change. -/
theorem trvRx_setRx (p k : Nat) (r : List TrvRx) : (s.setRx p r).trvRx k = if (k = 0 ↔ p = 0) then r else s.trvRx k := by
  unfold State.setRx State.trvRx
  by_cases hp : p = 0 <;> by_cases hk : k = 0 <;> simp [hp, hk]

end Sys2Proof.Machine
end

