-- ==== Sys2Proof/Laws/Frames.lean ====
section
/-! SUPPORT. What each shared operation can change, as one equation: the state after it is the state before it but for the fields
named. -/

namespace Sys2Proof.Machine

open Sys2Proof

variable (s : State)

/-- Sending on FP0 changes what is sent and in what turn, and no list of transfers. -/
theorem fpPump_frame : s.fpPump = { s with fpOut := s.fpPump.fpOut, fpRun := s.fpPump.fpRun } := by
  unfold State.fpPump
  split <;> rfl

/-- Handing transfers to FP0 puts them behind those that are there and changes the Footpath only. -/
theorem fpAdd_frame (rs : List FpReq) :
    s.fpAdd rs = { s with fp := s.fp ++ rs, fpOut := (s.fpAdd rs).fpOut, fpRun := (s.fpAdd rs).fpRun } := fpPump_frame _

/-- Writing a record changes the event queues, the log and the Footpath only. -/
theorem writeRec_frame (q : Nat) (b : RecBody) (now : Bool) :
    let t := s.writeRec q b now
    t = { s with evqs := t.evqs, log := t.log, fp := t.fp, fpOut := t.fpOut, fpRun := t.fpRun } := by
  dsimp only
  unfold State.writeRec
  dsimp only
  rw [fpAdd_frame]

/-- A later state of the event path: it differs in the event queues, the log and the Footpath only. -/
def EventPath (s t : State) : Prop := t = { s with evqs := t.evqs, log := t.log, fp := t.fp, fpOut := t.fpOut, fpRun := t.fpRun }

/-- Nothing done on the event path. -/
theorem EventPath.refl : EventPath s s := rfl

/-- One change of the event path after another. -/
theorem EventPath.trans {s t u : State} (h : EventPath s t) (h' : EventPath t u) : EventPath s u := by
  unfold EventPath at h h' ⊢
  rw [h', h]

/-- A change of the event queues is on the event path. -/
theorem setEvqs_path (e : Tab EvQueue) : EventPath s { s with evqs := e } := rfl

/-- Writing a record is on the event path. -/
theorem writeRec_path (q : Nat) (b : RecBody) (now : Bool) : EventPath s (s.writeRec q b now) := writeRec_frame s q b now

/-- Flushing the lost count is on the event path. -/
theorem flushLost_path (q : Nat) : EventPath s (s.flushLost q) := by
  unfold State.flushLost
  dsimp only
  split
  · exact (setEvqs_path _ _).trans (writeRec_path _ _ _ _)
  · rfl

/-- Forming a record is on the event path, whatever it leads to. -/
theorem emitF_path (n : Nat) (q : Nat) (b : RecBody) : EventPath s (State.emitF n s q b) := by
  induction n generalizing s q b with
  | zero => rfl
  | succ n ih =>
    unfold State.emitF
    have hf := flushLost_path s q
    generalize s.flushLost q = t at hf ⊢
    dsimp only
    split
    · exact hf.trans (writeRec_path _ _ _ _)
    · refine EventPath.trans ?_ (flushLost_path _ q)
      split
      · exact (hf.trans (setEvqs_path _ _)).trans (ih _ _ _)
      · exact hf.trans (setEvqs_path _ _)

/-- A record formed, or dropped and counted, changes the event queues, the log and the Footpath only. -/
theorem emit_path (q : Nat) (b : RecBody) : EventPath s (s.emit q b) := by
  unfold State.emit
  split
  · exact emitF_path s 3 q b
  · rfl

/-- A record of the engine queue likewise. -/
theorem emitEngine_path (type payload : Nat) : EventPath s (s.emitEngine type payload) := emit_path s _ _

/-- A SAFETY record likewise. -/
theorem safety_path (code : Nat) (ch tile : Option Nat) (action detail : Nat) : EventPath s (s.safety code ch tile action detail) :=
  emitEngine_path s _ _

/-- With room and nothing lost before, a record is written at once. -/
theorem emit_takes (q : Nat) (b : RecBody) (h : s.takes q) : s.emit q b = s.writeRec q b false := by
  obtain ⟨h1, h2, h3, h4⟩ := h
  have hl : s.flushLost q = s := by simp [State.flushLost, h4]
  simp [State.emit, h1, State.emitF, hl, h2, h3]

/-- Where the event path is closed nothing is formed. -/
theorem emit_closed (q : Nat) (b : RecBody) (h : s.alive = false) : s.emit q b = s := by simp [State.emit, h]

/-- A life counter below its last value counts, and nothing else changes. -/
theorem addLife_counts (k n : Nat) (h : s.alm.life.getD k 0 + n < 18446744073709551615) :
    s.addLife k n = { s with alm := { s.alm with life := setAt s.alm.life k (s.alm.life.getD k 0 + n) } } := by
  unfold State.addLife
  dsimp only
  rw [if_pos h]

/-- A life counter changes the Almanac and the event path only. -/
theorem addLife_frame (k n : Nat) :
    let t := s.addLife k n
    t = { s with alm := t.alm, evqs := t.evqs, log := t.log, fp := t.fp, fpOut := t.fpOut, fpRun := t.fpRun } := by
  dsimp only
  unfold State.addLife
  dsimp only
  split
  · rfl
  · split
    · rfl
    · rw [emitEngine_path]

/-- Leaving service changes the service state, the Almanac and the event path only, and does nothing where the engine is out of
service already. -/
theorem leaveService_frame (code : Nat) (ch tile : Option Nat) (detail : Nat) :
    let t := s.leaveService code ch tile detail
    t = { s with flt := t.flt, alm := t.alm, evqs := t.evqs, log := t.log, fp := t.fp, fpOut := t.fpOut, fpRun := t.fpRun } := by
  dsimp only
  unfold State.leaveService
  split
  · rfl
  · dsimp only
    rw [addLife_frame, safety_path]

/-- A bulk write changes memory, the undefined bytes and the feeding only. -/
theorem bulkWrite_frame (ws : List (Nat × Byte)) :
    s.bulkWrite ws = { s with mem := (s.bulkWrite ws).mem, undef := (s.bulkWrite ws).undef, feed := (s.bulkWrite ws).feed } := by
  have hp : ∀ (l : List (Nat × Byte)) (u : State),
      l.foldl (fun s w => s.pokeMem w.1 w.2) u = { u with mem := (l.foldl (fun s w => s.pokeMem w.1 w.2) u).mem, undef := (l.foldl (fun s w => s.pokeMem w.1 w.2) u).undef } := by
    intro l
    induction l with
    | nil => intro u; rfl
    | cons w l ih => intro u; rw [List.foldl_cons, ih]; rfl
  have hi : ∀ (u : State) (l : Nat) (d : List Byte) (h : Option Nat) (b : Bool), u.install l d h b = { u with feed := (u.install l d h b).feed } := by
    intro u l d h b
    have ht : ∀ (v : State) (l : Nat), v.touchLine l = { v with feed := (v.touchLine l).feed } := by
      intro v l
      unfold State.touchLine
      split <;> rfl
    unfold State.install
    dsimp only
    (repeat' split) <;> first | rfl | (rw [ht])
  have hl : ∀ (l : List Nat) (u : State) (g : State → Nat → State), (∀ u k, g u k = { u with feed := (g u k).feed }) →
      l.foldl g u = { u with feed := (l.foldl g u).feed } := by
    intro l
    induction l with
    | nil => intro u g _; rfl
    | cons w l ih => intro u g hg; rw [List.foldl_cons, ih _ _ hg, hg u w]
  unfold State.bulkWrite
  dsimp only
  rw [hl _ _ _ (fun u k => by split; exact hi _ _ _ _ _; rfl), hp]

/-- What a CLEAR leaves of an error counter: the increments of its cycle, and THR where they reach THRESHOLD. -/
theorem ErrCtr.clear_eq (c : ErrCtr) (now : Nat) (h : c.threshold = 0 ∨ recentOf c.recent now < c.threshold) :
    c.clear now = ⟨recentOf c.recent now, false, false, c.threshold, false, none, c.recent⟩ := by
  have : (decide (c.threshold ≠ 0) && decide (c.threshold ≤ recentOf c.recent now)) = false := by
    rcases h with h | h <;> simp [h]
  simp only [ErrCtr.clear, this]
  rfl

/-- A bound has passed exactly when the control time has come to it. -/
theorem State.elapsed_iff (a n : Nat) : s.elapsed a n = true ↔ a + n ≤ s.pins.now := by simp [State.elapsed]

/-- A stall counter that counts changes the counters and, in the cycle of a snapshot, that snapshot alike. -/
theorem countPerf_stall (st k : Nat) (c : PerfCtr) (h : s.stl.snapAt = some s.pins.now) (h' : s.stl.snap = s.stl.live) :
    let t := s.countPerf (.stall st k) c
    t = { s with stl := { s.stl with live := t.stl.live, snap := t.stl.snap } } ∧ t.stl.snap = t.stl.live := by
  simp [State.countPerf, State.setPerf, h, h']

end Sys2Proof.Machine
end

