-- ==== Sys2Proof/Laws/Memory.lean ====
section
/-! SUPPORT. Host memory as it is read back: a byte written is read, every other byte reads as before, and a write keeps the
canonical form (that every operation keeps it is in the Keeps files). -/

namespace Sys2Proof.Machine

open Sys2Proof

variable {s : State}

/-- A byte written is read, and every other byte reads as before. -/
theorem memByte_pokeMem (hm : Memory.wf s.mem = true) (hu : Tab.wf none s.undef = true) (a k : Nat) (b : Byte) :
    (s.pokeMem a b).memByte k = if k = a then b else s.memByte k := by
  unfold State.memByte State.pokeMem
  simp only [Tab.get_set _ hu, Tab.get_set _ hm]
  by_cases h : k = a <;> simp [h]

/-- Writing one byte keeps both tables in canonical form. -/
theorem wf_pokeMem (hm : Memory.wf s.mem = true) (hu : Tab.wf none s.undef = true) (a : Nat) (b : Byte) :
    Memory.wf (s.pokeMem a b).mem = true ∧ Tab.wf none (s.pokeMem a b).undef = true :=
  ⟨Tab.wf_set _ hm a b, Tab.wf_set _ hu a none⟩

/-- Writing a list of bytes keeps both tables in canonical form. -/
theorem wf_pokeAll (ws : List (Nat × Byte)) (hm : Memory.wf s.mem = true) (hu : Tab.wf none s.undef = true) :
    Memory.wf (ws.foldl (fun s w => s.pokeMem w.1 w.2) s).mem = true ∧
      Tab.wf none (ws.foldl (fun s w => s.pokeMem w.1 w.2) s).undef = true := by
  induction ws generalizing s with
  | nil => exact ⟨hm, hu⟩
  | cons w ws ih => exact ih (wf_pokeMem hm hu _ _).1 (wf_pokeMem hm hu _ _).2

/-- A byte that no write of a list names reads as before. -/
theorem memByte_pokeAll_outside (ws : List (Nat × Byte)) (hm : Memory.wf s.mem = true) (hu : Tab.wf none s.undef = true) (k : Nat)
    (hk : ∀ w ∈ ws, w.1 ≠ k) : (ws.foldl (fun s w => s.pokeMem w.1 w.2) s).memByte k = s.memByte k := by
  induction ws generalizing s with
  | nil => rfl
  | cons w ws ih =>
    rw [List.foldl_cons, ih (wf_pokeMem hm hu _ _).1 (wf_pokeMem hm hu _ _).2 fun x hx => hk x (List.mem_cons_of_mem _ hx),
      memByte_pokeMem hm hu, if_neg fun h => hk w (List.mem_cons_self ..) h.symm]

/-- What a read of a byte depends on. -/
theorem memByte_congr {t : State} (hm : t.mem = s.mem) (hu : t.undef = s.undef) (k : Nat) : t.memByte k = s.memByte k := by
  unfold State.memByte
  rw [hm, hu]

/-- A bulk write leaves in memory what its bytes, written one by one, leave. -/
theorem bulkWrite_mem (ws : List (Nat × Byte)) :
    (s.bulkWrite ws).mem = (ws.foldl (fun s w => s.pokeMem w.1 w.2) s).mem ∧
      (s.bulkWrite ws).undef = (ws.foldl (fun s w => s.pokeMem w.1 w.2) s).undef := by
  have ht : ∀ (v : State) (l : Nat), (v.touchLine l).mem = v.mem ∧ (v.touchLine l).undef = v.undef := by
    intro v l
    unfold State.touchLine
    split <;> exact ⟨rfl, rfl⟩
  have hi : ∀ (u : State) (l : Nat) (d : List Byte) (h : Option Nat) (b : Bool),
      (u.install l d h b).mem = u.mem ∧ (u.install l d h b).undef = u.undef := by
    intro u l d h b
    unfold State.install
    dsimp only
    (repeat' split) <;> first | exact ⟨rfl, rfl⟩ | exact ht _ _
  have hl : ∀ (l : List Nat) (u : State) (g : State → Nat → State), (∀ u k, (g u k).mem = u.mem ∧ (g u k).undef = u.undef) →
      (l.foldl g u).mem = u.mem ∧ (l.foldl g u).undef = u.undef := by
    intro l
    induction l with
    | nil => intro u g _; exact ⟨rfl, rfl⟩
    | cons w l ih => intro u g hg; exact ⟨(ih _ _ hg).1.trans (hg u w).1, (ih _ _ hg).2.trans (hg u w).2⟩
  unfold State.bulkWrite
  dsimp only
  exact hl _ _ _ fun u k => by split; exact hi _ _ _ _ _; exact ⟨rfl, rfl⟩

/-- A bulk write changes only the bytes it names. -/
theorem memByte_bulkWrite_outside (ws : List (Nat × Byte)) (hm : Memory.wf s.mem = true) (hu : Tab.wf none s.undef = true) (k : Nat)
    (hk : ∀ w ∈ ws, w.1 ≠ k) : (s.bulkWrite ws).memByte k = s.memByte k :=
  (memByte_congr (bulkWrite_mem ws).1 (bulkWrite_mem ws).2 k).trans (memByte_pokeAll_outside ws hm hu k hk)

end Sys2Proof.Machine
end

