-- ==== Sys2Proof/Tests/Slice0.lean ====
section
/-! SUPPORT. The author's tests: every check of WellFormed refuses an ill-formed command, the commands do what worked examples and
tables of the manual say, and every statement with hypotheses has a concrete state that meets them. -/

namespace Sys2Proof.Machine.Tests

-- Each proof below is evaluated by the kernel, which waits for all proofs before it; run one at a time, they hold one thread.
set_option Elab.async false

open Sys2Proof Sys2Proof.Machine

/-! ## WellFormed refuses -/

theorem test_wf_queueOk : (Instr.doorbell 4096 0).wf = false ∧ (Instr.doorbell 4095 0).wf = true := by decide
theorem test_wf_cmdOk : (Instr.mm ⟨0, 4294967296⟩).wf = false ∧ (Instr.mm ⟨4095, 4294967295⟩).wf = true := by decide
theorem test_wf_evqOk : (Instr.notifyGap 64).wf = false ∧ (Instr.notifyGap 63).wf = true := by decide
theorem test_wf_chanOk : (Instr.lineRequest 4).wf = false ∧ (Instr.lineRequest 3).wf = true := by decide
theorem test_wf_tileOk : (Instr.drainDone 256).wf = false ∧ (Instr.drainDone 255).wf = true := by decide
theorem test_wf_threadOk : (Instr.runAhead 0 32).wf = false ∧ (Instr.runAhead 0 31).wf = true := by decide
theorem test_wf_laneOk : (Instr.close 4 (List.replicate 64 0)).wf = false ∧ (Instr.close 3 (List.replicate 64 0)).wf = true := by decide
theorem test_wf_trvPortOk : (Instr.traverseCommit 2).wf = false ∧ (Instr.traverseCommit 1).wf = true := by decide
theorem test_wf_memPortOk : (Instr.memReadResponse 16 0 .okay).wf = false ∧ (Instr.memReadResponse 15 0 .okay).wf = true := by decide
theorem test_wf_lineOk : (Instr.memReadResponse 0 (2 ^ 44) .okay).wf = false := by decide
theorem test_wf_ctxOk : (Instr.rankReady 65536).wf = false ∧ (Instr.rankReady 65535).wf = true := by decide
theorem test_wf_entryOk : (Instr.lookahead 256).wf = false ∧ (Instr.lookahead 255).wf = true := by decide
theorem test_wf_batchOk : (Instr.batchTest 16).wf = false ∧ (Instr.batchTest 15).wf = true := by decide
theorem test_wf_offsetOk : (Instr.registerWrite 16777216 0 0).wf = false ∧ (Instr.registerWrite 16777215 0 0).wf = true := by decide
theorem test_wf_beatsOk : (Instr.reduce 0 []).wf = false ∧ (Instr.reduce 0 (List.replicate 63 0)).wf = false := by decide
theorem test_wf_stallsOk : (Instr.tileBeat 0 (2 ^ 48) none).wf = false ∧ (Instr.tileBeat 0 (2 ^ 48 - 1) none).wf = true := by decide
theorem test_wf_upsetOk : (Instr.tileBeat 0 0 (some ⟨16384, false, 1⟩)).wf = false ∧ (Instr.tileBeat 0 0 (some ⟨16383, true, -1⟩)).wf = true := by decide
theorem test_wf_flipsOk : (Instr.flitTransfer 0 .row [0, 1025]).wf = false ∧ (Instr.flitTransfer 0 .row [0, 1024]).wf = true := by decide
theorem test_wf_below : (Instr.invFilterFree 16).wf = false ∧ (Instr.supply 4 0).wf = false ∧ (Instr.supply 3 65535).wf = true := by decide
theorem test_wf_useOk : (Instr.footpathResponse (.slot 4096) .okay).wf = false ∧ (Instr.footpathResponse (.record 64 0) .okay).wf = false ∧
    (Instr.footpathResponse (.table ⟨0, 0⟩ (2 ^ 52)) .okay).wf = false ∧ (Instr.footpathResponse (.look 65536 0) .okay).wf = false ∧
    (Instr.footpathResponse .legend .okay).wf = true := by decide
theorem test_wf_testFailOk : (Instr.batchDone 0 (some ⟨0, 8⟩)).wf = false ∧ (Instr.fullTestDone (some ⟨512, 0⟩)).wf = false := by decide
theorem test_wf_bistOk : (Instr.bistDone ⟨0, false, false, 16, false, 0⟩).wf = false ∧
    (Instr.bistDone ⟨511, true, true, 15, true, 40200⟩).wf = true := by decide
theorem test_wf_storeOk : (Instr.scrub (.corrected 9)).wf = false ∧ (Instr.scrub (.corrected 8)).wf = true := by decide
theorem test_wf_hitOk : (Instr.scrub (.staging 2 0)).wf = false ∧ (Instr.scrub (.channelControl 4 0 0)).wf = false ∧
    (Instr.scrub (.consumed 9 0 0 ⟨0, 0⟩)).wf = false := by decide
theorem test_wf_unitOk : (Instr.sequencerMismatch (.channel 4)).wf = false ∧ (Instr.sequencerMismatch .safety).wf = true := by decide
theorem test_wf_hangOk : (Instr.resetHang (.context 0 0 9)).wf = false ∧ (Instr.resetHang (.compute 16)).wf = false ∧
    (Instr.resetHang (.isolation 15)).wf = true := by decide

/-- A list longer than the largest range of an invalidation is refused. -/
theorem test_wf_writtenOk (l : List Byte) (h : 2097152 < l.length) : (Instr.invalidation 0 0 ⟨l, true⟩).wf = false := by
  simp [Instr.wf, writtenOk, h]

/-! ## Small states -/

/-- A Legend that serves everything built, with one address range and a ring of one. -/
def leg : Legend :=
  { serial := 1, gang := 0, channels := 15, queues := [], ranges := [⟨0, 2 ^ 40, 1, 0xFFFF, 0, 0xFFFFFFFF⟩], scratchWays := 0, pair := 0
    steal := 0, map := 0, laBudget := 16, ctxLog2 := 12, engineEvq := 0, flagNs := 1000, datumKhz := 250000, nominalUs := 48000
    fixedMhz := 3300, switches := 0, spill := false, wear := true, selftestFixed := false, ctxLimit := 3, engLimit := 6, ctxWindow := 60
    engWindow := 600, rotation := 100, forceAt := 200, errThreshold := 1024, jbase := 65536, ckptI := 10, ckptW := 10
    wearLife := 1000000, ranks := 1, rank := 0, lanes := 15, mseed := 0, graceUs := 100, decideUs := 100, gsRounds := 16, gsRank := 1 }

/-- The engine in service under a Legend, with event queue 0 enabled, context 1 active and its command queue 2 active. -/
def onWith (l : Legend) : State :=
  { State.reset with
    lgd := { State.reset.lgd with inForce := some l, standalone := false }
    tst := { State.reset.tst with busy := false }
    dat := { State.reset.dat with period := 12000000 }
    ctxs := [(1, { CtxEntry.init with state := .active, regionTable := 4096, trvBase1 := 64, trvSize1 := 16, trvBase2 := 128, trvSize2 := 16 })]
    cmqs := [(2, { CmQueue.init with state := .active, ctx := 1, log2 := 4, base := 8192 })]
    evqs := [(0, { EvQueue.init with enable := true, log2 := 7, base := 4096 })] }

/-- The engine in service. -/
def on : State := onWith leg

/-- A begun command of an opcode in queue 2 of context 1. -/
def cmdOf (op : Nat) : Cmd := { (default : Cmd) with id := ⟨2, 0⟩, ctx := 1, raw := op, phase := .begun, cause := none, run := RunInfo.none }

/-- The engine with one command. -/
def withCmd (c : Cmd) : State := { on with cmds := [c] }

/-- The engine with context 1 changed. -/
def withCtx (f : CtxEntry → CtxEntry) : State := on.updCtx 1 f

theorem on_alive : on.alive = true ∧ on.cfgOpen = true ∧ on.tablesOk = true := by decide +kernel
theorem on_sizes : on.sizesOk := by unfold State.sizesOk; decide +kernel
theorem on_takes : on.takes on.engineEvq := by unfold State.takes; decide +kernel
theorem zeros (n k : Nat) : (List.replicate n 0).getD k 0 = 0 := by
  simp only [List.getD, List.getElem?_replicate]
  split <;> rfl
theorem on_counts (k : Nat) : on.alm.life.getD k 0 = 0 ∧ on.alm.wear.getD k 0 = 0 ∧ on.alm.step.getD k 0 = 0 :=
  ⟨zeros 64 k, zeros 256 k, zeros 256 k⟩
theorem on_countsOk : on.countsOk := fun k => by
  rw [(on_counts k).1, (on_counts k).2.1]
  decide

/-- A state at a later control time. -/
def at_ (n : Nat) (s : State) : State := { s with pins := { s.pins with now := n } }

/-! ## Witnesses: for each statement with hypotheses, a state that meets them, clause by clause -/

theorem wit_StepRunsFrontCommand : ({ on with pending := [.safeState, .read] } : State).pending = .safeState :: [.read] := rfl

theorem wit_EmptyQueuePassesOneCycle : (on.pending = [] ∧ on.dat.tracker = .wait ∧ on.dat.stopped = false) ∧
    ([(.track, true), (.wait, true), (.track, false), (.free, true)].all fun x =>
      let s := { on with dat := { on.dat with tracker := x.1, stopped := x.2, acc := 2 ^ 57 } }
      s.pending.isEmpty && ((s.dat.tracker != .free && s.dat.stopped) != (s.dat.tracker == .free || !s.dat.stopped))) = true := by decide +kernel

/-- The Bearing moves on by inc with each cycle of the datum clock, of which one control clock cycle brings none or one at 250 MHz, and
stands in WAIT and while the clock stands (R289, R291). -/
theorem test_bearing_advances :
    ([(.track, false, 749999, 100), (.track, false, 750000, 105), (.track, true, 750000, 100), (.wait, false, 750000, 0), (.free, true, 750000, 105)].all fun x =>
      match step { on with dat := { on.dat with tracker := x.1, stopped := x.2.1, phase := x.2.2.1, acc := if x.1 = .wait then 0 else 100, inc := 5 } } with
      | .next t => t.dat.acc == x.2.2.2 | _ => false) = true := by decide +kernel

/-- A step there is, from a state that meets every invariant. -/
theorem wit_StepKeepsTables : ∃ t, step on = .next t ∧ on.tablesOk = true ∧ on.accOk = true ∧ on.sizesOk ∧ on.countsOk :=
  ⟨on.idle, rfl, on_alive.2.2, by decide +kernel, on_sizes, on_countsOk⟩

theorem wit_StepKeepsAccumulatorBound : ∃ t, step on = .next t ∧ on.accOk = true := ⟨on.idle, rfl, by decide +kernel⟩
theorem wit_StepKeepsSizes : ∃ t, step on = .next t ∧ on.sizesOk := ⟨on.idle, rfl, on_sizes⟩

theorem wit_AlmanacNeverFalls : ∃ t, step { on with pending := [.almanacSecond] } = .next t ∧
    ({ on with pending := [.almanacSecond] } : State).pending.head? ≠ some .almanacPor ∧
    ({ on with pending := [.almanacSecond] } : State).countsOk := ⟨_, rfl, by decide +kernel, on_countsOk⟩

/-- Out of service, with channel 3 isolated, and a step that is not PORESET_N. -/
theorem wit_OutOfServiceUntilPoreset :
    let s := { on with flt := { on.flt with out := true, isolated := 8 } }
    ∃ t, step s = .next t ∧ s.pending.head? ≠ some .poresetAssert ∧ s.flt.out = true ∧ s.flt.isolated.testBit 3 = true :=
  ⟨_, rfl, by decide +kernel, rfl, by decide +kernel⟩

theorem wit_SnapshotsCopyEveryCounterAtOnce : on.cfgOpen = true := by decide +kernel
theorem wit_GpeIdReads : State.reset.cfgOpen = true := by decide +kernel

theorem wit_CalendarAndSecondsAreCounted : (on.alm.taiPend = none ∧ on.alm.snapPend = false ∧ on.alm.calFrac < 32768 ∧ on.alm.calSec < 2 ^ 64) ∧
    on.cfgOpen = true ∧
    (let a := { on.alm with calFrac := 32767, calSec := 2 ^ 64 - 1, calValid := true }
     a.taiPend = none ∧ a.snapPend = false ∧ a.calFrac < 32768 ∧ a.calSec < 2 ^ 64) := by decide +kernel

theorem wit_CalendarAndSecondsAreCounted_seconds : on.sizesOk ∧ ∀ k, k < 3 → on.alm.life.getD k 0 < 2 ^ 64 - 2 :=
  ⟨on_sizes, fun k _ => by rw [(on_counts k).1]; decide⟩

theorem wit_SupplyMovesCountAndReport : on.sizesOk ∧ on.takes on.engineEvq ∧ on.alm.backup = false ∧ on.alm.backupOk = true ∧
    on.alm.life.getD 10 0 < 2 ^ 64 - 2 ∧
    (let s := { on with alm := { on.alm with backup := true } }
     s.sizesOk ∧ s.takes s.engineEvq ∧ s.alm.backup = true ∧ s.alm.life.getD 11 0 < 2 ^ 64 - 2) :=
  ⟨on_sizes, on_takes, rfl, rfl, by decide +kernel, on_sizes, on_takes, rfl, by decide +kernel⟩

theorem wit_WearSampleAddsWeightedCycles : on.sizesOk ∧ on.countsOk ∧
    let l : List (Nat × Int) := [(16384, 85), (32768, 125)]
    ∀ k, k < 256 → on.alm.wear.getD k 0 +
      (if k < l.length ∧ k < on.build.size.tiles ∧ on.chOn (on.build.size.chanOf k) = true then
        (l.getD k (0, 0)).1 / 16384 * wearWeight (l.getD k (0, 0)).2 else 0) < 2 ^ 64 - 1 :=
  ⟨on_sizes, on_countsOk, by decide +kernel⟩

theorem wit_CheckpointWritesOneSlot :
    (let s := at_ (leg.ckptI * 10 ^ 9 - 2 * 10 ^ 7) { on with alm := { on.alm with ckptOn := true } }
     s.lgd.inForce = some leg ∧ s.ckptFree = true ∧ s.alm.ageFrom + (leg.ckptI * 1000 - 20) * 1000000 ≤ s.pins.now) ∧
    (let s := at_ (10 ^ 8) { on with alm := { on.alm with ckptOn := true, failedAt := some (0, true) } }
     s.lgd.inForce = some leg ∧ s.alive = true ∧ s.alm.ckptOn = true ∧ s.alm.failedAt = some (0, true) ∧ 0 + 100 * 1000000 ≤ s.pins.now) := by
  decide +kernel

/-- A CHECKPOINT entry that is due, with the interval elapsed. -/
def ckptDue : State :=
  { on with
    pins := { on.pins with now := 10 ^ 12 }
    alm := { on.alm with ckptOn := true }
    dat := { on.dat with tracker := .track, acc := 2 ^ 44, sched := [(7, (3 * 4096, 0))] } }

theorem wit_CheckpointWritesOneSlot_entry : ckptDue.lgd.inForce = some leg ∧ ckptDue.entryDue 3 7 = true ∧ ckptDue.ckptFree = true ∧
    ckptDue.ckptElapsed = true ∧
    (let s := { ckptDue with alm := { ckptDue.alm with failedAt := some (0, true) } }
     s.alive = true ∧ s.alm.ckptOn = true ∧ s.entryDue 3 7 = true ∧ s.ckptFree = false) := by decide +kernel

/-- The restore window with the header of an accepted image (R371), short, so that its CRC is that of 64 bytes. -/
def imaged : State :=
  { on with alm := { on.alm with
      window := BitVec.ofNat 64 (0x4E56414C + 2 ^ 32 + on.build.size.code * 2 ^ 40 + on.build.size.tiles * 2 ^ 48) :: List.replicate 6 0 ++
        [BitVec.ofNat 64 (515474629 * 2 ^ 32)] } }

theorem wit_RestoreDecidesOnce : on.cfgOpen = true ∧ on.alm.restore = .open ∧ on.alm.retained = false ∧
    (on.imageError on.alm.image ≠ 0 ∧ on.takes on.engineEvq) ∧
    (imaged.cfgOpen = true ∧ imaged.alm.restore = .open ∧ imaged.alm.retained = false ∧ imaged.imageError imaged.alm.image = 0) ∧
    (let s := { imaged with alm := { imaged.alm with retained := true } }
     s.alm.restore = .open ∧ s.alm.retained = true ∧ s.imageError s.alm.image = 0) ∧
    (let s := { imaged with alm := { imaged.alm with retained := true, restore := .restored } }
     let u := { s with lgd := { s.lgd with standalone := true } }
     s.cfgOpen = true ∧ s.alm.restore ≠ .open ∧ ¬(s.lgd.standalone = true ∧ s.alm.retained = true) ∧
       u.alm.restore ≠ .open ∧ u.lgd.standalone = true ∧ u.alm.retained = true ∧ u.imageError u.alm.image = 0) :=
  ⟨by decide +kernel, rfl, rfl, ⟨by decide +kernel, on_takes⟩, by decide +kernel, by decide +kernel, by decide +kernel⟩

theorem wit_CountersClear : on.cfgOpen = true ∧ errAt 0x1018 = some .lockedWrite ∧ errAt 0x120000 = some .badDoorbell ∧
    errAt (0x10030 + 64 * 63) = some (.evqLost 63) ∧ errAt (0x5040 + 8 * 9) = some (.mosDrop 9) ∧
    (let s := { on with flt := { on.flt with lockedWrite := { on.flt.lockedWrite with value := 5, recent := (0, 2) } } }
     s.cfgOpen = true ∧ (s.err .lockedWrite).recent = (s.pins.now, 2) ∧ (2 < bits (0x30000000000#64 : W64).toNat 40 24) ∧
       bits (0x20000000000#64 : W64).toNat 40 24 = 2) ∧
    (let s := { on with flt := { on.flt with out := true, lockedWrite := { on.flt.lockedWrite with recent := (0, 2) } } }
     s.cfgOpen = true ∧ s.alive = false ∧ (s.err .lockedWrite).recent = (s.pins.now, 2)) := by decide +kernel

theorem wit_LegendLoads : on.cfgOpen = true ∧ on.lgd.busy = false ∧ on.flt.out = false ∧ on.pins.testMode = false ∧
    on.lgd.fetchAddr % 4096 = 0 ∧ on.lgd.fetchAddr < 2 ^ 52 ∧
    (let s := { on with lgd := { on.lgd with fetchAddr := 2 ^ 52 } }
     s.cfgOpen = true ∧ s.flt.out = false ∧ s.lgd.busy = false ∧ s.pins.testMode = false ∧ s.lgd.fetchAddr % 4096 = 0 ∧ 2 ^ 52 ≤ s.lgd.fetchAddr) ∧
    (let s := { on with lgd := { on.lgd with load := .loading, viaCfg := true } }
     s.cfgOpen = true ∧ s.lgd.load = .loading ∧ s.lgd.viaCfg = true) ∧
    (let s := { on with lgd := { on.lgd with load := .verified } }
     s.cfgOpen = true ∧ s.lgd.load = .verified) := by decide +kernel

theorem wit_VerificationStagesOrFails :
    (let s := { on with lgd := { on.lgd with load := .verifying, bistDone := true } }
     s.lgd.bistDone = true ∧ on.lgd.bistDone = false ∧ s.pins.poreset = false ∧ s.pins.sysreset = false ∧ s.flt.out = false ∧ s.lgd.load = .verifying ∧ s.lgd.fetchBad = false ∧
       (framing s.lgd.bytes).isNone = true) ∧
    (let s := { on with lgd := { on.lgd with load := .verifying, viaCfg := false, fetchBad := true, bistDone := true } }
     s.flt.out = false ∧ s.lgd.load = .verifying ∧ s.lgd.fetchBad = true) := by decide +kernel

/-- A section of a Legend: its body of n 16-byte words. -/
def sect (id n body : Nat) : List Byte := leBytes 2 id ++ leBytes 2 0 ++ leBytes 12 (16 * n) ++ leBytes (16 * n) body

/-- A number of 48 bytes, most significant byte first, as R375 places keys and signatures. -/
def be48 (n : Nat) : List Byte := (leBytes 48 n).reverse

/-- A framed Legend of 576 bytes, by its version byte, its configuration, its channels and the fixed frequency. Its key is that of the
private number 0x1234567890ABCDEF1234567890ABCDEF55AA, and its signature was computed outside the model, by SEC 1's formulas, over version
0x12, configuration 5, 15 channels and 2,600 MHz. -/
def legend (ver cfg chans mhz : Nat) : List Byte :=
  leBytes 4 0x4E564C47 ++ [1, BitVec.ofNat 8 ver, BitVec.ofNat 8 cfg, 0] ++ leBytes 4 576 ++ leBytes 4 6 ++ leBytes 8 1 ++ leBytes 40 0 ++
    sect 1 1 (chans * 16) ++ sect 3 3 (1 + 2 ^ 128 * (2 ^ 52 + 2 ^ 64 * 2 ^ 40 + 2 ^ 128 * 0xFFFF + 2 ^ 160 * 0xFFFFFFFF)) ++
    sect 4 1 (16 * 2 ^ 96) ++ sect 6 1 (250000 + 48000 * 2 ^ 32 + mhz * 2 ^ 64) ++ sect 7 1 (2 ^ 9) ++
    sect 9 3 (65536 + 10 * 2 ^ 64 + 10 * 2 ^ 96 + 1000000 * 2 ^ 128) ++
    be48 0x47fb8fc741bbd41574c845789b449019c1e5d428be102b5e1682b247dd3bdd5b88cf31c1437ca612efc1ab471aa3225a ++
    be48 0x7fdc6230e3cba8bfe8d85f8ce28365c3b874875b59d6ae783247b4f3747cb863846dfc0fc774e1761a98f403c88f757c ++
    be48 0x451a466be8f1808b5ddbf5ae139d6df66f6a3c992bf15e265699a6efd9ebe84e9f9a4708bf33aaece6464431174bc98f ++
    be48 0x8c5fb2e4fc4dca6f5aeff8869ee6f19f2fac0d49665a0a697442431b8b7deb4b99664c3727640026660cc843bef59eb0 ++ leBytes 64 0

/-- The engine verifying a Legend, with the key's digest in slot 0 or none. -/
def verifying (keyed : Bool) (l : List Byte) : State :=
  { on with
    build := { on.build with
      key0 := if keyed then 0x2f32b7f92b185b9fe20250bc2e7ec100015693660e0bfe6861458d4e060ba3289c2fa9c3083e0254868e4f1413c55751 else 0
      key1 := 0 }
    lgd := { on.lgd with load := .verifying, bytes := l, bistDone := true } }

/-- The state of each outcome of verification, in the order of the REASON codes 1 to 10, and of none. -/
def outcomes : List State :=
  let g := legend 0x12 5 15 2600
  let s := verifying true g
  [{ s with lgd := { s.lgd with fetchBad := true } }, verifying true [], verifying true (legend 0x13 5 15 2600), verifying true (legend 0x12 4 15 2600),
    verifying true (legend 0x12 5 15 2500), verifying true (legend 0x12 5 0 2600), { s with flt := { s.flt with isoBusy := 2 } }, s,
    { verifying false g with ctxs := [] }, { verifying true (legend 0x12 5 15 2601) with ctxs := [] }, { s with ctxs := [] }]

/-- Every REASON code and the outcome without one come about, with a Legend whose signature was computed outside the model. -/
theorem wit_VerificationStagesOrFails_codes : (outcomes.all fun s => !s.pins.poreset && !s.pins.sysreset && !s.flt.out && s.lgd.load == .verifying && s.lgd.bistDone &&
      (framing s.lgd.bytes).isSome == (!s.lgd.fetchBad && !s.lgd.bytes.isEmpty || s.lgd.fetchBad)) = true ∧
    outcomes.map (fun s => match exec .legendVerified s with | .next t => (t.lgd.reason, t.lgd.load == .verified) | _ => (99, false)) =
      [(1, false), (2, false), (3, false), (4, false), (5, false), (6, false), (7, false), (8, false), (9, false), (10, false), (0, true)] := by
  decide +kernel

/-- A verified Legend before it is sealed. -/
def staged : State := { State.reset with
  tst := { State.reset.tst with busy := false }, lgd := { State.reset.lgd with staged := some leg, load := .verified } }

theorem wit_SealingPutsTheLegendInForce : staged.cfgOpen = true ∧ staged.lgd.staged = some leg ∧ staged.lgd.load = .verified ∧
    staged.lgd.standalone = true ∧ staged.pins.testMode = false ∧ staged.flt.out = false ∧ staged.tablesOk = true ∧ staged.sizesOk ∧
    ({ staged with cmqs := [(2, { CmQueue.init with base := 8192, log2 := 4, head := 5, pub := 7, nums := [3, 4] })] } : State).tablesOk = true := by
  unfold State.sizesOk
  decide +kernel

theorem wit_BistRunsAndEnds : staged.cfgOpen = true ∧ staged.flt.out = false ∧ staged.lgd.standalone = true ∧ staged.tst.busy = false ∧
    (State.reset.cfgOpen = true ∧ State.reset.flt.out = false ∧ State.reset.tst.busy = true) ∧
    (⟨0, false, false, 8, false, 0⟩ : BistResult).shared = false ∧ (8 : Nat).testBit 3 = true ∧ State.reset.chOn 3 = true ∧
    State.reset.tst.diag = false ∧ (bistWithin ⟨0, false, false, 8, false, 0⟩ State.reset.bistChans).chFail = 8 ∧
    (let s := { State.reset with tst := { State.reset.tst with diag := true }, lgd := { State.reset.lgd with rStruct := 0 } }
     s.cfgOpen = true ∧ s.tst.busy = true ∧ s.flt.out = false ∧ (bistWithin ⟨0, true, false, 8, false, 0⟩ s.bistChans).chFail = 0 ∧
       (bistWithin ⟨0, true, false, 8, false, 0⟩ s.bistChans).array = false ∧ (bistWithin ⟨2, false, false, 8, false, 0⟩ s.bistChans).chFail = 8) := by
  decide +kernel

/-- A Footpath write of one byte at 4,096. -/
def write1 : FpReq := ⟨.record 0 1, false, 4096, [7], 1⟩

theorem wit_PoresetResetsAllButTheAlmanac : on.pins.poreset = false ∧ on.sizesOk ∧ on.alm.life.getD 4 0 < 2 ^ 64 - 2 ∧ on.fp = [] ∧
    (on.tablesOk = true ∧ ∀ r ∈ ({ on with fp := [write1] } : State).fp, 4097 < r.addr ∨ r.addr + r.data.length ≤ 4097) ∧
    ({ on with pins := { on.pins with poreset := true } } : State).pins.poreset = true :=
  ⟨rfl, on_sizes, by decide +kernel, rfl, by decide +kernel, rfl⟩

/-- What passes on the test access port: each selection, in the mission setting and in manufacturing test, where alone a BIST starts. -/
theorem wit_PoresetResetsAllButTheAlmanac_port :
    ([TapInst.bypass, .idcode, .access].all fun i => [false, true].all fun m =>
      let s := { staged with pins := { staged.pins with tap := i, testMode := m } }
      let starts := m && i == .access
      (!s.pins.testMode || s.pins.tap != .access || !s.lgd.standalone || s.tst.busy) != starts &&
        (s.pins.testMode && s.pins.tap == .access && !s.pins.poreset && !s.pins.sysreset && s.lgd.standalone && !s.tst.busy && !s.flt.out) == starts) = true := by
  decide +kernel

theorem wit_SysresetStartsUpAgain : on.pins.sysreset = false ∧ on.sizesOk ∧ on.alm.life.getD 5 0 < 2 ^ 64 - 2 ∧
    (let s := { on with pins := { on.pins with sysreset := true, safeAt := some 5, now := 1005 }, flt := { on.flt with safe := true } }
     s.pins.sysreset = true ∧ s.flt.safe = true ∧ s.pins.safeAt.getD 0 + 1000 ≤ s.pins.now ∧ s.flt.out = false ∧ s.pins.poreset = false ∧ s.fp = [] ∧ s.tablesOk = true ∧
       ∀ r ∈ ({ s with fp := [write1] } : State).fp, 4095 < r.addr ∨ r.addr + r.data.length ≤ 4095) ∧
    (let s := { on with pins := { on.pins with sysreset := true, safeAt := some 5, now := 1005 }, flt := { on.flt with safe := true, out := true } }
     s.pins.sysreset = true ∧ s.flt.safe = true ∧ s.pins.safeAt.getD 0 + 1000 ≤ s.pins.now ∧ s.flt.out = true) ∧
    (let s := { on with pins := { on.pins with sysreset := true, safeAt := some 5, now := 1004 }, flt := { on.flt with safe := true } }
     s.pins.now < s.pins.safeAt.getD 0 + 1000) := by
  refine ⟨rfl, on_sizes, ?_⟩
  decide +kernel

theorem wit_RegisterWriteAnswers : on.pins.poreset = false ∧ regAt 0xFFFFF8 = none ∧ (regAt 0x4000).isSome = true ∧
    (0x0F#8 : Byte) ≠ 0xFF#8 ∧ on.cfgOpen = true ∧ on.win.st ≠ 1 ∧ on.mode.pending = false ∧
    (let s := { on with pins := { on.pins with sysreset := true } }
     s.pins.poreset = false ∧ s.pins.sysreset = true ∧ on.pins.sysreset = false ∧ ({ on with flt := { on.flt with safe := true } } : State).flt.safe = true) := by
  decide +kernel

/-- A register of each access code, at its offset; before a seal and after it, and a performance counter that has wrapped. -/
theorem wit_RegisterWriteAnswers_codes :
    ([(0, Reg.gpeId), (0x4000, .ctxSel), (0x2000, .modeStage), (0x2010, .modeStatus), (0x3008, .lgdStatus), (0x4010, .ctxStatus),
      (0x40008, .perf .droops), (0x3040, .lgdStruct), (0x3048, .lgdAtlas), (0x3050, .lgdClocks), (0x33FF8, .almRestore 511),
      (0xA000, .schedLo 0), (0xBFF8, .schedHi 511), (0x22008, .stlClear)].all fun x => regAt x.1 == some x.2 && !on.unbuilt x.2) = true ∧
    Reg.gpeId.readOnly = true ∧ Reg.stlClear.writeOnly = true ∧ staged.cfgOpen = true ∧ staged.lgd.standalone = true ∧
    on.lgd.standalone = false ∧ on.flt.lockedWrite.value < 4294967295 ∧ bits on.mode.set 8 1 = 0 ∧ (511 / 256 ≠ bits on.mode.set 8 1) ∧
    ({ on with mode := { on.mode with pending := true } } : State).cfgOpen = true ∧
    (let p := { on.pwrDroops with wrap := true, wrapAt := some 4 }
     let s := at_ 5 { on with pwrDroops := p }
     (s.perf .droops).wrapAt ≠ some s.pins.now ∧ ((at_ 4 s).perf .droops).wrapAt = some (at_ 4 s).pins.now) ∧
    (bits (2 ^ 48 : Nat) 48 1 = 1 ∧ bits (0 : Nat) 48 1 = 0) ∧ regAt 4 = none ∧
    (let s := { on with build := { on.build with size := .s1 } }
     s.unbuilt (.almWear 255) = true ∧ regAt (0x32000 + 8 * 255) = some (.almWear 255)) := by
  decide +kernel

/-- The tracker in TRACK, an eighth of its period after a pulse. -/
def tracking (cyc : Nat) : State := { on with dat := { on.dat with tracker := .track, cyc := cyc, stopped := false } }

theorem wit_PulseIsAcceptedOrRejected : (on.alive = true ∧ on.dat.stopped = false ∧ on.dat.tracker = .wait) ∧
    ((tracking 1499999).alive = true ∧ (tracking 1499999).dat.tracker ≠ .wait ∧ 8 * (tracking 1499999).dat.cyc < (tracking 1499999).dat.period) ∧
    ((tracking 1500000).alive = true ∧ (tracking 1500000).dat.stopped = false ∧
      (tracking 1500000).dat.period ≤ 8 * (tracking 1500000).dat.cyc) := by decide +kernel

/-- A pulse that finds an epoch request of an earlier cycle, or of this one, and a context in a round that is at some pass of it. -/
theorem wit_PulseIsAcceptedOrRejected_applies :
    ([(5, 0, false), (9, 1, true), (5, 2, false)].all fun x =>
      let s0 := { tracking 1500000 with
        pins := { on.pins with now := 9 }, mode := { on.mode with pending := true, requested := 7, reqAt := x.1, pendingSet := 3 } }
      let s := (s0.updCtx 1 fun c => { c with sendEvery := 3, passInRound := x.2.1 }).updRt 1 fun r => { r with waitPulse := x.2.2 }
      s.tablesOk && s.alive && !s.dat.stopped && decide (s.dat.period ≤ 8 * s.dat.cyc) && s.mode.pending && (decide (s.mode.reqAt < s.pins.now)) == (x.1 == 5) &&
        s.chOn 3 && (s.fireAll.ctx 1).state == .active && (s.fireAll.ctx 1).sendEvery == 3 && (s.fireAll.ctx 1).passInRound == x.2.1 &&
        (s.fireAll.rt 1).waitPulse == x.2.2 && s.dueEvents.isEmpty == (x.2.1 != 2)) = true := by decide +kernel

theorem wit_LosingTheBeat : on.alive = true ∧ on.dat.stopped = false ∧ on.dat.tracker = .wait ∧ on.takes on.engineEvq ∧
    ((tracking 0).alive = true ∧ (tracking 0).dat.stopped = false ∧ (tracking 0).dat.tracker = .track) ∧
    (let s := { on with dat := { on.dat with tracker := .track, acc := 2 ^ 57 } }
     s.alive = true ∧ s.dat.tracker = .track ∧ s.dat.acc = 2 ^ 57) ∧ on.dat.acc ≠ 2 ^ 57 ∧
    (let s := { on with dat := { on.dat with tracker := .free, freeCyc := 12000000 } }
     s.alive = true ∧ s.dat.stopped = false ∧ s.dat.tracker = .free ∧ s.dat.period ≤ s.dat.freeCyc) ∧
    (let s := { on with dat := { on.dat with tracker := .free, freeCyc := 11999999 } }
     s.dat.freeCyc < s.dat.period) := ⟨by decide +kernel, rfl, rfl, on_takes, by decide +kernel⟩

theorem wit_EpochRequests : on.cfgOpen = true ∧ on.lgd.standalone = false ∧ on.mode.pending = false ∧
    bits (2#64 : W64).toNat 0 16 = nextEpoch on.mode.requested ∧ bits (3#64 : W64).toNat 0 16 ≠ nextEpoch on.mode.requested := by
  decide +kernel

theorem wit_ForceAppliesInFree : (on.cfgOpen = true ∧ on.dat.tracker ≠ .free) ∧
    (let s := { on with dat := { on.dat with tracker := .free } }
     s.cfgOpen = true ∧ s.dat.tracker = .free ∧ s.lgd.standalone = false ∧ s.mode.pending = false ∧
       bits (0x10002#64 : W64).toNat 0 16 = nextEpoch s.mode.requested ∧ s.chOn 3 = true) ∧
    ([true, false].all fun f =>
      let s := { on with
        pins := { on.pins with now := 1 }, dat := { on.dat with tracker := .free, freeCyc := 12000000 }
        mode := { on.mode with pending := true, requested := 2, force := f } }
      s.cfgOpen && s.alive && s.dat.tracker == .free && decide (s.dat.period ≤ s.dat.freeCyc) && s.mode.pending &&
        decide (s.mode.reqAt < s.pins.now) && s.mode.force == f && decide (s.engineEvq = on.engineEvq)) = true ∧
    on.takes on.engineEvq :=
  ⟨by decide +kernel, by decide +kernel, by decide +kernel, on_takes⟩

/-- An entry of the schedule due in TRACK: its low and high words, as entry 255. -/
def entryState (lo hi : Nat) : State := { on with dat := { on.dat with tracker := .track, acc := 2 ^ 44, sched := [(255, (lo, hi))] } }

theorem wit_ScheduleEntriesFire :
    (entryState (2 * 4096) 1).entryDue 2 255 = true ∧
    ((entryState (5 * 4096 + 2 ^ 24) 0).entryDue 5 255 = true) ∧
    ((entryState (4 * 4096 + 2 ^ 24) 0).entryDue 4 255 = true ∧ Tab.wf CtxRt.init (entryState (4 * 4096 + 2 ^ 24) 0).rts = true) ∧
    ((entryState (1 * 4096 + 9 * 2 ^ 24 + 2 ^ 40) 0).entryDue 1 255 = true ∧
      (entryState (1 * 4096 + 9 * 2 ^ 24 + 2 ^ 40) 0).ctxExists ((entryState (1 * 4096 + 9 * 2 ^ 24 + 2 ^ 40) 0).schedCtx 255) = false) ∧
    (let s := entryState (1 * 4096 + 2 ^ 24 + 16 * 2 ^ 40) 64
     s.entryDue 1 255 = true ∧ s.ctxExists (s.schedCtx 255) = true ∧ bits (s.schedEntry 255).1 40 5 = 16 ∧
       bits (s.schedEntry 255).2 0 52 % 64 = 0 ∧ s.inMap (bits (s.schedEntry 255).2 0 52) (16 * 16) = true) := by decide +kernel

/-- A SEND_CLOSE entry of a context with a SEND_OPEN entry. -/
theorem wit_ScheduleEntriesFire_close :
    let s := { entryState (5 * 4096 + 2 ^ 24) 0 with
      dat := { (entryState 0 0).dat with sched := [(254, (4 * 4096 + 2 ^ 24 + 1, 0)), (255, (5 * 4096 + 2 ^ 24, 0))] } }
    s.entryDue 5 255 = true ∧ s.hasOpener (s.schedCtx 255) = true ∧
      (entryState (5 * 4096 + 2 ^ 24) 0).hasOpener ((entryState (5 * 4096 + 2 ^ 24) 0).schedCtx 255) = false ∧
      { s with dat := { s.dat with fired := [255] } }.dat.fired.contains 255 = true := by decide +kernel

/-- The context window on a context, with an image whose default deadline is 1,000 µs. -/
def window (sel : Nat) : State :=
  { on with win := { on.win with sel := sel, data := 0#64 :: 1000#64 :: List.replicate 14 0#64 }, cmqs := [] }

theorem wit_ContextOperations_create : (window 4095).winOpen = true ∧ (window 4095).win.st ≠ 1 ∧
    (window 4095).win.sel < (window 4095).ctxCount ∧ (window 4095).tablesOk = true ∧ ((window 4095).ctx 4095).state = .free ∧
    (window 4095).entryError 4095 (window 4095).win.image { (CtxEntry.init.takeD (window 4095).win.image) with
      state := .active, round := BitVec.ofNat 64 (bits (window 4095).win.image 576 64) } = 0 := by decide +kernel

theorem wit_ContextOperations : (window 1).winOpen = true ∧ (window 1).win.st ≠ 1 ∧ (window 1).win.sel < (window 1).ctxCount ∧
    (window 1).tablesOk = true ∧ ((window 1).ctx 1).state = .active ∧
    (window 1).entryError 1 (window 1).win.image (((window 1).ctx 1).takeD (window 1).win.image) = 0 ∧
    ((window 1).ctx 1).roundState = .idle ∧ ((window 1).ctx 1).passInRound = 0 ∧ (window 1).ctxIdle 1 = true ∧
    (window 1).queuesOff 1 = true ∧
    (let u := { window 1 with win := { (window 1).win with st := 1, outcome := 3 } }
     u.winOpen = true ∧ u.win.st = 1 ∧ u.win.outcome ≠ 0) := by decide +kernel

/-- Each refusal of a context operation, by the state of the context and the image: the context FREE, with an image that breaks FIELD;
ACTIVE, idle or not, with its queue on or off, its round open, and an image that breaks FIELD; RESETTING; QUARANTINED. -/
def refusing : List State :=
  let w := window 1
  let bad := fun (s : State) => { s with win := { s.win with data := List.replicate 16 0#64 } }
  [bad (window 4095), bad w, { w with cmqs := on.cmqs }, w.updCtx 1 fun c => { c with roundState := .closing, sendEvery := 2 },
    { w with cmds := [cmdOf 4] }, w.updCtx 1 fun c => { c with state := .resetting }, w.updCtx 1 fun c => { c with state := .quarantined },
    { w with cmds := [cmdOf 4] }.updCtx 1 fun c => { c with seed := 9#64 }]

/-- The conditions of the refusals, in the order of the statement's clauses. -/
def refusals (s : State) : List Bool :=
  let c := s.win.sel
  let e := s.ctx c
  let img := s.win.image
  let new := e.takeD img
  let err := s.entryError c img { (CtxEntry.init.takeD img) with state := .active, round := BitVec.ofNat 64 (bits img 576 64) }
  let idle := s.ctxIdle c
  let rounds := e.roundsDiffer new && !(e.roundState == .idle && e.passInRound == 0)
  let live := e.state == .active || e.state == .quarantined
  [e.state != .free, e.state == .free && err != 0, e.state != .active || rounds, e.state == .active && !rounds && !idle && e.idleDiffer new,
    e.state == .active && !rounds && (idle || !e.idleDiffer new) && s.entryError c img new != 0, e.state == .free || e.state == .resetting,
    live && !idle, live && idle && !s.queuesOff c, e.state != .active, e.state == .active && !idle, e.state == .free || e.state == .resetting]

theorem wit_ContextOperations_refused :
    (refusing.all fun s => s.winOpen && s.win.st != 1 && decide (s.win.sel < s.ctxCount) && s.tablesOk) = true ∧
    ((List.range 11).all fun k => refusing.any fun s => (refusals s).getD k false) = true := by
  decide +kernel

/-- The record of a context reset that runs. -/
def resetRec : ResetRun :=
  { engine := false, discarded := 0, records := 0, escalated := false, channels := 0, closed := false, torn := 0, owed := [], acked := false
    since := 0, quarantined := false }

theorem wit_ContextResetStartsAndEnds :
    (let s := { window 1 with cmqs := on.cmqs }
     s.tablesOk = true ∧ s.winOpen = true ∧ s.win.st ≠ 1 ∧ s.win.sel < s.ctxCount ∧ (s.ctx 1).state = .active ∧ (s.cmq 2).ctx = 1 ∧
       (s.cmq 2).state = .active) ∧
    (let s := (withCtx fun c => { c with state := .resetting, resets := 2 }).updRt 1 fun r => { r with resetting := some resetRec }
     s.tablesOk = true ∧ s.lgd.inForce = some leg ∧ s.alive = true ∧ (s.rt 1).resetting = some resetRec ∧ s.resetQuiet 1 = true) := by
  decide +kernel

/-- Queue 2 in a state, with no command. -/
def queue (st : QState) : State := on.updCmq 2 fun e => { e with state := st }

theorem wit_CommandQueueControl :
    (let v : W64 := 0x10040#64
     on.cfgOpen = true ∧ on.tablesOk = true ∧ (on.cmq 4095).state = .disabled ∧ on.lgd.standalone = false ∧
       bits v.toNat 16 16 < on.ctxCount ∧ (on.ctx (bits v.toNat 16 16)).state = .active ∧ bits v.toNat 2 5 = 16 ∧
       (on.cmq 4095).base % 4096 = 0 ∧ on.inMap (on.cmq 4095).base (128 * 2 ^ 16) = true) ∧
    (let v : W64 := 0x10010#64
     ((queue .active).cmq 2).state = .active ∧ bits v.toNat 2 5 = ((queue .active).cmq 2).log2 ∧
       bits v.toNat 16 16 = ((queue .active).cmq 2).ctx ∧ ((queue .stopped).cmq 2).state = .stopped ∧
       bits v.toNat 2 5 = ((queue .stopped).cmq 2).log2 ∧ bits v.toNat 16 16 = ((queue .stopped).cmq 2).ctx ∧
       ((queue .stopped).ctx ((queue .stopped).cmq 2).ctx).state ≠ .resetting) ∧
    ((queue .paused).tablesOk = true ∧ ((queue .paused).cmq 2).state = .paused ∧ ((queue .draining).cmq 2).state = .draining ∧
      ((queue .draining).cmq 2).log2 = 4 ∧ ((queue .draining).cmq 2).ctx = 1) := by
  decide +kernel

theorem wit_CommandsArePublishedAndAccepted :
    (on.tablesOk = true ∧ on.cfgOpen = true ∧ (on.cmq 2).state ≠ .disabled ∧
      ((16#64 : W64).toNat % 2 ^ 32 + 2 ^ 32 - (on.cmq 2).head) % 2 ^ 32 ≤ 2 ^ (on.cmq 2).log2 ∧ serialGe 32 16 (on.cmq 2).pub = true) ∧
    2 ^ (on.cmq 2).log2 < ((17#64 : W64).toNat % 2 ^ 32 + 2 ^ 32 - (on.cmq 2).head) % 2 ^ 32 ∧
    (let s := on.updCmq 2 fun e => { e with head := 5, pub := 5 }
     s.tablesOk = true ∧ (s.cmq 2).state ≠ .disabled ∧ serialGe 32 4 (s.cmq 2).pub = false) ∧
    (let s := on.updCmq 2 fun e => { e with pub := 1, nums := [0] }
     s.tablesOk = true ∧ s.slotWanted 2 = true ∧ s.canAccept 2 = false) ∧
    (let s := on.updCmq 2 fun e => { e with pub := 1, nums := [0], slot := some 0x20 }
     s.tablesOk = true ∧ s.canAccept 2 = true) := by decide +kernel

theorem wit_EventQueueControl :
    (let v : W64 := 0x0E#64
     on.tablesOk = true ∧ on.cfgOpen = true ∧ (on.evq 63).enable = false ∧ (on.evq 63).disabling = false ∧ bits v.toNat 1 5 = 7 ∧
       (on.evq 63).base % 4096 = 0 ∧ on.inMap (on.evq 63).base (32 * 2 ^ 7) = true) ∧
    ((on.evq 0).enable = true ∧ bits (0x0E#64 : W64).toNat 1 5 = (on.evq 0).log2) ∧
    (let s := on.updEvq 0 fun e => { e with tail := 3 }
     s.tablesOk = true ∧ s.cfgOpen = true ∧
       ((3#64 : W64).toNat % 2 ^ 32 + 2 ^ 32 - (s.evq 0).head) % 2 ^ 32 ≤ ((s.evq 0).tail + 2 ^ 32 - (s.evq 0).head) % 2 ^ 32 ∧
       ((s.evq 0).tail + 2 ^ 32 - (s.evq 0).head) % 2 ^ 32 < ((4#64 : W64).toNat % 2 ^ 32 + 2 ^ 32 - (s.evq 0).head) % 2 ^ 32) ∧
    (let s := at_ 10000 (on.updEvq 0 fun e => { e with gapRunning := true, owes := true, gap := 10 })
     s.tablesOk = true ∧ s.alive = true ∧ (s.evq 0).gapRunning = true ∧ (s.evq 0).gapAt + max 1 (s.evq 0).gap * 1000 ≤ s.pins.now ∧ (s.evq 0).owes = true) ∧
    (let s := at_ 10000 (on.updEvq 0 fun e => { e with gapRunning := true, gap := 10 })
     s.tablesOk = true ∧ s.alive = true ∧ (s.evq 0).gapRunning = true ∧ (s.evq 0).gapAt + max 1 (s.evq 0).gap * 1000 ≤ s.pins.now ∧ (s.evq 0).owes = false) ∧
    ([(9999, 10), (999, 0)].all fun x =>
      let s := at_ x.1 (on.updEvq 0 fun e => { e with gapRunning := true, gap := x.2 })
      s.alive && (s.evq 0).gapRunning && decide (s.pins.now < (s.evq 0).gapAt + max 1 (s.evq 0).gap * 1000)) = true := by
  decide +kernel

theorem wit_RecordsAreWrittenOrCounted : on.tablesOk = true ∧ on.takes 0 ∧
    (let s := on.updEvq 0 fun e => { e with tail := 128 }
     s.tablesOk = true ∧ s.alive = true ∧ (s.evq 0).open_ = true ∧ (s.evq 0).room = 0 ∧ (s.evq 0).lost.value + 1 < (s.evq 0).lost.threshold ∧
       (s.evq 0).lost.value < 4294967295) ∧
    (on.evq 63).open_ = false ∧ (on.evq 63).lost.value + 1 < (on.evq 63).lost.threshold ∧
    ([(0, 3), (127, 1)].all fun x =>
      let s := on.updEvq 0 fun e => { e with tail := x.1, pend := 5 }
      s.tablesOk && s.alive && (s.evq 0).open_ && (s.evq 0).pend != 0 && decide ((s.evq 0).log2 ≤ 16) && decide (x.2 ≤ (s.evq 0).room) &&
        (x.2 == 3 || (s.evq 0).room == 1) && decide ((s.evq 0).lost.value + 1 < (s.evq 0).lost.threshold)) = true ∧
    State.reset.tablesOk = true ∧ State.reset.alive = false := ⟨on_alive.2.2, on_takes, by decide +kernel⟩

/-- A plain tensor descriptor: base, format code, columns and rows of 4 bytes an element of pitch (R315). -/
def td (base fmt e0 e1 : Nat) : Nat :=
  base + fmt * 2 ^ 52 + 2 ^ (8 * 0x18) * (e0 + e1 * 2 ^ 32 + 2 ^ 64 + 2 ^ 96) + 4 * e0 * 2 ^ (8 * 0x2D)

/-- An MM of one element, BF16 by BF16 into FP32, begun on array 0. -/
def mm1 : Cmd :=
  { cmdOf (4 + 2 ^ 16) with
    slots := [td 65536 2 1 1, td 65792 2 1 1, 0, td 66048 0 1 1, 0, 0, 0]
    run := { RunInfo.none with arr := some 0, em := 1, ek := 1, en := 1, am := 1, ak := 1, an := 1 } }

/-- An MM of one bucket that has issued, with its shape in a record at 12,288, or inline. -/
def bucketed (inl : Nat) : Cmd :=
  { mm1 with
    raw := mm1.raw + 2 ^ (8 * 0x41 + 4) + inl * 2 ^ (8 * 0x41 + 3) + (if inl = 0 then 768 else 99) * 2 ^ (8 * 0x68)
    phase := .issued, run := RunInfo.none }

/-- A COPY whose source descriptor lies at 12,288. -/
def copyRaw : Nat := 0x18 + 2 ^ 16 + 768 * 2 ^ (8 * 0x16)

/-- A FENCE of context 1 that waits to issue, or has issued. -/
def fence (p : Phase) : Cmd := { cmdOf (0x20 + 2 ^ 16) with phase := p }

/-- A queue with one slot left or two, with a lost count pending or none. -/
theorem wit_RecordsAreWrittenOrCounted_room :
    ([(127, 0, 1), (126, 5, 2), (127, 5, 1)].all fun x =>
      let s := on.updEvq 0 fun e => { e with tail := x.1, pend := x.2.1 }
      let e := s.evq 0
      s.tablesOk && s.alive && e.open_ && decide (e.log2 ≤ 16) && decide (e.head < 2 ^ 32) && decide (e.tail < 2 ^ 32) && e.pend == x.2.1 && e.room == x.2.2 &&
        decide (e.lost.value < 4294967295) && e.lost.value + 1 != e.lost.threshold) = true := by decide +kernel

theorem wit_IssueChecksDecide :
    (let s := withCmd (fence .accepted)
     s.alive = true ∧ ((s.cmdsOf 2).find? fun c => c.phase == .accepted) = some (fence .accepted) ∧ (s.ctx 1).state ≠ .resetting ∧
       (s.issueTables (fence .accepted)).all (fence .accepted).hasPiece = true ∧ s.issueChecks (s.loadDescs (fence .accepted)) = none) ∧
    (let c := { fence .accepted with raw := 0xFF + 2 ^ 16 }
     let s := withCmd c
     s.alive = true ∧ ((s.cmdsOf 2).find? fun c => c.phase == .accepted) = some c ∧ (s.ctx 1).state ≠ .resetting ∧
       (s.issueTables c).all c.hasPiece = true ∧ (s.issueChecks (s.loadDescs c)).isSome = true) ∧
    (let c := { fence .accepted with raw := copyRaw }
     let s := withCmd c
     s.alive = true ∧ ((s.cmdsOf 2).find? fun c => c.phase == .accepted) = some c ∧ (s.issueTables c).all c.hasPiece = false) := by
  decide +kernel

theorem wit_CommandsBegin :
    let c := fence .issued
    let s := withCmd c
    s.nextBegin 2 = some c ∧ s.ready c = true ∧ c.id.q = 2 ∧ s.holdOf c = 0 ∧ s.brokenCause c = none ∧
      (s.beginTables c).all c.hasPiece = true ∧ ((s.epochCause c).or ((s.regionCause c).or ((s.brokenCause c).or (s.secondCause c)))) = none ∧
      (let c1 := { c with frames := s.resolve c }
       let s1 := s.updCmd c.id fun _ => c1
       (s1.planRun c1).2 = none ∧ s.unitBusy c (s1.planRun c1).1 = false ∧ (s1.planRun c1).1.arr = none ∧ c.frameRefs = []) := by
  decide +kernel

/-- An MM of one bucket that has issued: its shape is in a record that is still to be read, or it names one that fits no bucket. -/
theorem wit_CommandsBegin_shape :
    (let c := bucketed 0
     let s := withCmd c
     s.nextBegin 2 = some c ∧ s.ready c = true ∧ s.holdOf c = 0 ∧ (s.beginTables c).all c.hasPiece = false) ∧
    (let c := bucketed 1
     let s := withCmd c
     s.nextBegin 2 = some c ∧ s.ready c = true ∧ s.holdOf c = 0 ∧ (s.beginTables c).all c.hasPiece = true ∧
       ((s.epochCause c).or ((s.regionCause c).or ((s.brokenCause c).or (s.secondCause c)))) = none ∧
       (let c1 := { c with frames := s.resolve c }
        let s1 := s.updCmd c.id fun _ => c1
        ((s1.planRun c1).2.map (·.code)) = some 0x0121 ∧ s.unitBusy c (s1.planRun c1).1 = false)) := by
  decide +kernel

theorem wit_CommandsComplete :
    let c := { cmdOf 4 with phase := .done }
    let s := withCmd c
    s.cmd c.id = some c ∧ s.alive = true ∧ c.phase = .done ∧ c.owed = [] ∧ c.fpOwed = 0 ∧ c.longsumFault = false ∧
      { c with counts := { c.counts with satOut := 1 } }.longsumFault = true := by decide +kernel

theorem wit_CommandsAbort :
    (let c := { cmdOf 4 with armed := some (10000, 10) }
     (withCmd c).cmd c.id = some c ∧ (withCmd c).alive = true ∧ c.armed = some (10000, 10) ∧ (withCmd c).pins.now < 10000 ∧
       10000 ≤ (at_ 10000 (withCmd c)).pins.now ∧ c.cause = none ∧ c.phase = .begun) ∧
    (let c := { fence .issued with armed := some (10000, 10) }
     let s := at_ 10000 (withCmd c)
     s.cmd c.id = some c ∧ s.alive = true ∧ c.armed = some (10000, 10) ∧ 10000 ≤ s.pins.now ∧ c.cause = none ∧ c.waiting = true) ∧
    (let f : Cause := ⟨0x0701, 0, 15, 0⟩
     let c := { cmdOf 4 with phase := .aborting, cause := some f }
     (withCmd c).cmd c.id = some c ∧ c.cause = some f ∧ (withCmd c).quiet c = true) ∧
    (let c := { cmdOf 4 with phase := .aborting, since := 7 }
     let s := at_ 1000007 (withCmd c)
     (at_ 1000006 (withCmd c)).pins.now < c.since + 1000000 ∧ s.cmd c.id = some c ∧ s.alive = true ∧ c.phase = .aborting ∧
       c.since + 1000000 ≤ s.pins.now ∧ (s.ctx c.ctx).state = .active ∧ s.tablesOk = true) := by decide +kernel

/-- The engine with a command on array 0, in tile 0's first sheet as given. -/
def onArr (c : Cmd) (sh : Sheet) : State :=
  { withCmd c with
    arrs := { Arr.init with op := some c.id, fed := true } :: List.replicate 3 Arr.init
    tiles := { Tile.init with sheets := [sh, Sheet.init] } :: List.replicate 255 Tile.init }

/-- A command on a unit: what runs asks of it. -/
theorem runs_of (c : Cmd) (op : Nat) (s : State) (h : s.alive = true ∧ s.cmd c.id = some c ∧ c.phase = .begun ∧ c.op = op) : s.runs c op := h

theorem wit_ArrayOperationsRun :
    (let s := onArr mm1 Sheet.init
     let w := s.work mm1
     s.runs mm1 4 ∧ s.tablesOk = true ∧ s.held mm1 = false ∧ s.drainHeld w = false ∧
       ((State.runBlks w (w.runOrder (List.range w.bs.length)) (s.feedRest mm1.id)).cmd mm1.id).map (·.phase) = some .begun ∧
       mm1.run.spur = false ∧ mm1.cause = none ∧ mm1.drained = [] ∧
       (s.arrs.find? fun a => a.op == some mm1.id).map (·.held) = some [] ∧ 0 < w.bs.length) ∧
    (let c := { mm1 with raw := 8 + 2 ^ 16, run := { mm1.run with spur := true, arr := none } }
     (withCmd c).runs c 8 ∧ (withCmd c).tablesOk = true ∧ c.run.spur = true) :=
  ⟨⟨runs_of _ _ _ (by decide +kernel), by decide +kernel⟩, runs_of _ _ _ (by decide +kernel), by decide +kernel⟩

/-- The GP_GROUPED case: no group, so that no block meets an arithmetic error. -/
theorem wit_ArrayOperationsRun_grouped :
    let c := { mm1 with raw := 5 + 2 ^ 16 }
    let s := onArr c Sheet.init
    let w := s.work c
    s.runs c 5 ∧ s.tablesOk = true ∧ s.held c = false ∧ s.drainHeld w = false ∧ (s.groupRun c).2 = none ∧
      (((s.groupRun c).1.foldl (State.runGroup w) (s.feedRest c.id)).cmd c.id).map (·.phase) = some .begun :=
  ⟨runs_of _ _ _ (by decide +kernel), by decide +kernel⟩

/-- A drain command from one FP32 element to another. -/
def drainCmd (op fmt : Nat) : Cmd := { mm1 with raw := op + 2 ^ 16, slots := [td 65536 fmt 1 1, 0, td 65536 0 1 1, td 66048 0 1 1, 0, 0, 0] }

theorem wit_DrainCommandsStore : (withCmd (drainCmd 9 0)).tablesOk = true ∧ (withCmd (drainCmd 9 0)).runs (drainCmd 9 0) 0x09 ∧
    (withCmd (drainCmd 10 0)).runs (drainCmd 10 0) 0x0A ∧ (withCmd (drainCmd 0x19 0)).runs (drainCmd 0x19 0) 0x19 ∧
    ((withCmd (drainCmd 0x18 2)).runs (drainCmd 0x18 2) 0x18 ∧
      footCopy ((withCmd (drainCmd 0x18 2)).opd (drainCmd 0x18 2) 0 0) ((withCmd (drainCmd 0x18 2)).opd (drainCmd 0x18 2) 0 3) = false) ∧
    ((withCmd (drainCmd 0x18 0)).runs (drainCmd 0x18 0) 0x18 ∧
      footCopy ((withCmd (drainCmd 0x18 0)).opd (drainCmd 0x18 0) 0 0) ((withCmd (drainCmd 0x18 0)).opd (drainCmd 0x18 0) 0 3) = true ∧
      ((withCmd (drainCmd 0x18 0)).copyTables (drainCmd 0x18 0)).all (drainCmd 0x18 0).hasPiece = false) ∧
    (let c := { drainCmd 0x18 0 with tabs := [65536] }
     (withCmd c).runs c 0x18 ∧ footCopy ((withCmd c).opd c 0 0) ((withCmd c).opd c 0 3) = true ∧
       ((withCmd c).copyTables c).all c.hasPiece = true) := by
  unfold State.runs
  decide +kernel

/-- An entry of the stack. -/
def entry (id : Nat) (mark removed : Bool) : TrvEntry := ⟨id, mark, 7, 1, 1, 0, 0, 0, 262144 + 512 * id, 512, false, removed, none⟩

/-- A TRAVERSE_MARK with an operation and MARK_ID 7. -/
def markCmd (op : Nat) : Cmd := cmdOf (0x0B + 2 ^ 16 + op * 2 ^ (8 * 0x40) + 7 * 2 ^ (8 * 0x44))

/-- The engine with a command and a stack in context 1. -/
def withStack (c : Cmd) (l : List TrvEntry) : State := (withCmd c).updRt 1 fun r => { r with stack := l }

/-- A done command that has popped the frame below the topmost mark, and one that names it without a pop. -/
theorem wit_CommandsComplete_pops :
    ([true, false].all fun p =>
      let c := { cmdOf 4 with phase := .done, frames := [⟨0, 1, p, 0⟩, ⟨1, 3, false, 0⟩] }
      let s := withStack c [entry 0 true false, entry 1 false false, entry 2 true false, entry 3 false false, entry 4 false true]
      let named := fun (e : TrvEntry) => !c.longsumFault && c.frames.any fun f => f.pop && f.entry == e.id
      s.cmd c.id == some c && s.alive && c.owed.isEmpty && c.fpOwed == 0 && s.tablesOk &&
        (((s.rt c.ctx).live.dropWhile fun e => !named e).map (·.id)) == if p then [1, 2, 3] else []) = true := by decide +kernel

theorem wit_MarksAndDiscards :
    ((withCmd (markCmd 0)).tablesOk = true ∧ (withCmd (markCmd 0)).runs (markCmd 0) 0x0B ∧ (markCmd 0).markOp = 0 ∧
      (withCmd (markCmd 0)).trvPlace 1 256 = some (false, 4096 * 64)) ∧
    (let s := withStack (markCmd 1) [entry 0 true false, entry 1 true false, entry 2 false false]
     s.tablesOk = true ∧ s.runs (markCmd 1) 0x0B ∧ (markCmd 1).placed = false ∧ (markCmd 1).markOp = 1 ∧
       (s.rt 1).live = [entry 0 true false] ++ [entry 1 true false] ++ [entry 2 false false] ∧ (entry 1 true false).tag = (markCmd 1).fld 0x44 0 32) ∧
    ((withStack (markCmd 2) [entry 0 false false]).runs (markCmd 2) 0x0B ∧ (markCmd 2).markOp = 2) ∧
    (let c := { markCmd 2 with placed := true, removes := [1] }
     let s := withStack c [entry 0 false false, entry 1 false true]
     s.tablesOk = true ∧ s.alive = true ∧ ((s.rt 1).stack.filter (·.removed)).getLast? = some (entry 1 false true) ∧
       s.pinned 1 1 = false ∧ s.runs c 0x0B ∧ c.ctx = 1 ∧ c.removes = [1]) := by
  unfold State.runs
  decide +kernel

/-- Region 0 of context 1: 256 B at 0x20000, and the commands that name it. -/
def withRegion (c : Cmd) : State :=
  { withCmd c with mem := [(65538, 2), (65553, 1)], ctxs := [(1, { on.ctx 1 with regionCount := 1 })] }

/-- A command on array 0 with its sheet, as above, and region 0. -/
def regionArr (c : Cmd) (sh : Sheet) : State := { onArr c sh with mem := (withRegion c).mem, ctxs := (withRegion c).ctxs }

/-- A Mosaic command: opcode, fields, and the region's first element as source. -/
def mosCmd (op fields : Nat) : Cmd :=
  { mm1 with raw := op + 2 ^ 16 + fields * 2 ^ (8 * 0x40), slots := [td 131072 0 1 1, 0, 0, td 66048 0 1 1, 0, 0, 0], placed := false }

theorem wit_MosaicCommandsStart :
    (let s := withRegion (mosCmd 0x10 0)
     s.tablesOk = true ∧ s.mos.hold = [] ∧ s.runs (mosCmd 0x10 0) 0x10 ∧ (mosCmd 0x10 0).fld 0x40 0 2 = 0 ∧
       (s.slotRegion (mosCmd 0x10 0) 0).isSome = true ∧ s.ranks = 1 ∧ s.framesHeld 1 1 0 = false) ∧
    ((withRegion (mosCmd 0x10 1)).runs (mosCmd 0x10 1) 0x10 ∧ (mosCmd 0x10 1).fld 0x40 0 2 = 1 ∧ (withRegion (mosCmd 0x10 1)).ranks = 1) ∧
    (let s := { withRegion (mosCmd 0x10 0) with lgd := { on.lgd with inForce := some { leg with ranks := 2, rank := 1 } } }
     s.tablesOk = true ∧ s.runs (mosCmd 0x10 0) 0x10 ∧ (s.slotRegion (mosCmd 0x10 0) 0).isSome = true ∧ s.ranks ≠ 1 ∧ s.rank ≠ 0) ∧
    (let s := { withRegion (mosCmd 0x10 1) with lgd := { on.lgd with inForce := some { leg with ranks := 2, rank := 1 } } }
     s.runs (mosCmd 0x10 1) 0x10 ∧ (mosCmd 0x10 1).fld 0x40 0 2 = 1 ∧ s.ranks ≠ 1 ∧ s.rank ≠ 0) ∧
    (let c := { mosCmd 0x11 1 with slots := [0, 0, 0, td 66048 2 1 64, 0, 0, 0] }
     let s := withRegion c
     let g : GatherRec := ⟨c.id, 0, 0, true, 0, 0, [], false⟩
     s.tablesOk = true ∧ s.runs c 0x11 ∧ (c.fld 0x40 0 1 == 1) = true ∧ (s.rt 1).stream.gathers = [] ∧
       s.gatherMissing (s.opd c 0 3) g = none ∧ s.ranks = 1 ∧ s.framesHeld 1 2 0 = false ∧
       (let t := { s with lgd := { on.lgd with inForce := some { leg with ranks := 2, rank := 1 } } }
        t.runs c 0x11 ∧ (t.gatherMissing (t.opd c 0 3) g).isSome = true)) := by
  unfold State.runs
  decide +kernel

/-- A ring of one whose region holds long values, two columns in one row. -/
theorem wit_MosaicCommandsStart_long :
    let d := fun base => td base 0 2 1 + 24 * 2 ^ (8 * 0x2D)
    let c := { mosCmd 0x10 0 with slots := [d 131072, 0, 0, d 66048, 0, 0, 0] }
    let s := { withRegion c with mem := [(65538, 2), (65542, 0x10), (65553, 1)] }
    s.tablesOk = true ∧ s.runs c 0x10 ∧ c.fld 0x40 0 2 = 0 ∧ (s.slotRegion c 0).map (·.long) = some true ∧ s.ranks = 1 := by
  unfold State.runs
  decide +kernel

/-- A running update of layer 0. -/
def upd0 : UpdRec := ⟨0, 65536, 0, false, false, 0x3F800000, 0x3F800000, false, false, 0, [], ⟨2, 0⟩⟩

theorem wit_UpdatesRun :
    (let c := { mosCmd 0x12 4 with slots := [td 131072 0 1 1, 0, 0, 0, 0, 0, td 66048 0 2 1] }
     (withRegion c).tablesOk = true ∧ (withRegion c).runs c 0x12 ∧ c.fld 0x40 2 1 = 1) ∧
    (let c := { mosCmd 0x12 0 with slots := [td 131072 0 1 1, td 66048 0 1 1, 0, 0, td 66304 2 1 1, 0, 0] }
     let s := (withRegion c).updStream 1 fun x => { x with updates := [upd0] }
     s.tablesOk = true ∧ s.runs c 0x12 ∧ c.fld 0x40 2 1 = 0 ∧ c.fld 0x40 3 1 = 0 ∧ s.updateOf c = some upd0 ∧
       (mosCmd 0x12 8).fld 0x40 2 1 = 0 ∧ (mosCmd 0x12 8).fld 0x40 3 1 = 1 ∧ s.ownedRows c = (0, 1) ∧ (s.gradVal c false 0 0 0).isFin = true ∧
       (State.gradVal { s with mem := s.mem ++ [(131074, 0x80), (131075, 0x7F)] } c false 0 0 0).isFin = false ∧
       XVal.zero.lt (c.hyper 0x5C) = false ∧ XVal.zero.lt (Cmd.hyper { c with raw := c.raw + 0x3F800000 * 2 ^ (8 * 0x5C) } 0x5C) = true) := by
  unfold State.runs
  decide +kernel

/-- The engine with one command, the tracker in TRACK at Bearing 4,096. -/
def trackCmd (c : Cmd) : State := { withCmd c with dat := { on.dat with tracker := .track, acc := 2 ^ 56 } }

theorem wit_CommandUnitOperations :
    ((withCmd (fence .begun)).runs (fence .begun) 0x20 ∧ (withCmd (fence .begun)).scopeDone (fence .begun) = true) ∧
    (let c := { fence .begun with acc := 1 }
     let s := { on with cmds := [{ cmdOf 4 with id := ⟨2, 1⟩ }, c] }
     s.runs c 0x20 ∧ s.scopeDone c = false) ∧
    ((withCmd (cmdOf 0x21)).runs (cmdOf 0x21) 0x21 ∧ (withCmd (cmdOf 0x21)).pins.now < (cmdOf 0x21).since + (withCmd (cmdOf 0x21)).flagNs) ∧
    (let s := at_ (10 ^ 9) (withCmd (cmdOf 0x21))
     s.runs (cmdOf 0x21) 0x21 ∧ (cmdOf 0x21).since + s.flagNs ≤ s.pins.now) ∧
    ((withCmd (cmdOf 0x22)).runs (cmdOf 0x22) 0x22 ∧ (withCmd (cmdOf 0x22)).scopeDone (cmdOf 0x22) = true ∧ (cmdOf 0x22).placed = false) ∧
    (let c := { cmdOf (0x22 + 2 ^ (8 * 0x40 + 1)) with acc := 1 }
     let s := { on with cmds := [{ cmdOf 4 with id := ⟨2, 1⟩ }, c] }
     s.runs c 0x22 ∧ s.scopeDone c = false) ∧
    (let c := { cmdOf (0x23 + 5 * 2 ^ (8 * 0x48)) with waitPulses := none }
     let s := { trackCmd c with dat := { (trackCmd c).dat with pass := 6 } }
     s.runs c 0x23 ∧ s.dat.tracker ≠ .wait ∧ c.fld 0x48 0 64 < s.dat.pass.toNat) ∧
    (let c := { cmdOf 0x23 with waitPulses := some 0, placed := true }
     (trackCmd c).runs c 0x23 ∧ c.fld 0x40 12 2 = 0 ∧ c.atB ≤ (trackCmd c).bearing ∧ (trackCmd c).dat.tracker = .track ∧
       (trackCmd c).passIsNow c = true ∧ (trackCmd c).nextEvent (.atBearing c.id) = true) := by
  unfold State.runs
  decide +kernel

/-! ### Self-test -/

/-- A SELFTEST command with its FULL and PREEMPT bits. -/
def testCmd (full : Nat) : Cmd := cmdOf (0x30 + 2 ^ 16 + full * 2 ^ (8 * 0x40))

theorem wit_SelfTestCommands : on.sizesOk ∧
    ((withCmd (testCmd 0)).runs (testCmd 0) 0x30 ∧ (testCmd 0).placed = false ∧ (testCmd 0).fld 0x40 0 1 = 0) ∧
    (let s := withCmd (testCmd 1)
     15 ∈ s.batchesOn ∧ 15 ∉ (onWith { leg with channels := 1 }).batchesOn ∧ s.runs (testCmd 1) 0x30 ∧ (testCmd 1).placed = false ∧ (testCmd 1).fld 0x40 0 2 = 1 ∧ (List.range 4).all s.arrIdle = true ∧
       s.tst.fullRun = none ∧ s.tst.fullQ = [] ∧ (s.tst.batches.all fun b => !b.running) = true ∧
       (List.range 4).all { s with arrs := { Arr.init with op := some ⟨2, 7⟩ } :: List.replicate 3 Arr.init }.arrIdle = false) ∧
    (let s := withCmd (testCmd 3)
     s.runs (testCmd 3) 0x30 ∧ (testCmd 3).fld 0x40 0 2 = 3 ∧ (s.tiles.all fun t => t.sheets.all fun h => h.st == .free) = true) ∧
    (let s := at_ 2000000 { withCmd (testCmd 1) with tst := { on.tst with fullRun := some ((testCmd 1).id, 0) } }
     0 + 2000000 ≤ s.pins.now ∧ s.alive = true ∧ s.tst.fullRun = some ((testCmd 1).id, 0) ∧ s.cmd (testCmd 1).id = some (testCmd 1) ∧ (testCmd 1).phase = .begun ∧
       s.flt.out = false ∧ 5 ≤ (⟨0, 8⟩ : TestFail).cls) := by
  refine ⟨on_sizes, ?_⟩
  unfold State.runs
  decide +kernel

theorem wit_BatchTestsRun : on.sizesOk ∧ on.alive = true ∧ 15 ∈ on.batchesOn ∧ (on.batch 15).running = false ∧
    on.pins.now < (on.batch 15).last + on.legendOr (·.forceAt) 80 * 1000000 ∧
    (on.batch 15).last + on.legendOr (·.forceAt) 80 * 1000000 ≤ (at_ (2 * 10 ^ 8) on).pins.now ∧
    on.pins.now < on.tst.rotFrom + on.legendOr (·.rotation) 100 * 1000000 ∧
    on.tst.rotFrom + on.legendOr (·.rotation) 100 * 1000000 ≤ (at_ (10 ^ 8) on).pins.now ∧
    on.alm.life.getD 14 0 < 2 ^ 64 - 2 ∧
    (let s := at_ 1000005 (on.updBatch 15 fun b => { b with due := true })
     let s := { s with tst := { s.tst with forcedAt := some 5 } }
     15 ∈ s.batchesOn ∧ (s.tst.batches.all fun x => !x.running) = true ∧ s.tst.fullRun = none ∧ (s.batch 15).due = true ∧
       ∀ f ∈ s.tst.forcedAt, f + 1000000 ≤ s.pins.now) ∧
    (let s := { on with pins := { on.pins with now := 10 ^ 8 }, dat := { on.dat with window := some (10 ^ 8 + 24000) } }
     (s.tst.batches.all fun x => !x.running) = true ∧ s.tst.fullRun = none ∧ s.idleWindow 0 = true) ∧
    (let c := { testCmd 0 with placed := true, batches := [15] }
     let s := at_ 24000 ((withCmd c).updBatch 15 fun b => { b with running := true })
     (s.batch 15).running = true ∧ (at_ 23999 s).pins.now < s.tst.testAt + 24000 ∧ s.tst.testAt + 24000 ≤ s.pins.now ∧ s.runs c 0x30 ∧ (s.batch 15).due = false ∧ c.placed = true ∧ c.fld 0x40 0 1 = 0 ∧ c.batches = [15]) := by
  refine ⟨on_sizes, ?_⟩
  unfold State.runs
  decide +kernel

/-! ### Tiles -/

/-- The command under WS: its block is a row partial. -/
def mmWs : Cmd := { mm1 with raw := mm1.raw + 2 ^ (8 * 0x40), run := { mm1.run with dataflow := 1 } }

/-- The command under Fair. -/
def mmFair : Cmd := { mm1 with raw := mm1.raw + 2 ^ (8 * 0x41) }

/-- A sheet of block 0 in a state. -/
def sheetOf (st : SheetState) : Sheet := { Sheet.init with st := st, cmd := some mm1.id, accs := [Acc.zero] }

/-- An operand block of the command, first or second, as a tile takes it: its bytes as consumed. -/
def opBlk (second : Bool) (cells : List Host.Cell) : OpBlk := ⟨mm1.id, ⟨0, second, 0, 0, none, none, 0, 0⟩, 32, 32, 2048, cells⟩

/-- Tile 0 with both operand blocks of the next beat, the stationary one first. -/
def fed (s : State) (second : Bool) (cells : List Host.Cell) : State :=
  s.updTile 0 fun u => { u with aHalf := [opBlk second cells], bHalf := [opBlk (!second) []] }

/-- Tile 0 with partial block 0 in turn. -/
def partOn (c : Cmd) : State := (onArr c Sheet.init).updTile 0 fun u => { u with pjobs := [⟨c.id, 0, 0⟩] }

/-- What a beat of tile 0 gives: its product, the sums before it and after it, what stops it, and whether it is the last, from an anchor. -/
def beatOf (c : Cmd) (s : State) (anchor : Int) : Option (Prod × List Acc × List Acc × Option ArithErr × Bool) :=
  let w := s.work c
  let ud := (s.assign w 0).drainLinks w 0
  match ud.turn w 0, w.blk 0 with
  | some x, some (b, p) =>
    let bt := match x with | .sheet _ _ bt => bt | .part _ bt => bt
    let ks := w.keys b p 0 bt
    let u := (ud.countWork 0 0 (beatCycles p.a.t.fmt p.b.t.fmt p.fair) []).updTile 0 fun z => { (z.latched w x ks) with cells := w.cellsKey p x ks }
    let r := u.doBeat w b p (u.tile 0) 0 anchor (b.empty p) bt
    let n := match x with | .sheet _ _ _ => (u.beatsOf w.cmd p b).length | .part q _ => (u.refBeats w 0 q).length
    some (p, (b.empty p).accs, r.1.accs, r.2, decide (n ≤ 1))
  | _, _ => none

/-- Whether the lane finds a beat's sums wrong that an upset met, or none did. -/
def laneAt (x : Prod × List Acc × List Acc × Option ArithErr × Bool) (upset : Option Upset) : Bool :=
  let accs := upsetAt x.2.2.1 x.1.fair x.1.int upset
  (laneFinds accs (laneDue x.2.1 accs x.2.2.2.2)).isSome

/-- Tile 0 fills block 0, with a NaN in the first operand where one is wanted. -/
def filling (c : Cmd) (cells : List Host.Cell) : State := fed (onArr c (sheetOf .filling)) false cells

/-- A BF16 NaN where mm1's first operand lies. -/
def nan : List Host.Cell := [(65536, 0xC0), (65537, 0x7F)]

/-- The command under WS with 513 elements of the reduction: a tile takes two beats for its part of the block. -/
def mmWs2 : Cmd :=
  { mmWs with slots := [td 65536 2 513 1, td 131072 2 1 513, 0, td 66048 0 1 1, 0, 0, 0], run := { mmWs.run with ek := 513, ak := 513 } }

/-- The command under WS and Fair. -/
def mmWsFair : Cmd := { mmWs with raw := mmWs.raw + 2 ^ (8 * 0x41) }

theorem wit_TilesWork_anchor :
    let s := onArr mmFair (sheetOf .anchoring)
    s.tileRuns 0 mmFair ∧ s.sizesOk ∧
      let w := s.work mmFair
      let u := s.assign w 0
      ((List.range (u.tile 0).sheets.length).find? fun i => ((u.tile 0).sheets.getD i Sheet.init).st == .anchoring) = some 0 ∧
        (u.tile 0).sheets[0]? = some (sheetOf .anchoring) ∧ (w.blk 0).isSome = true := by
  unfold State.tileRuns State.sizesOk
  decide +kernel

/-- A beat of a sheet: added, found wrong by the lane, or stopped by an operand that is not finite. -/
theorem wit_TilesWork_sheet :
    ([(mm1, []), (mmFair, nan)].all fun x =>
      let s := filling x.1 x.2
      let w := s.work x.1
      let u := s.assign w 0
      let ud := u.drainLinks w 0
      ud.turn w 0 == some (.sheet 0 0 ⟨(0, 0), (0, none, none), 0⟩) && (u.arrs.getD w.arr Arr.init).fed && !(u.needs w 0).isEmpty && ud.stallCause w 0 == none &&
        (u.tile 0).sheets[0]? == some (sheetOf .filling) && (w.blk 0).isSome) = true ∧
    (filling mm1 []).tileRuns 0 mm1 ∧ (filling mmFair nan).tileRuns 0 mmFair ∧ mm1.cause = none ∧ mmFair.cause = none ∧
    ((beatOf mm1 (filling mm1 []) 0).any fun x => x.2.2.2 == (none, true) && !laneAt x none && laneAt x (some ⟨0, false, 1⟩) &&
      laneAt x (some ⟨0, true, -1⟩)) = true ∧
    ((beatOf mmFair (filling mmFair nan) 0).bind fun x => x.2.2.2.1) = some (.nonfinite 0 0 0) := by
  unfold State.tileRuns
  decide +kernel

/-- A beat of a partial block: its last one, one that is not, and one that an operand which is not finite stops. -/
theorem wit_TilesWork_part :
    ([(mmWs, []), (mmWs2, []), (mmWsFair, nan)].all fun x =>
      let s := (partOn x.1).updTile 0 fun u => { u with aHalf := [opBlk true []], bHalf := [opBlk false x.2] }
      let w := s.work x.1
      let u := s.assign w 0
      let ud := u.drainLinks w 0
      ud.turn w 0 == some (.part ⟨x.1.id, 0, 0⟩ ⟨(0, 0), (0, none, none), 0⟩) && (u.arrs.getD w.arr Arr.init).fed && !(u.needs w 0).isEmpty && ud.stallCause w 0 == none &&
        (w.blk 0).isSome && s.alive && s.tileOn 0 && s.opOfTile 0 == some x.1.id && x.1.cause.isNone &&
        (u.refBeats w 0 ⟨x.1.id, 0, 0⟩).length == (if x.1 = mmWs2 then 2 else 1) &&
        (beatOf x.1 s 0).map (fun y => (y.2.2.2.1.isSome, y.2.2.2.2, laneAt y (some ⟨0, false, 1⟩))) ==
          some (x.2 == nan, x.1 != mmWs2, x.1 != mmWs2)) = true := by
  decide +kernel

/-- A tile with nothing to do, and one whose operands have not come. -/
theorem wit_TilesWork_wait :
    (let s := onArr mm1 Sheet.init
     s.tileRuns 1 mm1 ∧ ((s.assign (s.work mm1) 1).needs (s.work mm1) 1).isEmpty = true ∧
       (s.assign (s.work mm1) 1).tileWork (s.work mm1).arr 1 = false) ∧
    (let s := onArr mm1 (sheetOf .filling)
     let u := s.assign (s.work mm1) 0
     s.tileRuns 0 mm1 ∧ (u.arrs.getD 0 Arr.init).fed = true ∧ (u.needs (s.work mm1) 0).isEmpty = false ∧
       (u.drainLinks (s.work mm1) 0).stallCause (s.work mm1) 0 = some .feederEmpty) := by
  unfold State.tileRuns
  decide +kernel

/-- A tile of the operation's rectangle whose operation is not placed yet. -/
theorem wit_TilesWork_unfed :
    let s := { onArr mm1 (sheetOf .filling) with arrs := { Arr.init with op := some mm1.id } :: List.replicate 3 Arr.init }
    let u := s.assign (s.work mm1) 0
    s.tileRuns 0 mm1 ∧ (u.arrs.getD 0 Arr.init).fed = false ∧ u.tileWork (s.work mm1).arr 0 = true := by
  unfold State.tileRuns
  decide +kernel

/-- A flit of mm1's first operand. -/
def flit0 : Flit := ⟨mm1.id, ⟨0, false, 0, 0, none, none, 0, 0⟩, 32, 2048, [(65536, 0x80)], [], true⟩

/-- A link that is full, a flit that the neighbour has room to take, with good and bad parity, and one it has no room for. -/
theorem wit_TilesWork_flits :
    (let s := (onArr mm1 Sheet.init).updTile 1 fun u => { u with rowIn := List.replicate 8 flit0 }
     s.tileRuns 1 mm1 ∧ 8 ≤ ((State.drainLink (s.work mm1) 1 .row 8 (s.assign (s.work mm1) 1)).tile 1 |>.flits .row).length) ∧
    ([Sheet.init, sheetOf .filling].all fun sh =>
      let full : OpBlk := { opBlk false [] with key := ⟨0, false, 0, 1, none, none, 0, 0⟩, size := 32768 }
      let s := (onArr mm1 sh).updTile 0 fun u => { u with rowIn := [flit0], aHalf := [full] }
      let w := s.work mm1
      let u := State.drainLink w 1 .row 8 (s.assign w 1)
      u.linkFrom w 1 .row == some 0 && ((u.tile 1).flits .row).isEmpty && (u.tile 0).flits .row == [flit0] &&
        u.canTake w 0 .row == (sh == Sheet.init)) = true ∧
    flit0.badParity (flit0.flip []) [] = false ∧ flit0.badParity (flit0.flip [0]) [0] = true ∧
    flit0.badParity (flit0.flip [8, 9]) [8, 9] = false ∧ mm1.cause = none := by
  unfold State.tileRuns
  decide +kernel

/-- The feeder of channel 0 has the block for the row of tile 0. -/
theorem wit_TilesWork_feeder :
    let th : Thread := { Thread.init with
      st := .waitSpace, cmd := some mm1.id, stream := .row 0 0, blks := [(⟨0, false, 0, 0, none, none, 0, 0⟩, [256])]
      buf := [(256, List.replicate 256 0)] }
    let s := { onArr mm1 (sheetOf .filling) with feed := { on.feed with threads := updAt on.feed.threads 0 fun l => updAt l 5 fun _ => th } }
    let w := s.work mm1
    let u := State.drainLink w 0 .row 8 (s.assign w 0)
    s.tileRuns 0 mm1 ∧ ((u.tile 0).flits .row).length < 8 ∧ u.linkFrom w 0 .row = none ∧ u.feederOf w 0 .row = some (0, 5) ∧
      (u.thread 0 5).blks = [(⟨0, false, 0, 0, none, none, 0, 0⟩, [256])] ∧ (u.thread 0 5).headDone = true ∧
      (let f := w.flitOf ⟨0, false, 0, 0, none, none, 0, 0⟩ ((u.thread 0 5).buf.take 1) 0
       f.badParity (f.flip []) [] = false ∧ f.badParity (f.flip [0]) [0] = true) ∧ mm1.cause = none := by
  unfold State.tileRuns
  decide +kernel

/-- The partial link's parity, inside the array and at its west edge; and an array whose next operation waits for a pulse. -/
theorem wit_TilesWork_link :
    (let s := onArr mm1 Sheet.init
     s.tileRuns 1 mm1 ∧ ((s.assign (s.work mm1) 1).linkFrom (s.work mm1) 1 .row).isSome = true ∧
       (s.assign (s.work mm1) 0).linkFrom (s.work mm1) 0 .row = none ∧ [0].length % 2 = 1 ∧ [0, 1].length % 2 = 0) ∧
    (let s := (withCmd { mm1 with phase := .issued }).updRt 1 fun r => { r with waitPulse := true }
     s.alive = true ∧ s.tileOn 0 = true ∧ s.opOfTile 0 = none ∧ (s.arrs.getD (s.arrOfTile 0) Arr.init).paused = false ∧
       s.nextHeld (s.arrOfTile 0) = some 2) := by
  unfold State.tileRuns
  decide +kernel

/-- A GP_WEIGHT of one element into region 0 of context 1. -/
def gpw : Cmd := { mm1 with raw := 3 + 2 ^ 16, slots := [td 65536 2 1 1, 0, td 65792 2 1 1, 0, td 131072 0 1 1, 0, 0] }

/-- A tile with nothing full, one with a full sheet, and one whose block goes to a region. -/
theorem wit_BlocksDrain_accept :
    ((onArr mm1 Sheet.init).tileRuns 0 mm1 ∧ (((onArr mm1 Sheet.init).assign ((onArr mm1 Sheet.init).work mm1) 0).tile 0).fullSheet = none) ∧
    (let s := onArr mm1 (sheetOf .full)
     s.tileRuns 0 mm1 ∧ s.sizesOk ∧ s.tablesOk = true ∧ (s.work mm1).split 0 = false ∧
       let u := s.assign (s.work mm1) 0
       (u.tile 0).fullSheet = some 0 ∧ (u.tile 0).sheets[0]? = some (sheetOf .full)) ∧
    (let s := regionArr gpw (sheetOf .full)
     let w := s.work gpw
     s.tileRuns 0 gpw ∧ ((s.assign w 0).tile 0).fullSheet = some 0 ∧
       (match w.blk 0 with
        | some (b, p) => (match p.dst with | .region _ k => k == 0 && !(b.outs p).isEmpty | _ => false)
        | none => false) = true) := by
  unfold State.tileRuns State.sizesOk
  decide +kernel

/-- A sheet whose drain may end, and one that an earlier drain into the same element keeps waiting. -/
theorem wit_BlocksDrain_done :
    (let s := onArr mm1 (sheetOf .draining)
     let w := s.work mm1
     let u := s.assign w 0
     s.tileRuns 0 mm1 ∧ sortBy (fun (a b : Sheet) => decide (a.order ≤ b.order))
         ((u.tile 0).sheets.filter fun h => h.st == .draining && h.cmd == some mm1.id && !(u.heldOf mm1.id).any fun k => k.blk == h.blk) =
           [sheetOf .draining] ∧
       (u.arrs.getD w.arr Arr.init).joins = [] ∧ w.split 0 = false ∧
       (w.blk 0).isSome = true ∧
       u.drainsFirst mm1.ctx (fun y => decide ((sheetOf .draining).order ≤ y.order)) (u.blkAddrs w 0) = false) ∧
    (let c2 := { gpw with id := ⟨2, 7⟩ }
     let late := { sheetOf .draining with order := 2 }
     let s0 := regionArr gpw late
     let s := { s0 with
       cmds := [gpw, c2], arrs := updAt s0.arrs 1 fun a => { a with op := some c2.id }
       tiles := updAt s0.tiles 200 fun u => { u with sheets := [{ late with cmd := some c2.id, order := 1 }, Sheet.init] } }
     let w := s.work gpw
     let u := s.assign w 0
     s.tileRuns 0 gpw ∧ sortBy (fun (a b : Sheet) => decide (a.order ≤ b.order))
         ((u.tile 0).sheets.filter fun h => h.st == .draining && h.cmd == some gpw.id && !(u.heldOf gpw.id).any fun k => k.blk == h.blk) = [late] ∧
       (u.arrs.getD w.arr Arr.init).joins = [] ∧ w.split 0 = false ∧
       (w.blk 0).isSome = true ∧ u.drainsFirst gpw.ctx (fun y => decide (late.order ≤ y.order)) (u.blkAddrs w 0) = true) := by
  unfold State.tileRuns
  decide +kernel

/-- A GP_WEIGHT of one element into region 0 whose X is sparse, 96 blocks in three strips, under the tail-steal. -/
def gpwSplit : Cmd :=
  { mm1 with
    raw := 3 + 2 ^ 16
    slots := [65536 + 2 * 2 ^ 52 + 2 ^ 119 + 300032 * 2 ^ 128 + 2 ^ 192 * (1 + 3072 * 2 ^ 32 + 32 * 2 ^ 64), 0, td 65792 2 1 3072, 0, td 131072 0 1 1, 0, 0]
    run := { mm1.run with em := 3072, am := 3072, mode := 4 } }

/-- The same on array 0, its one output split into three parts on tiles 0 to 2: the parts that the steal buffer holds, what is to be
joined, the part in tile 0's draining sheet, and whether another command drains into the element before. -/
def stealing (held : List Nat) (joins : List (Nat × Nat)) (sheet : Option Nat) (late : Bool) : State :=
  let s := regionArr gpwSplit Sheet.init
  let drains := fun (c : CmdId) (n o : Nat) (u : Tile) =>
    { u with sheets := [{ sheetOf .draining with cmd := some c, blk := n, order := o }, Sheet.init] }
  let s := { s with
    lgd := { s.lgd with inForce := some { leg with scratchWays := 4, steal := 4 } }
    mem := s.mem ++ [(300036, 0x20), (300052, 0x20), (300068, 0x20)]
    arrs := updAt s.arrs 0 fun a => { a with held := held.map fun n => ⟨n, 0, 0, [Acc.zero], 3, []⟩, joins := joins } }
  let s := match sheet with | some n => s.updTile 0 (drains gpwSplit.id n 3) | none => s
  let c2 := { gpw with id := ⟨2, 7⟩ }
  if late then
    { s.updTile 200 (drains c2.id 0 1) with cmds := [gpwSplit, c2], arrs := updAt s.arrs 1 fun a => { a with op := some c2.id } }
  else s

/-- A part that is not the last; the last one, with nothing before the joined value, or an earlier drain. -/
theorem wit_BlocksDrain_split :
    ([([], false), ([1, 2], false), ([1, 2], true)].all fun x =>
      let s := stealing x.1 [] (some 0) x.2
      let w := s.work gpwSplit
      let u := s.assign w 0
      match sortBy (fun (a b : Sheet) => decide (a.order ≤ b.order)) ((u.tile 0).sheets.filter fun h =>
          h.st == .draining && h.cmd == some gpwSplit.id && !(u.heldOf gpwSplit.id).any fun k => k.blk == h.blk) with
      | [sh] =>
        let held := u.heldOf gpwSplit.id ++ [⟨sh.blk, 0, sh.anchor, sh.accs, sh.cnt, sh.scales⟩]
        let n := (u.setHeld gpwSplit.id held).nextOrder
        let u2 := u.storePart w sh
        s.alive && s.tileOn 0 && s.opOfTile 0 == some gpwSplit.id && s.tablesOk && (u.arrs.getD w.arr Arr.init).joins.isEmpty && w.split sh.blk &&
          (w.blk sh.blk).isSome && gpwSplit.drained.isEmpty && decide (w.arr < 4) &&
          ((w.unit (w.bs.getD sh.blk default)).all fun i => held.any fun h => h.blk == i) == (x.1 == [1, 2]) &&
          (u2.drainsFirst gpwSplit.ctx (fun y => decide (n ≤ y.order)) (u2.blkAddrs w sh.blk)) == x.2
      | _ => false) = true := by
  decide +kernel

/-- A split sheet whose parts have all come, which an earlier drain keeps waiting, or none does; and a full sheet that is a part. -/
theorem wit_BlocksDrain_joined :
    ([false, true].all fun late =>
      let s := stealing [0, 1, 2] [(0, 5)] none late
      let w := s.work gpwSplit
      let u := s.assign w 0
      s.alive && s.tileOn 0 && s.opOfTile 0 == some gpwSplit.id && (u.arrs.getD w.arr Arr.init).joins == [(0, 5)] &&
        ((u.heldOf gpwSplit.id).find? fun h => h.blk == 0).isSome && (w.blk 0).isSome && ((u.tile 0).sheets.all fun h => h.st != .draining) &&
        (u.drainsFirst gpwSplit.ctx (fun y => decide (5 ≤ y.order)) (u.blkAddrs w 0)) == late) = true ∧
    (let s := (stealing [] [] none false).updTile 0 fun u => { u with sheets := [{ sheetOf .full with cmd := some gpwSplit.id }, Sheet.init] }
     let w := s.work gpwSplit
     (((s.assign w 0).tile 0).fullSheet = some 0 ∧ w.split 0 = true)) := by
  decide +kernel

/-- A contribution of a tile to row partial 0, and the flit of it that is alone on a link. -/
def part0 (c : Cmd) (slab : Nat) : Partial := ⟨⟨c.id, 0, slab⟩, 0, [Acc.zero], 0, []⟩
def flitP (c : Cmd) (slab : Nat) : PFlit := ⟨⟨c.id, 0, slab⟩, 0, 0, [Acc.zero], 0, [], false⟩

/-- The command under WS with a longer reduction than one slab holds. -/
def mmWsK : Cmd :=
  { mmWs with slots := [td 65536 2 32768 1, td 131072 2 1 32768, 0, td 66048 0 1 1, 0, 0, 0], run := { mmWs.run with ek := 32768, ak := 32768 } }

/-- The command under WS with 17 rows of two columns: a row partial takes two flits. -/
def mmWs34 : Cmd :=
  { mmWs with slots := [td 65536 2 1 17, td 131072 2 2 1, 0, td 66048 0 2 17, 0, 0, 0], run := { mmWs.run with em := 17, am := 17, en := 2, an := 2 } }

/-- The command into a raw long accumulator. -/
def mmRaw : Cmd := { mmFair with raw := mmFair.raw + 2 ^ (8 * 0x41 + 1) }

/-- A row partial at the west edge, with room in the next link or none; one that reaches the east edge in the last reduction slab, and
one that goes to the partial slab. -/
theorem wit_BlocksDrain_part :
    ([0, 8].all fun n =>
      let s := ((onArr mmWs Sheet.init).updTile 0 fun u => { u with ready := [part0 mmWs 0] }).updTile 1 fun u =>
        { u with partIn := List.replicate n (flitP mmWs 0) }
      let w := s.work mmWs
      let u := s.assign w 0
      s.alive && s.tileOn 0 && s.opOfTile 0 == some mmWs.id &&
      match u.frontPart w 0, w.blk 0 with
      | some own, some (b, p) => own == part0 mmWs 0 && u.colOf w.arr p b.tile 0 == some 0 && (u.arriving w 0 0 own b p).isSome &&
          decide (1 < p.rw) && u.partTile w b p 1 == 1 && (u.tile 1).partIn.length == n
      | _, _ => false) = true ∧
    ([mmWs, mmWsK].all fun c =>
      let t := on.tileAt 0 0 15
      let s := (onArr c Sheet.init).updTile t fun u => { u with ready := [part0 c 0], partIn := [flitP c 0] }
      let w := s.work c
      let u := s.assign w t
      s.alive && s.tileOn t && s.opOfTile t == some c.id &&
      match u.frontPart w t, w.blk 0 with
      | some own, some (b, p) => u.colOf w.arr p b.tile t == some 15 && (u.arriving w t 15 own b p).isSome && decide (p.rw ≤ 16) &&
          (own.ref.slab + 1 == p.redSlabs) == (c == mmWs) && decide (w.arr < 4)
      | _, _ => false) = true := by
  decide +kernel

/-- A flit of a row partial that the next tile's link has room for, by its parity; one that leaves the east edge as the first of two, and
as the last. -/
theorem wit_BlocksDrain_flits :
    (let s := (onArr mmWs Sheet.init).updTile 0 fun u => { u with ready := [part0 mmWs 0] }
     let w := s.work mmWs
     let u := s.assign w 1
     s.tileRuns 1 mmWs ∧ u.linkFrom w 1 .row = some 0 ∧ (u.passFlit w 0 []).isSome = true ∧ mmWs.cause = none ∧
       (match w.blk 0, (w.blk 0).bind fun x => u.arriving w 0 0 (part0 mmWs 0) x.1 x.2 with
        | some (b, p), some z =>
          let sum := z.add (part0 mmWs 0) w b p
          decide (0 + 1 < p.rw) && u.partTile w b p 1 == 1 && (u.tile 1).partIn.isEmpty && !sum.badParity (sum.flip p []) p [] &&
            sum.badParity (sum.flip p [0]) p [0]
        | _, _ => false) = true) ∧
    ([0, 1].all fun i =>
      let t := on.tileAt 0 0 15
      let f : PFlit := ⟨⟨mmWs34.id, 0, 0⟩, i, 0, List.replicate (if i = 0 then 32 else 2) Acc.zero, 0, [], false⟩
      let own : Partial := { part0 mmWs34 0 with accs := List.replicate 34 Acc.zero }
      let s0 := (onArr mmWs34 Sheet.init).updTile t fun u => { u with ready := [own], partIn := [f], sent := i }
      let s := { s0 with arrs := updAt s0.arrs 0 fun a => { a with edge := if i = 0 then [] else [{ f with idx := 0 }] } }
      let w := s.work mmWs34
      let u := s.assign w t
      match u.frontPart w t, w.blk 0 with
      | some o, some (b, p) => o == own && u.colOf w.arr p b.tile t == some 15 && (u.arriving w t 15 own b p).isSome && b.flits p == 2 &&
          decide (p.rw ≤ 16) && (((u.arrs.getD w.arr Arr.init).edge.filter fun x => x.ref == own.ref).length + 1 == i + 1)
      | _, _ => false) = true := by
  unfold State.tileRuns
  decide +kernel

/-- Commands whose outputs drain to a plain destination, a raw long one, a region and the merge slab. -/
theorem wit_BlocksDrain_outs :
    ([(mm1, 0), (mmRaw, 1), (gpw, 2)].all fun x =>
      ((regionArr x.1 Sheet.init).cmdProds x.1).head?.any fun p => match p.dst with
        | .plain _ => x.2 == 0 | .raw _ => x.2 == 1 | .region _ _ => x.2 == 2 | .slab => false) = true := by
  decide +kernel

/-! ### Feeding -/

/-- A thread of a command's sequence. -/
def thr (st : TState) (todo : List Nat) (outst : List (Nat × Bool)) : Thread :=
  { Thread.init with st := st, cmd := some mm1.id, todo := todo.map fun l => ⟨l, 512⟩, outst := outst, slot := 0 }

/-- The engine with a command and channel 3's thread 31 as given. -/
def withThread (x : Thread) : State :=
  { withCmd mm1 with feed := { on.feed with threads := updAt on.feed.threads 3 fun l => updAt l 31 fun _ => x } }

/-- A resident line. -/
def aline0 : ALine := ⟨[], 0, none, false⟩

theorem wit_FeedersFetch_request :
    (let s := withThread (thr .ready [300, 301] [])
     let s1 := State.giveThreads 3 32 (s.countSpurWait 3)
     s.alive = true ∧ s.chOn 3 = true ∧ 3 < s.feed.cch.length ∧ 3 < s.feed.spur.length ∧ s1.activeThread 3 = some 31 ∧
       (s1.thread 3 31).todo = ⟨300, 512⟩ :: [⟨301, 512⟩] ∧ s1.canIssue 3 (s1.thread 3 31) = true ∧ s1.cached 3 300 = false ∧
       (s.thread 3 31).st ≠ .free ∧ on.activeThread 3 = none) ∧
    (let s0 := withThread { thr .ready [300] [] with stream := .spur 0 }
     let s := { s0 with feed := { s0.feed with cch := updAt s0.feed.cch 3 fun _ => [300] } }
     let s1 := State.giveThreads 3 32 (s.countSpurWait 3)
     s1.activeThread 3 = some 31 ∧ (s1.thread 3 31).todo = [⟨300, 512⟩] ∧ s1.canIssue 3 (s1.thread 3 31) = true ∧ s1.cached 3 300 = true ∧
       s1.thread 3 31 = { Thread.init with
         st := (s1.thread 3 31).st, cmd := some mm1.id, stream := .spur 0, slab := (s1.thread 3 31).slab, todo := [⟨300, 512⟩]
         ahead := (s1.thread 3 31).ahead, active := (s1.thread 3 31).active, slot := (s1.thread 3 31).slot }) := by
  decide +kernel

/-- A thread that wants nothing; a resident line, filtered or not; a line that is not resident, to send or to join. -/
theorem wit_FeedersFetch_arrive :
    (withThread (thr .ready [300] [])).wanted 3 31 = none ∧
    (let s0 := withThread (thr .waitAtlas [] [(300, false)])
     let s := { s0 with feed := { s0.feed with atlas := [(300, some aline0)] } }
     let hid := { s with feed := { s.feed with inv := some ⟨76800, 64⟩ :: List.replicate 15 none } }
     let joins := { s0 with feed := { s0.feed with fills := [⟨300, 2, .ahead, 1, [], [], false⟩] } }
     s.wanted 3 31 = some 300 ∧ (s.aline 300).isSome = true ∧ s.filtered 300 = false ∧
       hid.wanted 3 31 = some 300 ∧ (hid.aline 300).isSome = true ∧ hid.filtered 300 = true ∧
       (s.thread 3 31).cmd = some mm1.id ∧ s.cmd mm1.id = some mm1 ∧ mm1.phase = .begun ∧ mm1.cause = none ∧ Tab.wf none s.feed.atlas = true ∧
       s0.wanted 3 31 = some 300 ∧ s0.aline 300 = none ∧ s0.filling 300 = false ∧ s0.canFill 300 false = true ∧
       joins.wanted 3 31 = some 300 ∧ joins.aline 300 = none ∧ joins.filling 300 = true) := by
  decide +kernel

/-- A line that is not resident while its port has all the reads it may have (R392). -/
theorem wit_FeedersFetch_full :
    let s0 := withThread (thr .waitAtlas [] [(300, false)])
    let s := { s0 with feed := { s0.feed with fills := List.replicate 1024 ⟨301, s0.portOf 300, .ahead, 1, [], [], false⟩ } }
    s.wanted 3 31 = some 300 ∧ s.aline 300 = none ∧ s.filling 300 = false ∧ s.canFill 300 false = false := by
  decide +kernel

/-- An operation under AUTO on the array whose threads are in a convoy. -/
theorem wit_FeedersFetch_convoy :
    let c := { mm1 with run := { mm1.run with mode := 8 } }
    let s0 := onArr c Sheet.init
    let s := { s0 with feed := { s0.feed with threads := updAt s0.feed.threads 3 fun _ => List.replicate 32 (thr .waitAtlas [] [(300, false)]) } }
    s.alive = true ∧ s.chOn 3 = true ∧ (s.waitBank 3).isSome = true ∧ s.feed.convoy.getD 3 none = none ∧ s.opOfCh 3 = some c ∧ c.switch 3 = true ∧
      c.phase = .begun ∧ s.arrOfCh 3 < s.arrs.length := by
  decide +kernel

/-- Run-ahead, prefetching and a convoy. -/
theorem wit_FeedersFetch_ahead :
    (withThread (thr .ready [300, 301] [])).thread 3 31 ≠ Thread.init ∧ ((withThread (thr .ready [300, 301] [])).thread 3 31).st ≠ .free ∧
    (let c := { mm1 with phase := .issued, run := RunInfo.none }
     let s := withCmd c
     s.prefetchFor 0 = some c ∧ s.arrOn 0 = true ∧ s.prefetchLines c ≠ []) ∧
    (let l := List.replicate 32 (thr .waitAtlas [] [(300, false)])
     let s := { on with feed := { on.feed with threads := updAt on.feed.threads 3 fun _ => l } }
     s.chOn 3 = true ∧ s.waitBank 3 = some (s.build.size.bank 300) ∧ s.feed.convoy.getD 3 none = none ∧ 3 < s.feed.convoy.length) := by
  decide +kernel

/-- A received frame whose responses have returned. -/
def rx0 : TrvRx := ⟨3, 1, 5, false, 1, 2, 2, 0, 0, 262144, 512, false, 256, []⟩

theorem wit_ResponsesArrive : on.tablesOk = true ∧ on.pins.poreset = false ∧
    (let f : Fill := ⟨300, 2, .demand, 1, [(3, 31)], [3], false⟩
     let s0 := withThread (thr .waitMemory [] [(300, false)])
     let s := { s0 with feed := { s0.feed with fills := [f] } }
     s.tablesOk = true ∧ s.stopped = false ∧ s.feed.fills.find? (fun f => f.line == 300 && f.port == 2) = some f ∧ s.feed.look = [] ∧
       f.kind = .demand ∧ f.waiters = [(3, 31)] ∧ f.stale = false ∧ s.filtered 300 = false ∧ 3 < s.feed.cch.length ∧
       Resp.slverr.bad = true ∧ (s.thread 3 31).cmd = some mm1.id ∧ s.cmd mm1.id = some mm1 ∧ mm1.phase = .begun ∧ mm1.cause = none) ∧
    (let f : Fill := ⟨300, 2, .ahead, 1, [], [], false⟩
     let s := { on with feed := { on.feed with fills := [f] } }
     s.feed.fills.find? (fun f => f.line == 300 && f.port == 2) = some f ∧ s.feed.look = [] ∧ f.kind ≠ .demand ∧
       s.flt.specError.value < 4294967295) ∧
    (let c := { mm1 with owed := [258, 258] }
     let e : MemWr := ⟨.cmd c.id, 258, 66048, 66052, true⟩
     let s := { withCmd c with memq := [{ e with line := 259, sent := false }, e, e] }
     s.tablesOk = true ∧ s.stopped = false ∧ s.memq.find? (fun e => e.line == 258 && e.sent) = some e ∧ e.owner = .cmd c.id ∧
       s.cmd c.id = some c ∧ c.phase = .begun ∧ c.cause = none ∧ s.writeSent 259 = false ∧ s.portOf 258 ≠ 15) ∧
    (let e : MemWr := ⟨.frame 3, 1024, 262144, 262400, true⟩
     let s := { on with memq := [e], trv := { on.trv with rx1 := [{ rx0 with owed := [1024] }] } }
     s.memq.find? (fun e => e.line == 1024 && e.sent) = some e ∧ e.owner = .frame 3 ∧ 1 = (if (s.trv.rx0.any fun x => x.id == 3) = true then 0 else 1)) := by
  decide +kernel

/-- A checkpoint in flight, from a snapshot at time 5, and its slot write. -/
def ckpting : State × FpReq :=
  let q : FpReq := ⟨.checkpoint, false, 65536, [3, 5], 2⟩
  ({ on with fp := [q], fpOut := [.checkpoint], alm := { on.alm with ckpt := some (5, true) } }, q)

/-- A fetched Legend of n bytes, a multiple of 256, its first piece read. -/
def fetching (n : Nat) : State × FpReq :=
  let q : FpReq := ⟨.legend, false, 8192, [], 4096⟩
  ({ on with
      fp := [q], fpOut := [.legend], lgd := { on.lgd with load := .loading, viaCfg := false, bytes := [], fetchAddr := 8192 }
      mem := [(8201, BitVec.ofNat 8 (n / 256))] }, q)

theorem wit_ResponsesArrive_pieces :
    (let (s, q) := ckpting
     s.tablesOk = true ∧ s.pins.poreset = false ∧ s.fpOut.contains .checkpoint = true ∧ s.fp.find? (fun q => q.use == .checkpoint) = some q ∧
       s.flt.safe = false ∧ s.alm.ckpt = some (5, true) ∧ s.alm.life.length = 64 ∧ s.alm.life.getD 26 0 < 2 ^ 64 - 2 ∧ s.engineEvq = on.engineEvq ∧
       s.alm.life.getD 27 0 < 2 ^ 64 - 2 ∧ Resp.slverr.bad = true) ∧ ckpting.1.takes ckpting.1.engineEvq ∧
    ([512, 8192].all fun k =>
      let (s, q) := fetching k
      let part := s.lgd.bytes ++ s.memBytes (s.lgd.fetchAddr + s.lgd.bytes.length) 4096
      let n := if lengthOk (legendLength part) = true then legendLength part else 64
      s.tablesOk && !s.pins.poreset && s.fpOut.contains .legend && s.fp.find? (fun q => q.use == .legend) == some q && q.data.isEmpty && !s.stopped &&
        s.lgd.load == .loading && !s.lgd.viaCfg && decide (n ≤ part.length) == (k == 512) && decide (s.lgd.fetchAddr + part.length < 2 ^ 52)) = true := by
  refine ⟨by decide +kernel, ?_, by decide +kernel⟩
  unfold State.takes
  decide +kernel

/-- A transfer that has been sent, and one that has not. -/
def sent (s : State) (q : FpReq) : State := { s with fp := [q], fpOut := [q.use] }

theorem wit_ResponsesArrive_footpath :
    (let q : FpReq := ⟨.record 0 1, false, 4096, List.replicate 32 7, 32⟩
     let s := sent on q
     s.tablesOk = true ∧ s.fpOut.contains q.use = true ∧ s.fp.find? (fun x => x.use == q.use) = some q ∧ q.use ≠ .checkpoint ∧
       (∀ k, q.use ≠ .slot k) ∧ (∀ k a, q.use ≠ .table k a) ∧ q.data ≠ [] ∧ on.fpOut.contains q.use = false ∧ Resp.decerr.bad = true) ∧
    (let c := cmdOf (0x21 + 2 ^ 16)
     let q : FpReq := ⟨.flagRead c.id, false, 4096, [], 8⟩
     let s := sent (withCmd c) q
     s.fpOut.contains q.use = true ∧ s.fp.find? (fun x => x.use == q.use) = some q ∧ q.data = [] ∧ s.runs c 0x21 ∧
       c.flagMet (s.memLE q.addr 8) = true ∧ (∀ k, q.use ≠ .slot k) ∧ (∀ k a, q.use ≠ .table k a)) ∧
    (let q : FpReq := ⟨.look 1 8192, false, 8192, [], 16⟩
     let s0 := sent on q
     let s := { s0 with mem := [(8201, 1)], feed := { on.feed with look := [⟨1, none, [(8192, 1)], [], [], 2⟩] } }
     s.tablesOk = true ∧ s.fpOut.contains q.use = true ∧ s.fp.find? (fun x => x.use == q.use) = some q ∧ q.data = [] ∧ s.stopped = false ∧
       s.demandWaits = false ∧ s.lookEntry 1 (s.memLE 8192 16) = some [0] ∧ (∀ k, q.use ≠ .slot k) ∧ (∀ k a, q.use ≠ .table k a)) := by
  unfold State.runs
  refine ⟨⟨by decide +kernel, by decide +kernel, by decide +kernel, by decide, by simp, by simp, by decide, by decide +kernel, by decide⟩,
    ⟨by decide +kernel, by decide +kernel, rfl, by decide +kernel, by decide +kernel, by simp, by simp⟩,
    by decide +kernel, by decide +kernel, by decide +kernel, rfl, by decide +kernel, by decide +kernel, by decide +kernel, by simp, by simp⟩

/-- The slot at HEAD of queue 2, and a descriptor of a COPY that waits to issue, have been read. -/
theorem wit_ResponsesArrive_tables :
    (let q : FpReq := ⟨.slot 2, false, 8192, [], 128⟩
     let s := sent (on.updCmq 2 fun e => { e with pub := 1, nums := [0] }) q
     s.tablesOk = true ∧ s.pins.poreset = false ∧ s.fpOut.contains q.use = true ∧ s.fp.find? (fun x => x.use == q.use) = some q ∧
       s.alive = true ∧ (s.cmq 2).state = .active ∧ (s.cmq 2).head ≠ (s.cmq 2).pub ∧ q.addr = (s.cmq 2).slotAddr) ∧
    (let c := { fence .accepted with raw := copyRaw }
     let q : FpReq := ⟨.table c.id 12288, false, 12288, [], 64⟩
     let s := sent (withCmd c) q
     s.tablesOk = true ∧ s.fpOut.contains q.use = true ∧ s.fp.find? (fun x => x.use == q.use) = some q ∧ s.alive = true ∧ s.cmd c.id = some c ∧
       (s.issueTables c).find? (fun p => p.1 == 12288) = some (12288, 64)) := by
  decide +kernel

theorem wit_InvalidationsDropLines : on.tablesOk = true ∧
    (let s := { on with feed := { on.feed with inv := some ⟨0, 64⟩ :: List.replicate 15 none } }
     s.tablesOk = true ∧ s.feed.inv.findIdx? (·.isNone) = some 1 ∧ s.lgd.standalone = false ∧ s.flt.safe = false ∧
       s.meetsMap 4096 (64 * 2 ^ (15#4).toNat) = true ∧ s.feed.inv.getD 0 none = some ⟨0, 64⟩ ∧ s.feed.inv.getD 1 none = none ∧ s.feed.look = []) ∧
    (let s := { on with feed := { on.feed with inv := List.replicate 16 (some ⟨0, 64⟩) } }
     s.tablesOk = true ∧ s.feed.inv.findIdx? (·.isNone) = none ∧ s.meetsMap 0 64 = true ∧ s.feed.inv.getD 15 none = some ⟨0, 64⟩) ∧
    on.meetsMap (2 ^ 40) 64 = false ∧ on.meetsMap (2 ^ 40 - 64) 128 = true ∧ (⟨[7], false⟩ : AgentWrite).handed ≠ true := by
  decide +kernel

/-! ### The Traverse and the Mosaic -/

/-- A frame of two BF16 elements: kind, context, tag 5, rows 1, columns 2 (R157). -/
def pushFrame (kind ctx : Nat) : List Byte :=
  [BitVec.ofNat 8 kind, 0, BitVec.ofNat 8 ctx, 0, 5, 0, 0, 0, 0x22, 0, 0, 0, 1, 0, 0, 0, 2, 0, 0, 0] ++ List.replicate 236 0

theorem wit_TraverseFramesEnterTheStack : on.tablesOk = true ∧ on.alive = true ∧
    (let h := TrvHead.of (pushFrame 1 1)
     1 < on.build.size.trvPorts ∧ on.trvStagingFree 1 ≠ 0 ∧ pushFrame 1 1 ≠ [] ∧ h.ctx = 1 ∧ on.ctxExists h.ctx = true ∧
       (on.ctx h.ctx).trvSize1 ≠ 0 ∧ (on.ctx h.ctx).state = .active ∧ (on.ctx h.ctx).broken = false ∧ h.ok = true ∧
       on.trvPlace h.ctx h.recordSize = some (false, 262144) ∧ (pushFrame 1 1).length % 128 = 0 ∧ (pushFrame 1 1).length / 128 = h.beats) ∧
    (TrvHead.of (pushFrame 3 1)).ok = false ∧ (TrvHead.of (pushFrame 3 1)).ctx = 1 ∧
    (on.ctxExists (TrvHead.of (pushFrame 1 9)).ctx = false ∧ on.trv.drops.value + 1 < 2 ^ 48 ∧ on.takes on.engineEvq) ∧
    (let s := { on with trv := { on.trv with rx1 := [rx0] } }
     (s.trvRx 1).find? (fun x => x.owed.isEmpty) = some rx0 ∧ s.trv.pushes.value + 1 < 2 ^ 48) ∧
    (let s := State.updRt { on with trv := { on.trv with rx0 := [rx0] } } 1 fun r =>
       { r with stack := [{ entry 0 false false with trv1 := some on.pins.now }] }
     (s.trvRx 0).find? (fun x => x.owed.isEmpty) = some rx0 ∧ (s.rt rx0.ctx).stack.map (·.trv1) = [some s.pins.now]) := by
  unfold State.takes
  decide +kernel

/-- A frame's header with its formats and scale byte, rows and columns, and a body of n bytes. -/
def frameOf (fmts scale rows cols n : Nat) : List Byte :=
  [1, 0, 1, 0, 5, 0, 0, 0, BitVec.ofNat 8 fmts, BitVec.ofNat 8 scale, 0, 0, BitVec.ofNat 8 rows, 0, 0, 0, BitVec.ofNat 8 cols, 0, 0, 0] ++
    List.replicate (108 + n) 0

/-- A frame that is converted, and one with scales that is not; one with too few beats, and one the stack has no room for. -/
theorem wit_TraverseFramesEnterTheStack_forms :
    ([(frameOf 0x42 0 3 5 128, true), (frameOf 0x44 0x49 3 5 256, false)].all fun x =>
      let h := TrvHead.of x.1
      h.ok && h.converted == x.2 && h.scaleBytes == (if x.2 then 0 else 3) && (on.trvPlace h.ctx h.recordSize).isSome && x.1.length % 128 == 0 &&
        x.1.length / 128 == h.beats) = true ∧
    (let h := TrvHead.of (frameOf 0x22 0 1 2 0)
     h.ok = true ∧ (frameOf 0x22 0 1 2 0).length / 128 ≠ h.beats) ∧
    (let h := TrvHead.of (frameOf 0x22 0 200 200 0)
     h.ok = true ∧ on.trvPlace h.ctx h.recordSize = none) := by
  decide +kernel

/-- A step of 33 rows and one column, which the command given runs. -/
def step0 (id : CmdId) : StepRec := { (default : StepRec) with idx := 0, cmd := id, rows := 33, cols := 1, gen := false, long := false }

/-- A rank of a ring, with context 1 bound to MSID 7, its round and its stream as given, and one command. -/
def ring (ranks rank : Nat) (c : Cmd) (st : RoundState) (x : Stream) : State :=
  { withRegion c with
    lgd := { on.lgd with inForce := some { leg with ranks := ranks, rank := rank } }
    ctxs := [(1, { on.ctx 1 with regionCount := 1, sendEvery := 1, msid := 7, roundSteps := 1, roundState := st })]
    rts := [(1, { CtxRt.init with stream := x })] }

/-- A header of round 0 from a rank to the next. -/
def mhead (kind src dst : Nat) : MosHead := { (on.mosHead 1 kind) with msid := 7, src := src, dst := dst, round := 0 }

theorem wit_MosaicFramesAreTaken_drop :
    let l := [1#8] ++ List.replicate 127 0
    on.tablesOk = true ∧ on.sizesOk ∧ on.laneOpen 3 = true ∧ on.mos.hold = [] ∧ (MosHead.of l).kind = 1 ∧ on.mosCheck l = some 0 ∧
      (on.err (.mosDrop 0)).value < 4294967295 :=
  ⟨on_alive.2.2, on_sizes, by decide +kernel⟩

theorem wit_MosaicFramesAreTaken :
    (let c := { mosCmd 0x10 0 with placed := true }
     let s := ring 2 0 c .exchange { Stream.init with steps := [step0 c.id] }
     let l := mosBytes { mhead 1 1 0 with efmt := 2, count := 1, row := 31 } [0, 0]
     let h := MosHead.of l
     s.tablesOk = true ∧ s.laneOpen 0 = true ∧ s.mosCheck l = none ∧ s.ctxOfMsid h.msid = some 1 ∧ h.kind = 1 ∧
       (s.rt 1).stream.step h.step = some (step0 c.id) ∧ s.cmd c.id = some c ∧ h.gen = false ∧ h.shard < s.ranks ∧
       h.shard ≠ (s.rank + s.ranks - 1) % s.ranks ∧ (shardRows h.shard s.ranks 33).1 ≤ h.row ∧ h.row < (shardRows h.shard s.ranks 33).2 ∧
       h.col + h.count ≤ 1 ∧ h.long = false ∧ h.count ≠ 0 ∧
       ((List.range h.count).all fun i => (step0 c.id).has h.shard h.row (h.col + i)) = false) ∧
    (let c := { mosCmd 0x11 0 with slots := [0, 0, 0, td 66048 2 1 64, 0, 0, 0], placed := true }
     let g : GatherRec := ⟨c.id, 0, 0, false, 0, 0, [], false⟩
     let s := ring 2 0 c .exchange { Stream.init with gathers := [g] }
     let l := mosBytes { mhead 2 1 0 with count := 1, shard := 1 } [7]
     let h := MosHead.of l
     let off := h.row + h.col * 4294967296
     s.tablesOk = true ∧ s.mosCheck l = none ∧ s.ctxOfMsid h.msid = some 1 ∧ h.kind = 2 ∧
       (s.rt 1).stream.gathers.find? (fun g => g.idx == h.step) = some g ∧ s.cmd g.cmd = some c ∧ h.shard < s.ranks ∧ h.shard ≠ s.rank ∧
       off + h.count ≤ ((s.opd c 0 3).shardBytes h.shard s.ranks).1 ∧ h.part = 0 ∧ h.count ≠ 0 ∧
       ((List.range h.count).all fun i => g.has h.shard h.part (off + i)) = false ∧
       (s.gatherMissing (s.opd c 0 3) { g with got := g.got ++ [(h.shard, h.part, off, h.count)] }).isSome = true) ∧
    (let c := { mosCmd 0x10 1 with placed := true }
     let s := ring 3 1 c .exchange { Stream.init with vec := some ⟨c.id, false⟩ }
     let l := fun flags => mosBytes { mhead 3 0 1 with count := 1, flags := flags } [0, 0, 0, 0]
     s.tablesOk = true ∧ [0, 1].all (fun k => let h := MosHead.of (l k)
       s.mosCheck (l k) == none && s.ctxOfMsid h.msid == some 1 && h.kind == 3 && h.part == 0 && !h.gen && h.row == 0 && h.col == 0 &&
         h.count == (s.opd c 0 0).cells.length && bits h.flags 0 1 == k) = true ∧
       s.cmd c.id = some c ∧ c.ctx = 1 ∧ c.phase = .begun ∧ s.rank ≠ 0 ∧ s.rank + 1 ≠ s.ranks) := by
  decide +kernel

/-- The whole row of a rank's own shard, a twin of the weight, and a vector on the last rank. -/
theorem wit_MosaicFramesAreTaken_whole :
    (let c := { mosCmd 0x10 0 with placed := true, slots := [td 131072 0 3 40, 0, 0, td 66048 0 3 32, 0, 0, 0] }
     let t := { step0 c.id with rows := 40, cols := 3 }
     let s := ring 2 0 c .exchange { Stream.init with steps := [t] }
     let l := mosBytes { mhead 1 1 0 with efmt := 2, count := 3, row := 1 } [0, 0x40, 1, 0x40, 2, 0x40]
     let h := MosHead.of l
     s.mosCheck l = none ∧ h.shard = s.rank ∧ h.shard ≠ (s.rank + s.ranks - 1) % s.ranks ∧
       ({ t with got := t.got ++ [(h.shard, h.row, h.col, h.count)], parts := t.parts ++ [⟨0, l⟩] } : StepRec).rowDone h.shard h.row = true) ∧
    (let c := { mosCmd 0x11 0 with slots := [0, 0, 0, td 66048 2 1 64, td 70000 2 64 1, 0, 0], placed := true }
     let g : GatherRec := ⟨c.id, 0, 0, false, 0, 0, [], false⟩
     let s := ring 2 0 c .exchange { Stream.init with gathers := [g] }
     c.has 0 4 = true ∧ s.mosCheck (mosBytes { mhead 2 1 0 with count := 2, shard := 1 } [7, 9]) = none ∧
       (s.gatherMissing (s.opd c 0 3) { g with got := g.got ++ [(1, 0, 0, 2)] }).isSome = true) ∧
    (let c := { mosCmd 0x10 1 with placed := true }
     let s := ring 3 2 c .exchange { Stream.init with vec := some ⟨c.id, false⟩ }
     let l := mosBytes { mhead 3 1 2 with count := 1 } [0, 0, 0, 0]
     s.mosCheck l = none ∧ bits (MosHead.of l).flags 0 1 = 0 ∧ s.rank ≠ 0 ∧ s.rank + 1 = s.ranks ∧ (MosHead.of l).count = (s.opd c 0 0).cells.length) := by
  decide +kernel

theorem wit_RoundsAreDecided :
    (let x := { Stream.init with steps := [{ step0 ⟨2, 0⟩ with rows := 1 }] }
     let chair := ring 2 0 (fence .begun) .exchange x
     let one := ring 1 0 (fence .begun) .exchange x
     let rank1 := ring 2 1 (fence .begun) .exchange { Stream.init with steps := [{ step0 ⟨2, 0⟩ with rows := 1, got := [(1, 0, 0, 1)] }], closeIn := some true }
     chair.tablesOk = true ∧ chair.inRounds 1 = true ∧ chair.roundReady 1 = true ∧ chair.rank = 0 ∧ chair.ranks ≠ 1 ∧
       one.tablesOk = true ∧ one.inRounds 1 = true ∧ one.roundReady 1 = true ∧ one.rank = 0 ∧ one.ranks = 1 ∧
       rank1.tablesOk = true ∧ rank1.inRounds 1 = true ∧ rank1.roundReady 1 = true ∧ rank1.rank ≠ 0 ∧ (rank1.rt 1).stream.closeOut = none) ∧
    ([(0, 0x10), (1, 0x10), (1, 0x11)].all fun k => [0, 1].all fun ok =>
      let s := ring 2 k.1 (fence .begun) .closing { Stream.init with ready := true }
      let l := mosBytes { mhead k.2 (1 - k.1) k.1 with flags := ok } []
      let h := MosHead.of l
      s.tablesOk && s.inRounds 1 && s.laneOpen 0 && s.mosCheck l == none && s.ctxOfMsid h.msid == some 1 && s.tokenLive 1 h && !h.gen &&
        decide (h.step < (s.ctx 1).roundSteps) && h.kind == k.2 && bits h.flags 0 1 == ok && (s.rt 1).stream.closeIn == none &&
        (s.rt 1).stream.decideOut == none) = true ∧
    ([0, 1].all fun r =>
      let s := { ring 2 r (fence .begun) .exchange { Stream.init with genNext := true } with dat := { on.dat with tracker := .track } }
      s.tablesOk && s.inRounds 1 && s.dat.tracker == .track && !s.dat.firedMos.contains 1 && s.deadlineDue 1 && s.nextEvent (.mosaic 1)) = true ∧
    (let s := at_ 500007 (ring 2 0 (fence .begun) .exchange { Stream.init with deadline := true, deadlineAt := 7, grace := 500 })
     (at_ 500006 s).pins.now < (s.rt 1).stream.deadlineAt + (s.rt 1).stream.grace * 1000 ∧
     (s.rt 1).stream.deadlineAt + (s.rt 1).stream.grace * 1000 ≤ s.pins.now ∧ s.inRounds 1 = true ∧ s.rank = 0 ∧ (s.rt 1).stream.deadline = true ∧ s.roundOpen 1 = true ∧ (s.rt 1).stream.closeIn = none) ∧
    ([none, some false, some true].all fun o =>
      let s := at_ 5500007 (ring 2 1 (fence .begun) .closing
        { Stream.init with deadline := true, deadlineAt := 7, grace := 500, decideWait := 5000, closeOut := o })
      decide ((s.rt 1).stream.deadlineAt + ((s.rt 1).stream.grace + (s.rt 1).stream.decideWait) * 1000 ≤ s.pins.now) && s.inRounds 1 && s.rank == 1 && (s.rt 1).stream.deadline && s.roundOpen 1 && (s.rt 1).stream.closeOut == o) = true := by
  decide +kernel

/-- A seal with one completed update to commit, skipped or not; and a void with a waiting and a begun command, an active queue and a
region, under AUTO at the second void in a row and under OFF. -/
theorem wit_RoundsAreDecided_commits :
    ([false, true].all fun skipped =>
      let u : UpdRec := { upd0 with complete := true, skipped := skipped }
      let s := ring 1 0 (fence .begun) .exchange { Stream.init with steps := [{ step0 ⟨2, 0⟩ with rows := 1 }], updates := [u] }
      let x := (s.rt 1).stream
      s.tablesOk && s.inRounds 1 && s.roundReady 1 && s.rank == 0 && s.ranks == 1 &&
        (x.updates.filter fun u => u.complete && !u.committed && u.round != (s.ctx 1).round + 1#64) == [u] && x.gathers.isEmpty &&
        (x.steps.all fun t => !t.gen && !t.addRes)) = true ∧
    ([64, 0].all fun m =>
      let s0 := at_ 500007 (ring 2 0 (fence .begun) .exchange { Stream.init with deadline := true, deadlineAt := 7, grace := 500 })
      let c2 := { fence .issued with id := ⟨2, 1⟩ }
      let s := { s0 with cmds := [fence .begun, c2], mode := { s0.mode with set := m } }.updCtx 1 fun c => { c with voidRun := 1 }
      s.tablesOk && s.inRounds 1 && s.rank == 0 && s.roundOpen 1 && s.pins.now == 7 + 500 * 1000 && (s.rt 1).stream.deadlineAt == 7 && (s.rt 1).stream.grace == 500 &&
        (decide (bits s.mode.set 6 1 = 1) == (m == 64)) && s.cmd c2.id == some c2 && c2.waiting && s.cmd (fence .begun).id == some (fence .begun) &&
        !(fence .begun).waiting && (s.cmq 2).state == .active && (s.cmq 2).ctx == 1 && (s.ctx 1).regionCount == 1 && (s.rt 1).stream.updates.isEmpty &&
        s.lgd.inForce.isSome) = true := by
  decide +kernel

/-- A round held by a void or left undecided, with queue 2 paused. -/
def stuck (st : RoundState) : State := (withCtx fun c => { c with roundState := st }).updCmq 2 fun q => { q with state := .paused }

theorem wit_RoundControl :
    let s := stuck .voidHold
    s.tablesOk = true ∧ s.cfgOpen = true ∧ s.lgd.standalone = false ∧ s.flt.out = false ∧ s.ctxExists 1 = true ∧
      (s.ctx 1).roundState = .voidHold ∧ (s.cmq 2).ctx = 1 ∧ (s.cmq 2).state = .paused ∧
      (let u := stuck .undecided
       u.tablesOk = true ∧ u.cfgOpen = true ∧ u.lgd.standalone = false ∧ u.flt.out = false ∧ u.ctxExists 1 = true ∧
         (u.ctx 1).roundState = .undecided ∧ u.decidePending 1 = false ∧ (u.cmq 2).state = .paused) ∧
      (let u := ring 2 1 (fence .begun) .undecided { Stream.init with ready := true }
       let w := { u with pending := [.decide 0 (mosBytes { mhead 0x11 0 1 with flags := 1 } [])] }
       w.tablesOk = true ∧ w.cfgOpen = true ∧ (w.ctx 1).roundState = .undecided ∧ w.decidePending 1 = true) ∧
      staged.tablesOk = true ∧ staged.cfgOpen = true ∧ staged.lgd.standalone = true := by
  decide +kernel

/-! ### Safety -/

theorem wit_DetectionsAct : on.sizesOk ∧ on.alive = true ∧ (on.chOn 3 = true ∧ on.chOn 0 = true) ∧
    (let s := onArr mm1 Sheet.init
     s.sizesOk ∧ s.alive = true ∧ s.tileOn 0 = true ∧ s.opOfTile 0 = some mm1.id ∧ s.cmd mm1.id = some mm1 ∧ mm1.phase = .begun ∧ mm1.cause = none) ∧
    (on.tileOn 255 = true ∧ on.opOfTile 255 = none ∧ on.pins.poreset = false ∧ on.flt.out = false ∧ bits on.mode.set 5 1 = 0 ∧
      (on.tiles.getD 255 Tile.init).drooping = false ∧ on.pwrDroops.value + 1 < 2 ^ 48) ∧
    (({ on with tiles := updAt on.tiles 255 fun t => { t with drooping := true } } : State).tiles.getD 255 Tile.init).drooping = true ∧
    (bits (on.tileMode 255) 5 1 = 0 ∧ bits (({ on with mode := { on.mode with set := 32 } } : State).tileMode 255) 5 1 ≠ 0 ∧
      (withCmd mm1).cmd mm1.id = some mm1 ∧ Tab.wf none on.feed.atlas = true) ∧
    ([(0, 650), (0, 850), (1, 710), (1, 790), (2, 700), (2, 65535)].all fun x => railOk x.1 x.2) = true ∧
    ([(0, 649), (0, 851), (1, 709), (1, 791), (2, 699)].all fun x => !railOk x.1 x.2) = true ∧
    ∀ k, on.alm.life.getD k 0 < 2 ^ 64 - 2 := by
  refine ⟨on_sizes, on_alive.1, by decide +kernel, ?_, by decide +kernel, by decide +kernel, by decide +kernel, by decide, by decide, fun k => by rw [(on_counts k).1]; decide⟩
  unfold State.sizesOk
  decide +kernel

theorem wit_ResetsAndIsolation :
    (let s := { on with flt := { on.flt with out := true } }
     s.flt.out = true ∧ s.flt.safe = false ∧ s.openPorts = 0 ∧ s.pins.now < s.flt.outAt + 2000000 ∧ s.pins.sysreset = false ∧
       s.flt.outAt + 2000000 ≤ (at_ 2000000 s).pins.now) ∧
    (let s := at_ 2000003 { on with pins := { on.pins with sysreset := true, sysAt := 3 } }
     s.pins.sysreset = true ∧ s.flt.safe = false ∧ s.pins.sysAt + 2000000 ≤ s.pins.now) ∧
    on.cfgOpen = true ∧ on.flt.out = false ∧ on.flt.busy = false ∧
    (let s := withCmd mm1
     s.cfgOpen = true ∧ mm1 ∈ s.cmds ∧ s.cmd mm1.id = some mm1 ∧ s.onCompute mm1 = true ∧ mm1.cause = none) ∧
    (let s := at_ 8000000 { on with flt := { on.flt with busy := true, resetting := 15 } }
     s.cfgOpen = true ∧ s.flt.busy = true ∧ s.flt.busyAt + 8000000 ≤ s.pins.now ∧ s.lgd.staged = none ∧ (maskBits 8 4).filter s.chOn = [3] ∧ s.chOn 0 = true) ∧
    (let s := { on with flt := { on.flt with busy := true, resetting := 15 }, lgd := { on.lgd with staged := some { leg with lanes := 1 }, load := .verified } }
     let u := { s with flt := { s.flt with busy := false, resetting := 0 }, rts := s.rts.map fun (e : Nat × CtxRt) => (e.1, e.2.ack) }
     let g := { leg with lanes := 1 }
     s.cfgOpen = true ∧ s.flt.busy = true ∧ s.lgd.staged = some g ∧ s.lgd.load = .verified ∧ s.lgd.standalone = false ∧
       u.consistent g = true ∧ g.channels &&& s.chansOut = 0 ∧ u.runningOk g = true) ∧
    (on.chOn 3 = true ∧ on.chOn 0 = true ∧ bits (0x80#64 : W64).toNat 0 1 = 0 ∧ bits (0x80#64 : W64).toNat 4 4 = 2 ^ 3) ∧
    (let s := at_ 1000000 { on with flt := { on.flt with isoBusy := 8, isoAt := [(3, 0)] } }
     s.cfgOpen = true ∧ bits s.flt.isoBusy 3 1 = 1 ∧ (3, 0) ∈ s.flt.isoAt ∧ 0 + 1000000 ≤ s.pins.now ∧ s.flt.isoBusy.testBit 3 = true ∧
       (8 : Nat).testBit 3 = true) ∧
    (let s := at_ 5000000 ((withCtx fun c => { c with state := .resetting }).updRt 1 fun r => { r with resetting := some resetRec })
     resetRec.since + 5000000 ≤ s.pins.now ∧ s.cfgOpen = true ∧ s.flt.out = false ∧ (s.rt 1).resetting = some resetRec) := by
  decide +kernel

/-! ### Memory -/

theorem wit_QuietCommandsKeepMemory : ∃ t, (Instr.deadline ⟨2, 0⟩).quiet = true ∧
    exec (.deadline ⟨2, 0⟩) (withCmd { cmdOf 4 with armed := some (0, 10) }) = .next t := ⟨_, rfl, rfl⟩

/-! ## Worked examples of the manual, and single steps -/

/-- A conversion from an FP32 code. -/
def cv (src : Nat) (f : Fmt) (m : Rnd) (inf : Bool) (u : Nat) : Nat := (f.convFloat m inf u (Fmt.fp32.decode src)).code

-- 04_number_formats.md, Table: Worked conversions, row by row.
theorem test_conv_e4m3 : cv 0x3F9A0000 .e4m3 .rne false 0 = 0x3A ∧ cv 0x3F9A0000 .e4m3 .rtz false 0 = 0x39 ∧
    cv 0x3F9A0000 .e4m3 .sr16 false 0xB37C = 0x39 ∧ cv 0x3F9A0000 .e4m3 .sr16 false 0x51E0 = 0x3A := by decide +kernel
theorem test_conv_bf16 : cv 0x40490FDB .bf16 .rne false 0 = 0x4049 ∧ cv 0x40490FDB .bf16 .sr16 false 0x0A00 = 0x404A ∧
    cv 0x40490FDB .bf16 .sr16 false 0x2000 = 0x4049 := by decide +kernel
theorem test_conv_overflow : cv 0x43FA0000 .e4m3 .rne false 0 = 0x7E ∧ cv 0x43FA0000 .e4m3 .rne true 0 = 0x7F ∧
    cv 0x43FA0000 .e5m2 .rne false 0 = 0x60 ∧ (Fmt.e4m3.convFloat .rne false 0 (Fmt.fp32.decode 0x43FA0000)).ovf = true := by decide +kernel
theorem test_conv_subnormal : cv 0x3B400000 .e4m3 .rne false 0 = 0x02 ∧ cv 0x3B400000 .e4m3 .rtz false 0 = 0x01 := by decide +kernel
theorem test_conv_e2m1 : cv 0xBF400000 .e2m1 .rne false 0 = 0xA ∧ cv 0xBF400000 .e2m1 .rtz false 0 = 0x9 := by decide +kernel
-- 05_draft_and_fair_accumulation.md, A four-way split, worked: 5·2⁻⁸⁴ truncates to one unit of 2⁻⁸², and loses.
theorem test_long_truncates : (XVal.scaled false 5 (-84)).truncUnits (-82) = 1 ∧ (XVal.scaled false 5 (-84)).truncLoses (-82) = true ∧
    longAdd (longAdd (2 ^ 106) (2 ^ 83)) 1 = 0x00000400000800000000000000000001 := by decide +kernel
-- The same: 2²⁴ + 2 converts to 0x4B80_0001.
theorem test_long_converts : fp32Code (XVal.ofInt (2 ^ 24 + 2)) = 0x4B800001 := by decide +kernel
-- R41: a block product of E4M3 lasts 16 tile clock cycles, of E2M1 8; Fair doubles it.
theorem test_beat_cycles : beatCycles .e4m3 .e4m3 false = 16 ∧ beatCycles .e2m1 .e2m1 false = 8 ∧ beatCycles .e4m3 .e4m3 true = 32 := by
  decide +kernel

-- 13_datum_and_bearing.md, A pulse that comes early: seven intervals of 48 ms and one of 46 ms track 11,937,500 cycles.
theorem test_datumPulse_tracks : (match exec (.datumPulse true 1205) { on with
    dat := { on.dat with tracker := .track, stopped := false, history := List.replicate 8 12000000, period := 12000000, cyc := 11500000, pass := 1204, first := false } } with
  | .next t => (t.dat.period, t.dat.pass, t.dat.tracker == .track) | _ => (0, 0, false)) = (11937500, 1205, true) := by decide +kernel
-- The published vectors of what R102, R384 and R252 name: Philox-4×32-10 at zero, CRC-32C of "123456789", SHA-384 of "abc".
theorem test_philox : philox ⟨0, 0, 0, 0⟩ 0 0 = ⟨0x6627e8d5, 0xe169c58d, 0xbc57ac4c, 0x9b00dbd8⟩ := by decide +kernel
theorem test_crc32c : crc32c [0x31, 0x32, 0x33, 0x34, 0x35, 0x36, 0x37, 0x38, 0x39] = 0xE3069283 := by decide +kernel
theorem test_sha384 : sha384 [0x61, 0x62, 0x63] =
    0xcb00753f45a35e8bb5a03d699ac65007272c32ab0eded1631a8b605a43ff5bed8086072ba1e7cc2358baeca134c825a7 := by decide +kernel

/-- A field of the state after one command. -/
def after {α : Type} (i : Instr) (s : State) (d : α) (f : State → α) : α := match exec i s with | .next t => f t | _ => d

/-- 2.0 and 3.0 in BF16 where mm1's operands lie. -/
def withPair (s : State) : State := { s with mem := [(65537, 0x40), (65792, 0x40), (65793, 0x40)] }

/-- Region 0 with 2.5 in FP32 as its first element. -/
def withGrad (s : State) : State := { s with mem := [(65538, 2), (65553, 1), (131074, 0x20), (131075, 0x40)] }

-- R39, R97: 2 · 3 = 6 is stored as the FP32 code 0x40C0_0000.
theorem test_mm_value : after (.mm mm1.id) (withPair (onArr mm1 Sheet.init)) 0 (fun t => t.memLE 66048 4) = 0x40C00000 := by decide +kernel
-- R317: COPY of an FP32 element into BF16: 2.5 becomes 0x4020.
theorem test_copy_converts :
    (let c := { mm1 with raw := 0x18 + 2 ^ 16, slots := [td 131072 0 1 1, 0, 0, td 66048 2 1 1, 0, 0, 0] }
     after (.copy c.id) (withGrad (withCmd c)) 0 fun t => t.memLE 66048 2) = 0x4020 := by decide +kernel
-- R245, R250: with one rank the sum of a region is the region: 2.5 comes out as it went in, and the step is done.
theorem test_reduceScatter_one :
    (let s := withGrad (ring 1 0 { mosCmd 0x10 0 with slots := [td 131072 0 1 1, td 66560 2 1 1, 0, td 66048 0 1 1, 0, 0, 0] } .exchange { Stream.init with genNext := true })
     after (.reduceScatter ⟨2, 0⟩) s (0, none) fun t => (t.memLE 66048 4, (t.cmd ⟨2, 0⟩).map (·.phase))) = (0x40200000, some .done) := by decide +kernel
-- R320: FENCE is done once everything in its scope has its record.
theorem test_fence_done : after (.fence ⟨2, 0⟩) (withCmd (fence .begun)) none (fun t => (t.cmd ⟨2, 0⟩).map (·.phase)) = some .done := by
  decide +kernel
-- R85: a droop lowers the clock, but never below 2.6 GHz, and counts.
theorem test_droop_floor : after (.droop 5 1000) on (0, 0) (fun t => ((t.tile 5).freq, t.pwrDroops.value)) = (2600, 1) := by decide +kernel
-- R343, R424: a supply out of range takes the engine out of service: cause SUPPLY, rail 2 at 699 mV.
theorem test_supply_stops : after (.supply 2 699) on (false, false, 0, 0) (fun t => (t.flt.out, t.flt.alert, t.flt.cause, t.flt.detail)) =
    (true, true, 0x0608, 2 + 699 * 65536) := by decide +kernel
-- R395: an unmapped offset answers DECERR.
theorem test_registerWrite_unmapped : after (.registerWrite 0xFFFFF8 0 0xFF) on .okay (fun t => t.pins.cfg) = .decerr := by decide +kernel
-- R240, R360: a corrected error in store 1 counts in life counter 17, and nowhere else.
theorem test_scrub_corrected : after (.scrub (.corrected 1)) on (0, 0) (fun t => (t.alm.life.getD 17 0, t.alm.life.getD 16 0)) = (1, 0) := by
  decide +kernel
-- R382, R383: PORESET_N released: standalone, the BIST running.
theorem test_poresetRelease : after (.poresetRelease ⟨false, []⟩) { State.reset with pins := { State.reset.pins with poreset := true }, tst := { State.reset.tst with busy := false } } (false, false, true)
    (fun t => (t.lgd.standalone, t.tst.busy, t.pins.poreset)) = (true, true, false) := by decide +kernel
-- R232: the first range handed over takes the first slot; 64 B at size 0.
theorem test_invalidation_slot : after (.invalidation 8200 0 ⟨[7], true⟩) on (none, 0) (fun t => (t.feed.inv.getD 0 none, t.memByte 8192)) =
    (some ⟨8192, 64⟩, 7) := by decide +kernel
-- R420: a round control that does not fit the round's state is refused.
theorem test_mosSeal_refused : after (.mosSeal 1) on 0 (fun t => t.mos.result) = 2 := by decide +kernel
-- R366: STL_SNAP counts.
theorem test_stlSnap : after .stlSnap on 0 (fun t => t.stl.count) = 1 := by decide +kernel
-- R153, R160: a committed frame is the top entry and a push.
theorem test_traverseCommit : after (.traverseCommit 1) { on with trv := { on.trv with rx1 := [rx0] } } (0, 0)
    (fun t => ((t.rt 1).stack.length, t.trv.pushes.value)) = (1, 1) := by decide +kernel
-- R244: 5 bands over 2 ranks: rank 0 owns bands 0 and 1, rank 1 the rest.
theorem test_shardRows : shardRows 0 2 160 = (0, 64) ∧ shardRows 1 2 160 = (64, 160) := by decide
-- The first command of the queue runs, the rest waits; an empty queue idles.
theorem test_step : (match step { on with pending := [.stlSnap, .safeState] } with
    | .next t => (t.pending, t.stl.count) | _ => ([], 0)) = ([.safeState], 1) := by decide +kernel

end Sys2Proof.Machine.Tests
end

section
/-! PROOFS. What every command keeps, over all commands at once, and what one step keeps: from it follow the statements on
tables, sizes, answers and quiet commands. -/

namespace Sys2Proof.Machine

open Sys2Proof

/-! ## What a command is measured against -/

/-- The state a command starts from, with what its reset gives up already given up: the Almanac domain's own power-on reset clears
that domain (R358), and PORESET_N ends departures from service and isolations (R343, R344). -/
def startOf (c : Instr) (s : State) : State :=
  match c with
  | .almanacPor => { s with alm := State.reset.alm }
  | .poresetAssert => { s with flt := { s.flt with out := false, isolated := 0 } }
  | _ => s

/-- The state a step starts from: for an idle cycle the one with time advanced. -/
def State.start (s : State) : State :=
  match s.pending with
  | [] => { s with pins := { s.pins with now := s.pins.now + 1 } }
  | c :: rest => startOf c { s with pending := rest }

/-- No reset of a domain touches the build, the queue of commands, time or a table. -/
theorem startOf_frame (c : Instr) (s : State) : startOf c s = { s with alm := (startOf c s).alm, flt := (startOf c s).flt } := by
  unfold startOf
  split <;> rfl

/-- The reset values of the Almanac's banks have the banks' lengths. -/
theorem startOf_sizesOk (c : Instr) {s : State} (h : s.sizesOk) : (startOf c s).sizesOk := by
  have ⟨_, _, _, hn⟩ := h
  unfold startOf
  split
  · exact ⟨List.length_replicate, List.length_replicate, List.length_replicate, hn⟩
  · exact h
  · exact h

/-- Nor does the time of an idle cycle. -/
theorem State.start_tablesOk (s : State) : s.start.tablesOk = s.tablesOk := by
  unfold State.start
  split
  · rfl
  · rw [startOf_frame]; rfl

/-- A step starts from banks and lists of their lengths. -/
theorem State.start_sizesOk {s : State} (h : s.sizesOk) : s.start.sizesOk := by
  unfold State.start
  split
  · exact h
  · exact startOf_sizesOk _ h

/-! ## The three commands that reset a domain -/

/-- What almanacPor keeps, the domain's own values apart. -/
theorem execAlmanacPor_keeps {s t : State} (h : execAlmanacPor s = .next t) : Keeps true (startOf .almanacPor s) t := by
  injection h with h; subst h
  exact Keeps.refl true (startOf .almanacPor s)

/-- What PORESET_N gives up is not asked of the state it starts from. -/
theorem keeps_beforePoreset (s : State) : Keeps false (startOf .poresetAssert s) s :=
  { Keeps.refl false s with kOut := nofun, kIsolated := fun c hc => by simp [startOf] at hc }

/-- What coldReset keeps, departures from service and isolations apart. -/
theorem keeps_coldReset (s : State) : Keeps false (startOf .poresetAssert s) s.coldReset := by
  have h1 := keeps_loseWrites (keeps_addLife (keeps_beforePoreset s) 4 1)
  unfold State.coldReset State.restart
  dsimp only
  generalize (s.addLife 4 1).loseWrites = t at h1 ⊢
  exact { h1 with
    kCtxs := fun _ => rfl, kRts := fun _ => rfl, kCmqs := fun _ => rfl, kEvqs := fun _ => rfl, kSched := fun _ => rfl
    kAcc := fun _ => Nat.zero_le _, kOut := nofun, kIsolated := fun c hc => by simp [startOf] at hc
    kTiles := by simpa using h1.kTiles, kArrs := fun _ => rfl, kBatches := fun _ => rfl, kDrops := fun _ => rfl }

/-- What poresetAssert keeps, departures from service and isolations apart. -/
theorem execPoresetAssert_keeps {s t : State} (h : execPoresetAssert s = .next t) : Keeps false (startOf .poresetAssert s) t := by
  injection h with h; subst h
  exact keeps_ite (fun _ => keeps_beforePoreset s) fun _ => keeps_coldReset s

/-- What sysresetRelease keeps: an engine out of service is not reset. -/
theorem execSysresetRelease_keeps {s t : State} (h : execSysresetRelease s = .next t) : Keeps false s t := by
  have hk := Keeps.refl false s
  injection h with h; subst h
  refine keeps_ite (fun _ => hk) fun _ => keeps_ite (fun _ => hk) fun hin => keeps_warmReset hk ?_
  simp only [Bool.or_eq_true, not_or, Bool.not_eq_true] at hin
  exact hin.1

/-! ## Every command, and every step -/

/-- What every command keeps; a quiet one keeps memory too. -/
theorem exec_keeps {c : Instr} {s t : State} (h : exec c s = .next t) : Keeps c.quiet (startOf c s) t := by
  cases c with
  | gpPair _ => exact execGpPair_keeps _ h
  | gpData _ => exact execGpData_keeps _ h
  | gpWeight _ => exact execGpWeight_keeps _ h
  | mm _ => exact execMm_keeps _ h
  | gpGrouped _ => exact execGpGrouped_keeps _ h
  | convData _ => exact execConvData_keeps _ h
  | convWeight _ => exact execConvWeight_keeps _ h
  | matvec _ => exact execMatvec_keeps _ h
  | survey _ => exact execSurvey_keeps _ h
  | deriv _ => exact execDeriv_keeps _ h
  | pushMark _ => exact execPushMark_keeps _ h
  | discardToMark _ => exact execDiscardToMark_keeps _ h
  | discardAll _ => exact execDiscardAll_keeps _ h
  | reduceScatter _ => exact execReduceScatter_keeps _ h
  | vector _ => exact execVector_keeps _ h
  | mosaicGather _ => exact execMosaicGather_keeps _ h
  | replay _ => exact execReplay_keeps _ h
  | apply _ => exact execApply_keeps _ h
  | norm _ => exact execNorm_keeps _ h
  | copy _ => exact execCopy_keeps _ h
  | fill _ => exact execFill_keeps _ h
  | fence _ => exact execFence_keeps _ h
  | waitFlag _ => exact execWaitFlag_keeps _ h
  | signalFlag _ => exact execSignalFlag_keeps _ h
  | atBearing _ => exact execAtBearing_keeps _ h
  | selftest _ => exact execSelftest_keeps _ h
  | fullSelftest _ => exact execFullSelftest_keeps _ h
  | preemptSelftest _ => exact execPreemptSelftest_keeps _ h
  | doorbell _ _ => exact execDoorbell_keeps _ _ h
  | commandAccept _ => exact execCommandAccept_keeps _ h
  | commandIssue _ => exact execCommandIssue_keeps _ h
  | commandBegin _ => exact execCommandBegin_keeps _ h
  | frameResolve _ => exact execFrameResolve_keeps _ h
  | commandComplete _ => exact execCommandComplete_keeps _ h
  | deadline _ => exact execDeadline_keeps _ h
  | abortDone _ => exact execAbortDone_keeps _ h
  | abortTimeout _ => exact execAbortTimeout_keeps _ h
  | tileBeat _ _ _ => exact execTileBeat_keeps _ _ _ h
  | anchorReady _ => exact execAnchorReady_keeps _ h
  | drainAccept _ => exact execDrainAccept_keeps _ h
  | drainDone _ => exact execDrainDone_keeps _ h
  | flitTransfer _ _ _ => exact execFlitTransfer_keeps _ _ _ h
  | partialEast _ => exact execPartialEast_keeps _ h
  | lineRequest _ => exact execLineRequest_keeps _ h
  | atlasLineArrive _ _ _ => exact execAtlasLineArrive_keeps _ _ _ h
  | runAhead _ _ => exact execRunAhead_keeps _ _ h
  | nextOpPrefetch _ => exact execNextOpPrefetch_keeps _ h
  | memReadResponse _ _ _ => exact execMemReadResponse_keeps _ _ _ h
  | memWriteResponse _ _ _ => exact execMemWriteResponse_keeps _ _ _ h
  | footpathResponse _ _ => exact execFootpathResponse_keeps _ _ h
  | notifyGap _ => exact execNotifyGap_keeps _ h
  | flagInterval _ => exact execFlagInterval_keeps _ h
  | invalidation _ _ _ => exact execInvalidation_keeps _ _ _ h
  | invFilterFree _ => exact execInvFilterFree_keeps _ h
  | bankConvoy _ => exact execBankConvoy_keeps _ h
  | scrub _ => exact execScrub_keeps _ h
  | traversePush _ _ => exact execTraversePush_keeps _ _ h
  | traverseCommit _ => exact execTraverseCommit_keeps _ h
  | traverseEntryFree _ => exact execTraverseEntryFree_keeps _ h
  | reduce _ _ => exact execReduce_keeps _ _ h
  | gather _ _ => exact execGather_keeps _ _ h
  | vectorFrame _ _ => exact execVectorFrame_keeps _ _ h
  | rankReady _ => exact execRankReady_keeps _ h
  | close _ _ => exact execClose_keeps _ _ h
  | decide _ _ => exact execDecide_keeps _ _ h
  | mosaicDeadline _ => exact execMosaicDeadline_keeps _ h
  | mosGrace _ => exact execMosGrace_keeps _ h
  | mosDecideWait _ => exact execMosDecideWait_keeps _ h
  | mosResume _ => exact execMosResume_keeps _ h
  | mosSeal _ => exact execMosSeal_keeps _ h
  | mosVoid _ => exact execMosVoid_keeps _ h
  | datumPulse _ _ => exact execDatumPulse_keeps _ _ h
  | datumLost => exact execDatumLost_keeps h
  | accumulatorLimit => exact execAccumulatorLimit_keeps h
  | freePeriod => exact execFreePeriod_keeps h
  | lookahead _ => exact execLookahead_keeps _ h
  | selftestWindow _ => exact execSelftestWindow_keeps _ h
  | checkpoint _ => exact execCheckpoint_keeps _ h
  | sendOpen _ => exact execSendOpen_keeps _ h
  | sendClose _ => exact execSendClose_keeps _ h
  | atBearingReached _ => exact execAtBearingReached_keeps _ h
  | modeReq _ => exact execModeReq_keeps _ h
  | create => exact execCreate_keeps h
  | update => exact execUpdate_keeps h
  | destroy => exact execDestroy_keeps h
  | read => exact execRead_keeps h
  | sync => exact execSync_keeps h
  | reset => exact execReset_keeps h
  | contextResetDone _ => exact execContextResetDone_keeps _ h
  | enable _ _ => exact execEnable_keeps _ _ h
  | queueDisable _ _ => exact execQueueDisable_keeps _ _ h
  | restart _ _ => exact execRestart_keeps _ _ h
  | evqEnable _ _ => exact execEvqEnable_keeps _ _ h
  | evqDisable _ _ => exact execEvqDisable_keeps _ _ h
  | evqHead _ _ => exact execEvqHead_keeps _ _ h
  | sequencerMismatch _ => exact execSequencerMismatch_keeps _ h
  | isolationDone _ => exact execIsolationDone_keeps _ h
  | clockMonitor _ _ => exact execClockMonitor_keeps _ _ h
  | supply _ _ => exact execSupply_keeps _ _ h
  | safeState => exact execSafeState_keeps h
  | safeStateTimeout => exact execSafeStateTimeout_keeps h
  | droop _ _ => exact execDroop_keeps _ _ h
  | droopClear _ => exact execDroopClear_keeps _ h
  | computeReset _ => exact execComputeReset_keeps _ h
  | computeResetDone => exact execComputeResetDone_keeps h
  | isolate _ => exact execIsolate_keeps _ h
  | resetHang _ => exact execResetHang_keeps _ h
  | forcingPoint _ => exact execForcingPoint_keeps _ h
  | batchTest _ => exact execBatchTest_keeps _ h
  | batchDone _ _ => exact execBatchDone_keeps _ _ h
  | rotationEnd => exact execRotationEnd_keeps h
  | fullTestDone _ => exact execFullTestDone_keeps _ h
  | almanacSecond => exact execAlmanacSecond_keeps h
  | wearSample _ => exact execWearSample_keeps _ h
  | toBackup => exact execToBackup_keeps h
  | toMain => exact execToMain_keeps h
  | backupLow => exact execBackupLow_keeps h
  | almanacPor => exact execAlmanacPor_keeps h
  | checkpointForced => exact execCheckpointForced_keeps h
  | checkpointRetry => exact execCheckpointRetry_keeps h
  | restore => exact execRestore_keeps h
  | noRestore => exact execNoRestore_keeps h
  | almTai _ => exact execAlmTai_keeps _ h
  | almSnap => exact execAlmSnap_keeps h
  | stlSnap => exact execStlSnap_keeps h
  | stlClear => exact execStlClear_keeps h
  | clear _ _ => exact execClear_keeps _ _ h
  | lgdBegin => exact execLgdBegin_keeps h
  | lgdData _ => exact execLgdData_keeps _ h
  | fetch => exact execFetch_keeps h
  | legendVerified => exact execLegendVerified_keeps h
  | lgdSeal => exact execLgdSeal_keeps h
  | discard => exact execDiscard_keeps h
  | bistRun => exact execBistRun_keeps h
  | bistDone _ => exact execBistDone_keeps _ h
  | poresetAssert => exact execPoresetAssert_keeps h
  | poresetRelease _ => exact execPoresetRelease_keeps _ h
  | sysresetAssert => exact execSysresetAssert_keeps h
  | sysresetRelease => exact execSysresetRelease_keeps h
  | registerWrite _ _ _ => exact execRegisterWrite_keeps _ _ _ h
  | datumEdgesResumed => exact execDatumEdgesResumed_keeps h
  | vddAonBReturn => exact execVddAonBReturn_keeps h
  | contextOperationDone => exact execContextOperationDone_keeps h
  | timebaseTick => exact execTimebaseTick_keeps h

/-- What an idle cycle keeps. -/
theorem keeps_idle (s : State) : Keeps true { s with pins := { s.pins with now := s.pins.now + 1 } } s.idle := by
  have hk := Keeps.refl true { s with pins := { s.pins with now := s.pins.now + 1 } }
  unfold State.idle Dat.tick Dat.cycles
  dsimp only
  split
  · exact hk
  · refine { hk with kAcc := fun _ => ?_ }
    dsimp only
    split <;> omega

/-- What every step keeps. -/
theorem step_keeps {s t : State} (h : step s = .next t) : Keeps false s.start t := by
  unfold step at h
  split at h
  case h_1 hp =>
    injection h with h; subst h
    simpa only [State.start, hp] using (keeps_idle s).loud
  case h_2 c rest hp =>
    simpa only [State.start, hp] using { exec_keeps h with kQuiet := nofun }

/-! ## What follows of tables, sizes and memory -/

/-- Tables in canonical form stay so. -/
theorem Keeps.tablesOk {qt : Bool} {z s : State} (h : Keeps qt z s) (hz : z.tablesOk = true) : s.tablesOk = true := by
  simp only [State.tablesOk, Bool.and_eq_true] at hz ⊢
  obtain ⟨⟨⟨⟨⟨⟨hm, hu⟩, hc⟩, hr⟩, hq⟩, he⟩, hs⟩ := hz
  exact ⟨⟨⟨⟨⟨⟨h.kMem hm, h.kUndef hu⟩, h.kCtxs hc⟩, h.kRts hr⟩, h.kCmqs hq⟩, h.kEvqs he⟩, h.kSched hs⟩

/-- Banks and lists of their lengths keep them. -/
theorem Keeps.sizesOk {qt : Bool} {z s : State} (h : Keeps qt z s) (hz : z.sizesOk) : s.sizesOk := by
  obtain ⟨hl, hw, hs, ht, ha, hb, hd⟩ := hz
  exact ⟨h.kLifeN hl, h.kWearN hw, h.kStepN hs, h.kTiles ht, h.kArrs ha, h.kBatches hb, h.kDrops hd⟩

/-- Every command has a next state. -/
theorem exec_total (c : Instr) (s : State) : ∃ t, exec c s = .next t := by
  cases c with
  | supply rail mv =>
    simp only [exec, execSupply]
    split
    · split <;> exact ⟨_, rfl⟩
    · exact ⟨_, rfl⟩
  | _ => exact ⟨_, rfl⟩

end Sys2Proof.Machine

open Sys2Proof Sys2Proof.Machine

/-- Settles O5: what a step keeps of the state it starts from holds of the tables. -/
theorem stepKeepsTables : Obligations.StepKeepsTables := by
  intro s t h hs
  exact (step_keeps h).tablesOk (s.start_tablesOk.trans hs)

/-- Settles O7: what a step keeps of the state it starts from holds of the banks and lists. -/
theorem stepKeepsSizes : Obligations.StepKeepsSizes := by
  intro s t h hs
  exact (step_keeps h).sizesOk (State.start_sizesOk hs)

/-- Settles O10: every meaning is total, and what it keeps includes the block, the queue and time. -/
theorem everyCommandAnswers : Obligations.EveryCommandAnswers := by
  intro c s
  obtain ⟨t, h⟩ := exec_total c s
  have hk := exec_keeps h
  rw [startOf_frame] at hk
  exact ⟨t, h, hk.kBuild, hk.kPending, hk.kNow⟩

/-- Settles O60: what a quiet command keeps includes memory and the undefined bytes, which are all a byte reads from. -/
theorem quietCommandsKeepMemory : Obligations.QuietCommandsKeepMemory := by
  intro c s t hq h
  have hk := exec_keeps h
  rw [startOf_frame] at hk
  obtain ⟨hm, hu⟩ := hk.kQuiet hq
  exact ⟨hm, hu, memByte_congr hm hu⟩
end

section
/-! PROOFS. The checks of a loaded Legend in the order of R381, and what their outcome leaves. -/

namespace Sys2Proof.Machine

open Sys2Proof

variable {s : State}

/-- The number of the first check of R381 that a framed Legend fails, from VERSION on; 0 where it passes all. -/
def State.firstFailure (s : State) (secs : List (Nat × List Byte)) : Nat :=
  let l := s.lgd.bytes
  let g := parseLegend l secs
  if ¬(bytesAt l 5 1 % 16 = 2 ∧ bytesAt l 5 1 / 16 ≤ 1) then 3
  else if bytesAt l 6 1 % 16 ≠ s.build.size.code then 4
  else if fieldsOk s.build.size g = false then 5
  else if s.consistent g = false then 6
  else if g.channels &&& (s.flt.isolated ||| s.flt.isoBusy) ≠ 0 then 7
  else if s.runningOk g = false then 8
  else if s.keySlot l = none then 9
  else if signatureOk l = false then 10 else 0

/-- The number of the first check of R381 that the loaded bytes fail; 0 where they pass all. -/
def State.failure (s : State) : Nat :=
  if s.lgd.fetchBad = true then 1 else match framing s.lgd.bytes with | none => 2 | some secs => s.firstFailure secs

/-- What verification answers (R381): the number of the first check that fails, with no Legend and the key slot as it was; or 0 with the
Legend the bytes spell and the slot whose key matches. -/
def State.VerifyOutcome (s : State) (v : Nat × Option Legend × Bool) : Prop :=
  (v = (s.failure, none, s.lgd.keyslot) ∧ s.failure ≠ 0) ∨
  (s.failure = 0 ∧ ∃ secs k, framing s.lgd.bytes = some secs ∧ s.keySlot s.lgd.bytes = some k ∧
    v = (0, some (parseLegend s.lgd.bytes secs), k))

/-- Verification meets the order of R381: each check is tested where every earlier one has passed. -/
theorem verify_outcome (s : State) : s.VerifyOutcome s.verify := by
  unfold State.verify State.VerifyOutcome State.failure
  dsimp only
  by_cases h1 : s.lgd.fetchBad = true
  · simp [h1]
  cases h2 : framing s.lgd.bytes with
  | none => simp [h1]
  | some secs =>
    simp only [h1, State.firstFailure, State.chansOut, ← Nat.not_le, ne_eq]
    by_cases h3 : bytesAt s.lgd.bytes 5 1 % 16 = 2 ∧ bytesAt s.lgd.bytes 5 1 / 16 ≤ 1
    case neg => simp [h3]
    by_cases h4 : bytesAt s.lgd.bytes 6 1 % 16 = s.build.size.code
    case neg => simp [h3, h4]
    cases h5 : fieldsOk s.build.size (parseLegend s.lgd.bytes secs) with
    | false => simp [h3, h4]
    | true =>
      cases h6 : s.consistent (parseLegend s.lgd.bytes secs) with
      | false => simp [h3, h4]
      | true =>
        by_cases h7 : (parseLegend s.lgd.bytes secs).channels &&& (s.flt.isolated ||| s.flt.isoBusy) = 0
        case neg => simp [h3, h4, h7]
        cases h8 : s.runningOk (parseLegend s.lgd.bytes secs) with
        | false => simp [h3, h4, h7]
        | true =>
          cases h9 : s.keySlot s.lgd.bytes with
          | none => simp [h3, h4, h7]
          | some k =>
            cases h10 : signatureOk s.lgd.bytes with
            | false => simp [h3, h4, h7]
            | true => simp [h3, h4, h7]

/-- The end of a verification puts its outcome into the Legend unit and changes nothing else. -/
theorem verified_eq (s : State) (hv : s.lgd.load = .verifying) (hb : s.lgd.bistDone = true) :
    s.verified = { s with lgd := { s.lgd with
      load := if s.verify.1 = 0 then .verified else .failed, reason := s.verify.1, staged := s.verify.2.1, keyslot := s.verify.2.2, bytes := [] } } := by
  simp [State.verified, hv, hb]

end Sys2Proof.Machine

open Sys2Proof Sys2Proof.Machine

/-- Settles O21: verification ends with the outcome that the order of the checks gives. -/
theorem verificationStagesOrFails : Obligations.VerificationStagesOrFails := by
  intro s hp hs ho hv l first code
  have hexec : exec .legendVerified s = .next s.verified := by simp [exec, execLegendVerified, hp, hs, ho]
  rw [hexec]
  refine ⟨fun hb => by simp [State.verified, hb], fun hb => ⟨_, rfl, ?_⟩⟩
  have hcode : code = s.failure := rfl
  rw [verified_eq s hv hb, hcode]
  rcases verify_outcome s with ⟨h, hne⟩ | ⟨h0, secs, k, hf, hk, h⟩
  · rw [h]
    simp [hne]
  · rw [h, h0]
    simp [l, hf, hk]
end

section
/-! PROOFS. The fields of a register, what a CFG read returns, and what a CFG write answers and does (R7, R15, R395, R407). -/

namespace Sys2Proof.Machine

open Sys2Proof

/-! ## Bit fields -/

/-- A field of w bits is less than 2^w. -/
theorem bits_lt (v lo w : Nat) : bits v lo w < 2 ^ w := Nat.mod_lt _ (Nat.two_pow_pos w)

/-- One bit is 0 or 1. -/
theorem bits_one_cases (v lo : Nat) : bits v lo 1 = 0 ∨ bits v lo 1 = 1 := by
  have := bits_lt v lo 1
  omega

/-- A field laid out above all that is set adds to it. -/
theorem putBits_above {v lo w x : Nat} (hv : v < 2 ^ lo) (hx : x < 2 ^ w) : putBits v lo w x = v + x * 2 ^ lo := by
  have hb : bits v lo w = 0 := by simp [bits, Nat.div_eq_of_lt hv]
  simp [putBits, hb, Nat.mod_eq_of_lt hx]

/-- Two fields, the second above the first. -/
theorem pack_two {w lo v x y : Nat} (hlo : w ≤ lo) (hx : x < 2 ^ w) (hy : y < 2 ^ v) : pack [(0, w, x), (lo, v, y)] = x + y * 2 ^ lo := by
  have h0 : putBits 0 0 w x = x := by simpa using putBits_above (v := 0) (lo := 0) (by simp) hx
  have hx' : x < 2 ^ lo := Nat.lt_of_lt_of_le hx (Nat.pow_le_pow_right (by decide) hlo)
  simp [pack, h0, putBits_above hx' hy]

/-- A field of a register fits its 64 bits. -/
theorem bits_mod_word {v lo w : Nat} (hw : w ≤ 64) : bits v lo w % 2 ^ 64 = bits v lo w :=
  Nat.mod_eq_of_lt (Nat.lt_of_lt_of_le (bits_lt v lo w) (Nat.pow_le_pow_right (by decide) hw))

/-- A number with a field replaced: what is above the field, the field, what is below. -/
theorem putBits_eq (v lo w x : Nat) : putBits v lo w x = (v / 2 ^ (lo + w) * 2 ^ w + x % 2 ^ w) * 2 ^ lo + v % 2 ^ lo := by
  have hv := Nat.div_add_mod v (2 ^ lo)
  have hq := Nat.div_add_mod (v / 2 ^ lo) (2 ^ w)
  rw [Nat.div_div_eq_div_mul, ← Nat.pow_add] at hq
  unfold putBits bits
  generalize v / 2 ^ (lo + w) = a at *
  generalize v / 2 ^ lo % 2 ^ w = b at *
  generalize v % 2 ^ lo = c at *
  rw [← hq] at hv
  subst hv
  rw [Nat.mul_add]
  have : 2 ^ lo * (2 ^ w * a) + 2 ^ lo * b + c - b * 2 ^ lo = 2 ^ lo * (2 ^ w * a) + c := by
    rw [Nat.mul_comm b]; omega
  rw [this, Nat.add_mul, Nat.mul_comm a (2 ^ w), Nat.mul_comm (2 ^ lo) (2 ^ w * a), Nat.add_right_comm]

/-- What is below a field stays. -/
theorem putBits_mod (v lo w x : Nat) : putBits v lo w x % 2 ^ lo = v % 2 ^ lo := by
  rw [putBits_eq, Nat.mul_comm, Nat.mul_add_mod, Nat.mod_mod]

/-- From a field on, a number is what is above the field and the field. -/
theorem putBits_div (v lo w x : Nat) : putBits v lo w x / 2 ^ lo = v / 2 ^ (lo + w) * 2 ^ w + x % 2 ^ w := by
  rw [putBits_eq, Nat.mul_comm, Nat.mul_add_div (Nat.two_pow_pos lo), Nat.div_eq_of_lt (Nat.mod_lt _ (Nat.two_pow_pos lo)), Nat.add_zero]

/-- A field is read back. -/
theorem bits_putBits_same {v lo w x : Nat} (hx : x < 2 ^ w) : bits (putBits v lo w x) lo w = x := by
  rw [bits, putBits_div, Nat.mul_comm, Nat.mul_add_mod, Nat.mod_mod, Nat.mod_eq_of_lt hx]

/-- A field above the one replaced stays. -/
theorem bits_putBits_above {v lo w x lo' w' : Nat} (h : lo + w ≤ lo') : bits (putBits v lo w x) lo' w' = bits v lo' w' := by
  obtain ⟨k, rfl⟩ := Nat.exists_eq_add_of_le h
  have hd : putBits v lo w x / 2 ^ (lo + w) = v / 2 ^ (lo + w) := by
    rw [Nat.pow_add, ← Nat.div_div_eq_div_mul, putBits_div, Nat.mul_comm, Nat.mul_add_div (Nat.two_pow_pos w),
      Nat.div_eq_of_lt (Nat.mod_lt _ (Nat.two_pow_pos w)), Nat.add_zero, Nat.pow_add]
  rw [bits, bits, Nat.pow_add, ← Nat.div_div_eq_div_mul, ← Nat.div_div_eq_div_mul, hd]

/-- A field lies within the bits up to its end. -/
theorem bits_mod {v n lo w : Nat} (h : lo + w ≤ n) : bits (v % 2 ^ n) lo w = bits v lo w := by
  have hb : ∀ u, bits u lo w = u % 2 ^ (lo + w) / 2 ^ lo := fun u => by
    rw [bits, Nat.pow_add, Nat.mod_mul_right_div_self]
  rw [hb, hb, Nat.mod_mod_of_dvd _ (Nat.pow_dvd_pow 2 h)]

/-- A field below the one replaced stays. -/
theorem bits_putBits_below {v lo w x lo' w' : Nat} (h : lo' + w' ≤ lo) : bits (putBits v lo w x) lo' w' = bits v lo' w' := by
  rw [← bits_mod h, putBits_mod, bits_mod h]

/-- Fields in rising order, none overlapping the next. -/
def Ascending (fs : List (Nat × Nat × Nat)) : Prop := fs.Pairwise fun a b => a.1 + a.2.1 ≤ b.1

/-- Fields laid out beside a field leave it as it is. -/
theorem bits_foldl_putBits {fs : List (Nat × Nat × Nat)} {lo w : Nat} (h : ∀ f ∈ fs, f.1 + f.2.1 ≤ lo ∨ lo + w ≤ f.1) (v : Nat) :
    bits (fs.foldl (fun n f => putBits n f.1 f.2.1 f.2.2) v) lo w = bits v lo w := by
  induction fs generalizing v with
  | nil => rfl
  | cons f fs ih =>
    obtain ⟨hf, hfs⟩ := List.forall_mem_cons.mp h
    rw [List.foldl_cons, ih hfs]
    exact hf.elim bits_putBits_above bits_putBits_below

/-- Where no field is laid out, a register reads 0. -/
theorem bits_pack_gap {fs : List (Nat × Nat × Nat)} {lo w : Nat} (h : ∀ f ∈ fs, f.1 + f.2.1 ≤ lo ∨ lo + w ≤ f.1) :
    bits (pack fs) lo w = 0 := by
  rw [pack, bits_foldl_putBits h]
  simp [bits]

/-- A field that is laid out is read back. -/
theorem bits_pack {fs : List (Nat × Nat × Nat)} {lo w x : Nat} (ha : Ascending fs) (hm : (lo, w, x) ∈ fs) (hx : x < 2 ^ w) :
    bits (pack fs) lo w = x := by
  obtain ⟨pre, post, rfl⟩ := List.append_of_mem hm
  obtain ⟨-, hpost, -⟩ := List.pairwise_append.mp ha
  rw [pack, List.foldl_append, List.foldl_cons, bits_foldl_putBits, bits_putBits_same hx]
  exact fun f hf => .inr ((List.pairwise_cons.mp hpost).1 f hf)

/-! ## Reads -/

variable {s : State} {o : Nat} {r : Reg}

/-- What a read of a placed register returns. -/
theorem readReg_at (h : regAt o = some r) : s.readReg o = some (if s.unbuilt r then 0 else s.regValue r % 2 ^ 64) := by
  simp [State.readReg, h]

/-- What a read of a built register returns. -/
theorem readReg_built (h : regAt o = some r) (hb : s.unbuilt r = false) : s.readReg o = some (s.regValue r % 2 ^ 64) := by
  simp [readReg_at h, hb]

/-- A register that is not built reads 0. -/
theorem readReg_unbuilt (h : regAt o = some r) (hb : s.unbuilt r = true) : s.readReg o = some 0 := by
  simp [readReg_at h, hb]

/-- A read finds a register exactly where the map places one. -/
theorem readReg_eq_none_iff : s.readReg o = none ↔ regAt o = none := by simp [State.readReg]

/-- No register lies at an offset that is not a multiple of 8. -/
theorem regAt_unaligned (h : o % 8 ≠ 0) : regAt o = none := by simp [regAt, h]

/-- A WO register reads 0. -/
theorem regValue_writeOnly (h : r.writeOnly = true) : s.regValue r = 0 := by
  cases r <;> cases h <;> rfl

/-- GPE_ID is at offset 0. -/
theorem regAt_gpeId : regAt 0 = some .gpeId := by decide

/-- What GPE_ID reads: a number of which every field lies within 64 bits. -/
theorem readReg_gpeId (s : State) : s.readReg 0 = some (s.gpeId % 2 ^ 64) := readReg_built regAt_gpeId rfl

/-- The fields of GPE_ID are in order. -/
theorem ascending_gpeId (s : State) : Ascending [(0, 16, 0x0A7E), (16, 8, 0x4E), (24, 4, 2), (28, 4, 1), (32, 8, s.build.drop.toNat),
    (40, 4, s.build.size.code), (44, 4, s.build.size.channels), (48, 9, s.build.size.tiles)] := by
  simp [Ascending]

/-- Each size's code, channels and tiles, as R7 tables them. -/
theorem Size.table (z : Size) : (z.code, z.channels, z.tiles) ∈ ([(1, 1, 1), (2, 1, 4), (3, 1, 16), (4, 4, 64), (5, 4, 256)] : List (Nat × Nat × Nat)) := by
  cases z <;> decide

/-- Each size's code, channels and tiles fit their fields of GPE_ID. -/
theorem Size.fits (z : Size) : z.code < 2 ^ 4 ∧ z.channels < 2 ^ 4 ∧ z.tiles < 2 ^ 9 := by
  cases z <;> decide

/-! ## Writes -/

/-- An RO register takes no write. -/
theorem writeReg_readOnly (h : r.readOnly = true) (v : W64) : s.writeReg o r v = s := by
  cases r <;> cases h <;> rfl

/-- A whole write to a placed register, where CFG takes writes: its effect and OKAY. -/
theorem registerWrite_open (hc : s.cfgOpen = true) (hr : regAt o = some r) (v : W64) :
    exec (.registerWrite o v 0xFF#8) s = .next (if s.unbuilt r then s else s.writeReg o r v).okay := by
  have hpins := hc
  simp only [State.cfgOpen, Bool.and_eq_true, Bool.not_eq_true'] at hpins
  obtain ⟨⟨hp, hs⟩, -⟩ := hpins
  simp [exec, execRegisterWrite, hp, hs, hr, cfgWrite_open s hc]

/-- The locked-write counter counts. -/
theorem lockedWrite_counts (o : Nat) (h : s.flt.lockedWrite.value < 4294967295) :
    (s.lockedWrite o).flt.lockedWrite.value = s.flt.lockedWrite.value + 1 := by
  have hpath : ∀ (u : State) (ty p : Nat), (u.emitEngine ty p).flt = u.flt := fun u ty p => by rw [emitEngine_path u ty p]
  have hinc : (s.flt.lockedWrite.inc s.pins.now).1.value = s.flt.lockedWrite.value + 1 := by
    simp [ErrCtr.inc, Nat.ne_of_lt h]
  rw [State.lockedWrite, hpath, State.bumpErr]
  dsimp only
  split
  · rw [hpath]; exact hinc
  · exact hinc

/-- The answers of CFG before a write's effect is looked at: SYSRESET_N, no register, a strobe of fewer bytes, and SAFE_STATE (R395). -/
theorem registerWrite_closed (s : State) (o : Nat) (v : W64) (strobe : Byte) (hp : s.pins.poreset = false) :
    (s.pins.sysreset = true → exec (.registerWrite o v strobe) s = .next s.okay) ∧
    (s.pins.sysreset = false → regAt o = none → exec (.registerWrite o v strobe) s = .next { s with pins := { s.pins with cfg := .decerr } }) ∧
    (s.pins.sysreset = false → (regAt o).isSome = true → strobe ≠ 0xFF#8 →
      exec (.registerWrite o v strobe) s = .next { s with pins := { s.pins with cfg := .slverr } }) ∧
    (s.pins.sysreset = false → (regAt o).isSome = true → s.flt.safe = true → exec (.registerWrite o v 0xFF#8) s = .next s.okay) := by
  refine ⟨fun hs => ?_, fun hs hr => ?_, fun hs hr hst => ?_, fun hs hr hsafe => ?_⟩
  · simp [exec, execRegisterWrite, hp, hs, State.okay]
  · simp [exec, execRegisterWrite, hp, hs, hr]
  · obtain ⟨r, hr⟩ := Option.isSome_iff_exists.mp hr
    simp [exec, execRegisterWrite, hp, hs, hr, hst]
  · obtain ⟨r, hr⟩ := Option.isSome_iff_exists.mp hr
    have hc : s.cfgOpen = false := by simp [State.cfgOpen, hsafe]
    simp [exec, execRegisterWrite, hp, hs, hr, cfgWrite_ignored s hc hp]

/-- A W1C bit after a write: a 1 clears it, a 0 leaves it. -/
theorem clearBit_eq {α : Type} (g : Bool → α) (b : Bool) (n i : Nat) :
    (if bits n i 1 = 1 then g false else g b) = g (b && bits n i 1 == 0) := by
  rcases bits_one_cases n i with h | h <;> simp [h]

/-- The answer OKAY to a write that leaves t. -/
def State.Writes (s : State) (o : Nat) (v : W64) (t : State) : Prop := exec (.registerWrite o v 0xFF#8) s = .next t.okay

/-- A write is ignored, and counted as a locked write. -/
def State.Locked (s : State) (o : Nat) (v : W64) : Prop :=
  s.Writes o v (s.lockedWrite o) ∧
    (s.flt.lockedWrite.value < 4294967295 → (s.lockedWrite o).flt.lockedWrite.value = s.flt.lockedWrite.value + 1)

variable {v : W64}

/-- A built register's write does what writeReg says. -/
theorem writes_of_writeReg {t : State} (hc : s.cfgOpen = true) (hr : regAt o = some r) (hb : s.unbuilt r = false) (ht : s.writeReg o r v = t) :
    s.Writes o v t := by
  simp [State.Writes, registerWrite_open hc hr, hb, ht]

/-- A built register whose write is refused counts it. -/
theorem locked_of_writeReg (hc : s.cfgOpen = true) (hr : regAt o = some r) (hb : s.unbuilt r = false) (ht : s.writeReg o r v = s.lockedWrite o) :
    s.Locked o v := ⟨writes_of_writeReg hc hr hb ht, lockedWrite_counts o⟩

/-- A schedule register of the active bank is locked once a Legend is sealed. -/
theorem writeSched_locked {i : Nat} (h : s.lgd.standalone = false ∧ i / 256 = bits s.mode.set 8 1) (f : Nat × Nat → Nat × Nat) :
    s.writeSched o i f = s.lockedWrite o := by
  simp [State.writeSched, State.bank, h]

/-- Any other schedule register takes the write. -/
theorem writeSched_free {i : Nat} (h : ¬(s.lgd.standalone = false ∧ i / 256 = bits s.mode.set 8 1)) (f : Nat × Nat → Nat × Nat) :
    s.writeSched o i f = { s with dat := { s.dat with sched := s.dat.sched.upd (0, 0) i f } } := by
  simp [State.writeSched, State.bank, h]

end Sys2Proof.Machine

open Sys2Proof Sys2Proof.Machine

/-- Settles O4: each field of GPE_ID is read back from its place. -/
theorem gpeIdReads : Obligations.GpeIdReads := by
  refine ⟨fun s => ⟨s.gpeId % 2 ^ 64, readReg_gpeId s, ?_⟩, fun s v hc => ?_⟩
  · have field : ∀ {lo w x}, lo + w ≤ 64 → (lo, w, x) ∈ _ → x < 2 ^ w → bits (s.gpeId % 2 ^ 64) lo w = x := fun hl hm hx =>
      (bits_mod hl).trans (bits_pack (ascending_gpeId s) hm hx)
    obtain ⟨hz, hc, ht⟩ := s.build.size.fits
    have hcode : bits (s.gpeId % 2 ^ 64) 40 4 = s.build.size.code := field (by omega) (by simp) hz
    have hchan : bits (s.gpeId % 2 ^ 64) 44 4 = s.build.size.channels := field (by omega) (by simp) hc
    have htile : bits (s.gpeId % 2 ^ 64) 48 9 = s.build.size.tiles := field (by omega) (by simp) ht
    have hgap : bits (s.gpeId % 2 ^ 64) 57 7 = 0 := (bits_mod (by omega)).trans (bits_pack_gap (by simp))
    refine ⟨field (by omega) (by simp) (by omega), field (by omega) (by simp) (by omega), field (by omega) (by simp) (by omega),
      field (by omega) (by simp) (by omega), field (by omega) (by simp) s.build.drop.isLt, hgap, ?_, hcode, fun t ht => ?_⟩
    · rw [hcode, hchan, htile]
      exact s.build.size.table
    · rw [readReg_gpeId, State.gpeId, State.gpeId, ht]
  · exact registerWrite_open hc regAt_gpeId v

/-- Settles O26: the answers before the effect, the effect by the register written, and what reads return. -/
theorem registerWriteAnswers : Obligations.RegisterWriteAnswers := by
  refine ⟨registerWrite_closed, ?_, fun s o => ⟨readReg_eq_none_iff, fun h => readReg_eq_none_iff.mpr (regAt_unaligned h), ?_⟩⟩
  · intro s o r v hc hr n writes locked
    have take : ∀ {t}, s.unbuilt r = false → s.writeReg o r v = t → writes t := fun hb => writes_of_writeReg hc hr hb
    have lock : s.unbuilt r = false → s.writeReg o r v = s.lockedWrite o → locked := fun hb => locked_of_writeReg hc hr hb
    refine ⟨?ignored, ?ctxSel, ?modeStage, ?modeStatus, ?lgdStatus, ?ctxStatus, ?perf, ?lgdStruct, ?lgdAtlas, ?lgdClocks, ?almRestore,
      ?schedHi, ?schedLo⟩
    case ignored =>
      rintro (hu | ho)
      · simp [writes, registerWrite_open hc hr, hu]
      · simp [writes, registerWrite_open hc hr, writeReg_readOnly ho]
    case ctxSel =>
      rintro rfl hst
      exact ⟨take rfl (if_neg hst), by rw [readReg_built hr rfl, State.regValue, bits_mod_word (by decide)]⟩
    case modeStage =>
      rintro rfl
      split
      case isTrue hp => exact lock rfl (if_pos hp)
      case isFalse hp => exact ⟨take rfl (if_neg hp), by rw [readReg_built hr rfl, State.regValue, bits_mod_word (by decide)]⟩
    case modeStatus =>
      rintro rfl
      exact take rfl (clearBit_eq (fun b => ({ s with mode := { s.mode with rejected := b } } : State)) _ _ _)
    case lgdStatus =>
      rintro rfl
      exact take rfl (clearBit_eq (fun b => ({ s with lgd := { s.lgd with badCmd := b } } : State)) _ _ _)
    case ctxStatus =>
      rintro rfl
      exact take rfl (clearBit_eq (fun b => ({ s with win := { s.win with dropped := b } } : State)) _ _ _)
    case perf =>
      rintro i rfl hb
      refine ⟨fun h => take hb ?_, fun hw h1 => take hb ?_⟩
      · rcases h with h | h <;> simp [State.writeReg, State.writePerf, h, n]
      · simp [State.writeReg, State.writePerf, hw, h1, n]
    case lgdStruct =>
      rintro rfl
      split
      case isTrue hs =>
        refine take rfl ?_
        simp only [State.writeReg, State.writeRwl, if_pos hs, pack_two (w := 2) (lo := 4) (by decide) (bits_lt _ _ _) (bits_lt _ _ _),
          Nat.reducePow, n]
      case isFalse hs => exact lock rfl (if_neg hs)
    case lgdAtlas =>
      rintro rfl
      split
      case isTrue hs =>
        refine take rfl ?_
        simp only [State.writeReg, State.writeRwl, if_pos hs, pack_two (w := 4) (lo := 16) (by decide) (bits_lt _ _ _) (bits_lt _ _ _),
          Nat.reducePow, n]
      case isFalse hs => exact lock rfl (if_neg hs)
    case lgdClocks =>
      rintro rfl
      split
      case isTrue hs => exact take rfl (if_pos hs)
      case isFalse hs => exact lock rfl (if_neg hs)
    case almRestore =>
      rintro k rfl
      split
      case isTrue hs => exact take rfl (if_pos hs)
      case isFalse hs => exact lock rfl (if_neg hs)
    case schedHi =>
      rintro i rfl
      split
      case isTrue hl => exact lock rfl (writeSched_locked hl _)
      case isFalse hl => exact take rfl (writeSched_free hl _)
    case schedLo =>
      rintro i rfl
      split
      case isTrue hl => exact lock rfl (writeSched_locked hl _)
      case isFalse hl =>
        refine take rfl ?_
        rw [State.writeReg, pack_two (by decide) (bits_lt _ _ _) (bits_lt _ _ _)]
        exact writeSched_free hl _
  · intro r hr
    refine ⟨⟨_, readReg_at hr, ?_⟩, ?_, fun hb _ => readReg_built hr hb⟩
    · split
      · exact Nat.two_pow_pos 64
      · exact Nat.mod_lt _ (Nat.two_pow_pos 64)
    · rintro (hu | hw)
      · exact readReg_unbuilt hr hu
      · rw [readReg_at hr, regValue_writeOnly hw, Nat.zero_mod, ite_self]
end

section
/-! PROOFS. Invalidations: what another agent writes, the filter, and the look-ahead that goes on when a slot is free (R232, R398). -/

namespace Sys2Proof.Machine

open Sys2Proof

/-! ## Bytes of another agent -/

variable {s : State}

/-- What another agent writes changes memory and the undefined bytes only. -/
theorem agentWrite_frame (s : State) (a : Nat) (bs : List Byte) :
    s.agentWrite a bs = { s with mem := (s.agentWrite a bs).mem, undef := (s.agentWrite a bs).undef } := by
  unfold State.agentWrite
  generalize List.range bs.length = l
  induction l generalizing s with
  | nil => rfl
  | cons i l ih => rw [List.foldl_cons, ih]; rfl

/-- The first n bytes of a list, written from an address on: those are read back, every other byte is as it was. -/
theorem memByte_pokeRange (hm : Memory.wf s.mem = true) (hu : Tab.wf none s.undef = true) (a : Nat) (bs : List Byte) (n k : Nat) :
    ((List.range n).foldl (fun s i => s.pokeMem (a + i) (bs.getD i 0)) s).memByte k =
      if a ≤ k ∧ k < a + n then bs.getD (k - a) 0 else s.memByte k := by
  induction n with
  | zero => rw [if_neg (by omega)]; rfl
  | succ n ih =>
    have hwf := wf_pokeAll ((List.range n).map fun i => (a + i, bs.getD i 0)) hm hu
    rw [List.foldl_map] at hwf
    rw [List.range_succ, List.foldl_append, List.foldl_cons, List.foldl_nil, memByte_pokeMem hwf.1 hwf.2, ih]
    by_cases hk : k = a + n
    · subst hk
      simp
    · have hlt : k < a + (n + 1) ↔ k < a + n := by omega
      simp only [if_neg hk, hlt]

/-- The bytes another agent writes are in memory, and no others change. -/
theorem memByte_agentWrite (hm : Memory.wf s.mem = true) (hu : Tab.wf none s.undef = true) (a : Nat) (bs : List Byte) (k : Nat) :
    (s.agentWrite a bs).memByte k = if a ≤ k ∧ k < a + bs.length then bs.getD (k - a) 0 else s.memByte k :=
  memByte_pokeRange hm hu a bs bs.length k

/-- Memory after the first n bytes of a list have been written from an address on. -/
def WrittenAt (s : State) (base n : Nat) (bs : List Byte) (v : State) : Prop :=
  (∀ k, k < n → k < bs.length → v.memByte (base + k) = bs.getD k 0) ∧
    ∀ a, a < base ∨ base + n ≤ a ∨ base + bs.length ≤ a → v.memByte a = s.memByte a

/-- An agent's write that is cut to its range leaves the bytes of the range and no others. -/
theorem writtenAt_agentWrite (hm : Memory.wf s.mem = true) (hu : Tab.wf none s.undef = true) (base n : Nat) (bs : List Byte) :
    WrittenAt s base n bs (s.agentWrite base (bs.take n)) := by
  refine ⟨fun k hn hk => ?_, fun a ha => ?_⟩
  · rw [memByte_agentWrite hm hu, List.length_take, if_pos (by omega), Nat.add_sub_cancel_left]
    simp [List.getD, List.getElem?_take_of_lt hn]
  · rw [memByte_agentWrite hm hu, List.length_take, if_neg (by omega)]

/-! ## The look-ahead that goes on -/

/-- A later state of look-ahead: it differs in the fills and lists of the feeding, in the stall counters, and on the event path. -/
def Pumped (s t : State) : Prop :=
  t = { s with feed := { s.feed with fills := t.feed.fills, look := t.feed.look }, stl := t.stl, evqs := t.evqs, log := t.log
               fp := t.fp, fpOut := t.fpOut, fpRun := t.fpRun }

/-- Nothing done. -/
theorem Pumped.refl (s : State) : Pumped s s := rfl

/-- One change after another. -/
theorem Pumped.trans {t u : State} (h : Pumped s t) (h' : Pumped t u) : Pumped s u := by
  unfold Pumped at h h' ⊢
  rw [h', h]

/-- A change of the event path is one. -/
theorem pumped_of_eventPath {t : State} (h : EventPath s t) : Pumped s t := by
  unfold EventPath at h
  unfold Pumped
  rw [h]

/-- So is a fill that is sent. -/
theorem sendFill_pumped (s : State) (l ctx : Nat) (k : FillKind) (ws : List (Nat × Nat)) : Pumped s (s.sendFill l ctx k ws) := rfl

/-- A skipped entry is counted among the stall counters' errors. -/
theorem bumpErr_laSkip_pumped (s : State) : Pumped s (s.bumpErr .laSkip) := by
  have hset : ∀ c, Pumped s (s.setErr .laSkip c) := fun _ => rfl
  unfold State.bumpErr
  dsimp only
  split
  · exact (hset _).trans (pumped_of_eventPath (emitEngine_path _ _ _))
  · exact hset _

/-- So are the lines of an entry, as far as they go. -/
theorem pumpLines_pumped (ctx u : Nat) (ls : List Nat) (s : State) : Pumped s (State.pumpLines ctx u ls s).1 := by
  induction ls generalizing s with
  | nil => exact .refl s
  | cons l ls ih =>
    unfold State.pumpLines
    split
    · exact ih s
    · split
      · exact (sendFill_pumped s _ _ _ _).trans (ih _)
      · exact .refl s

/-- So are the entries of a list, as far as they go. -/
theorem pumpEntries_pumped (ctx u : Nat) (es : List Nat) (s : State) : Pumped s (State.pumpEntries ctx u es s).1 := by
  induction es generalizing s with
  | nil => exact .refl s
  | cons e es ih =>
    unfold State.pumpEntries
    split
    · exact .refl s
    · split
      · exact (bumpErr_laSkip_pumped s).trans (ih _)
      · have hl := pumpLines_pumped ctx u
        dsimp only
        split
        · exact (hl _ s).trans (ih _)
        · exact hl _ s

/-- So is a list. -/
theorem pumpList_pumped (s : State) (x : LookList) : Pumped s (s.pumpList x).1 := by
  have hl := pumpLines_pumped x.ctx x.until_ x.lines s
  unfold State.pumpList
  dsimp only
  split
  · exact hl.trans (pumpEntries_pumped _ _ _ _)
  · exact hl

/-- Look-ahead that goes on requests fills and forms records, and changes nothing that a cache holds. -/
theorem pumpLook_pumped (s : State) : Pumped s s.pumpLook := by
  unfold State.pumpLook
  split
  · exact .refl s
  · refine Pumped.trans (t := (List.foldl _ (s, ([] : List LookList)) s.feed.look).1) ?_ rfl
    generalize s.feed.look = l
    generalize hx : (s, ([] : List LookList)) = x
    have hs : Pumped s x.1 := hx ▸ .refl s
    clear hx
    induction l generalizing x with
    | nil => exact hs
    | cons y l ih => exact ih _ (hs.trans (pumpList_pumped _ _))

/-- Where no list waits, look-ahead has nothing to go on with. -/
theorem pumpLook_idle (h : s.feed.look = []) : s.pumpLook = s := by simp [State.pumpLook, h]

end Sys2Proof.Machine

namespace Sys2Proof

/-- What a table reads once the keys a test refuses are taken out. -/
theorem Tab.get_filter {α : Type} (d : α) (t : Tab α) (p : Nat → Bool) (k : Nat) :
    Tab.get d (t.filter fun e => p e.1) k = if p k = true then Tab.get d t k else d := by
  induction t with
  | nil => simp [Tab.get]
  | cons e t ih =>
    obtain ⟨j, v⟩ := e
    by_cases hj : j = k
    · subst hj
      cases hp : p j <;> simp_all [Tab.get]
    · cases hp : p j <;> simp [Tab.get, hj, hp, ih]

end Sys2Proof

namespace Sys2Proof.Machine

open Sys2Proof

variable {s : State}

/-- The state in which a slot of the filter is free: the lines of its range are gone from every cache, and those that speculation
had brought are noted. -/
def State.freeSlot (s : State) (k : Nat) (r : InvRange) (lost : List Nat) : State :=
  { s with feed := { s.feed with
      inv := setAt s.feed.inv k none
      atlas := s.feed.atlas.filter fun e => !r.meets e.1
      cch := s.feed.cch.map fun c => c.filter fun l => !r.meets l
      lost := lost } }

/-- Freeing a slot in use. -/
theorem invFilterFree_taken {k : Nat} {r : InvRange} (h : s.feed.inv.getD k none = some r) :
    ∃ lost, exec (.invFilterFree k) s = .next (s.freeSlot k r lost).pumpLook := by
  simp only [exec, execInvFilterFree, h]
  exact ⟨_, rfl⟩

/-- Freeing a slot that is free does nothing. -/
theorem invFilterFree_free {k : Nat} (h : s.feed.inv.getD k none = none) : exec (.invFilterFree k) s = .next s := by
  simp only [exec, execInvFilterFree, h]

/-- The lines a freed slot leaves in the Atlas. -/
theorem aline_freeSlot (s : State) (k : Nat) (r : InvRange) (lost : List Nat) (l : Nat) :
    (s.freeSlot k r lost).aline l = if r.meets l = true then none else s.aline l := by
  refine (Tab.get_filter none s.feed.atlas (fun l => !r.meets l) l).trans ?_
  cases r.meets l <;> rfl

/-- The range an invalidation names: its size a power of two of 64 B, its base aligned to that. -/
def invRangeOf (addr : Addr) (size : BitVec 4) : InvRange := ⟨addr.toNat / (64 * 2 ^ size.toNat) * (64 * 2 ^ size.toNat), 64 * 2 ^ size.toNat⟩

/-- The filter takes the range of a write: it is handed over, in service, outside SAFE_STATE, and overlaps the address map. -/
def State.takesRange (s : State) (w : AgentWrite) (r : InvRange) : Prop :=
  w.handed = true ∧ s.lgd.standalone = false ∧ s.flt.safe = false ∧ s.meetsMap r.base r.size = true

/-- A range has entered a slot of the filter, and fills in flight that meet it are overtaken. -/
def State.filterRange (s : State) (i : Nat) (r : InvRange) : State :=
  { s with feed := { s.feed with
      inv := setAt s.feed.inv i (some r)
      fills := s.feed.fills.map fun f => if r.meets f.line = true then { f with stale := true } else f } }

/-- Bytes and a range that enters the filter change memory, the undefined bytes and the feeding only. -/
theorem filterRange_agentWrite (s : State) (a : Nat) (bs : List Byte) (i : Nat) (r : InvRange) :
    let v := (s.agentWrite a bs).filterRange i r
    v = { s with mem := v.mem, undef := v.undef, feed := v.feed } ∧ v.feed = (s.filterRange i r).feed := by
  dsimp only
  rw [agentWrite_frame s a bs]
  exact ⟨rfl, rfl⟩

variable {addr : Addr} {size : BitVec 4} {w : AgentWrite}

/-- A range that the filter does not take: the bytes reach memory, and no more. -/
theorem invalidation_untaken (h : ¬s.takesRange w (invRangeOf addr size)) : exec (.invalidation addr size w) s =
    .next (s.agentWrite (invRangeOf addr size).base (w.bytes.take (invRangeOf addr size).size)) := by
  have hoff : (!w.handed || s.lgd.standalone || s.flt.safe || !s.meetsMap (invRangeOf addr size).base (invRangeOf addr size).size) = true := by
    rw [← Bool.not_eq_false]
    simpa [State.takesRange, and_assoc] using h
  simp only [invRangeOf] at hoff
  simp only [exec, execInvalidation, hoff, invRangeOf]

/-- A range that enters the slot found free. -/
theorem invalidation_taken {i : Nat} (h : s.takesRange w (invRangeOf addr size)) (hi : s.feed.inv.findIdx? (·.isNone) = some i) :
    exec (.invalidation addr size w) s =
      .next ((s.agentWrite (invRangeOf addr size).base (w.bytes.take (invRangeOf addr size).size)).filterRange i (invRangeOf addr size)) := by
  obtain ⟨hh, hs, hf, hm⟩ := h
  simp only [invRangeOf] at hm
  simp only [exec, execInvalidation, hh, hs, hf, hm, hi]
  rfl

/-- While no slot is free INV is not ready. -/
theorem invalidation_full (h : s.takesRange w (invRangeOf addr size)) (hi : s.feed.inv.findIdx? (·.isNone) = none) :
    exec (.invalidation addr size w) s = .next s := by
  obtain ⟨hh, hs, hf, hm⟩ := h
  simp only [invRangeOf] at hm
  simp only [exec, execInvalidation, hh, hs, hf, hm, hi]
  rfl

end Sys2Proof.Machine

open Sys2Proof Sys2Proof.Machine

/-- Settles O53: what the other agent wrote, the first free slot, and the lines that go with a freed one. -/
theorem invalidationsDropLines : Obligations.InvalidationsDropLines := by
  intro s hs
  simp only [State.tablesOk, Bool.and_eq_true] at hs
  obtain ⟨⟨⟨⟨⟨⟨hm, hu⟩, -⟩, -⟩, -⟩, -⟩, -⟩ := hs
  refine ⟨?handed, ?freed, fun k hk => invFilterFree_free hk⟩
  case handed =>
    intro addr size w n base written taken
    have hw : written (s.agentWrite base (w.bytes.take n)) := writtenAt_agentWrite hm hu base n w.bytes
    have hf := agentWrite_frame s base (w.bytes.take n)
    refine ⟨fun h => ⟨_, invalidation_untaken h, hf, hw⟩, fun i h hi => ?_, fun h hi => invalidation_full h hi⟩
    obtain ⟨hframe, hfeed⟩ := filterRange_agentWrite s base (w.bytes.take n) i ⟨base, n⟩
    exact ⟨_, invalidation_taken h hi, hframe, hw, hfeed⟩
  case freed =>
    intro k r hr
    obtain ⟨lost, he⟩ := invFilterFree_taken hr
    have hp : Pumped (s.freeSlot k r lost) (s.freeSlot k r lost).pumpLook := pumpLook_pumped _
    unfold Pumped at hp
    refine ⟨_, he, ?_, fun hl => ?_, ?_, fun l => ?_, ?_⟩
    · rw [hp]; rfl
    · rw [pumpLook_idle (s := s.freeSlot k r lost) hl]; rfl
    · rw [hp]; rfl
    · rw [hp]; exact aline_freeSlot s k r lost l
    · rw [hp]; rfl
end

section
/-! PROOFS. Event records: what a record holds, the ring it is written to, and what a record without room leaves (R326, R327). -/

namespace Sys2Proof.Machine

open Sys2Proof

variable {s t u : State} {q : Nat} {b : RecBody}

/-- A number has as many bytes as are asked for. -/
theorem length_leBytes (n v : Nat) : (leBytes n v).length = n := by
  induction n generalizing v with
  | zero => rfl
  | succ n ih => simp [leBytes, ih]

/-- A record has 32 bytes. -/
theorem length_recBytes (r : Rec) : r.bytes.length = 32 := by simp [Rec.bytes, length_leBytes]

/-! ## The ring of an event queue -/

/-- The queue after a record: TAIL has moved on by one slot. -/
def EvQueue.advance (e : EvQueue) : EvQueue := { e with tail := (e.tail + 1) % 4294967296 }

/-- The queue after a record that was dropped: it is counted, and pends. -/
def EvQueue.drop (e : EvQueue) (now : Nat) : EvQueue := { e with lost := (e.lost.inc now).1, pend := e.pend + 1 }

/-- The queue after its pending lost count was written. -/
def EvQueue.flush (e : EvQueue) : EvQueue := EvQueue.advance { e with pend := 0 }

/-- The registers of a ring are in their ranges: at most 2¹⁶ slots, and 32-bit HEAD and TAIL. -/
def EvQueue.InRange (e : EvQueue) : Prop := e.log2 ≤ 16 ∧ e.head < 2 ^ 32 ∧ e.tail < 2 ^ 32

/-- A record takes one slot of the room. -/
theorem EvQueue.room_advance {e : EvQueue} (h : e.InRange) (hr : 1 ≤ e.room) : e.advance.room = e.room - 1 := by
  obtain ⟨hlog, hh, ht⟩ := h
  have hsize : 2 ^ e.log2 ≤ 2 ^ 16 := Nat.pow_le_pow_right (by decide) hlog
  unfold EvQueue.room at hr ⊢
  simp only [EvQueue.advance]
  omega

/-- A queue whose count neither saturates nor comes to its THRESHOLD with the next drop (R365). -/
def EvQueue.Calm (e : EvQueue) : Prop := e.lost.value < 4294967295 ∧ e.lost.value + 1 ≠ e.lost.threshold

/-- Such a count counts, and reports nothing. -/
theorem EvQueue.Calm.inc {e : EvQueue} (h : e.Calm) (now : Nat) :
    (e.lost.inc now).1.value = e.lost.value + 1 ∧ (e.lost.inc now).2 = false := by
  obtain ⟨hv, ht⟩ := h
  simp [ErrCtr.inc, Nat.ne_of_lt hv, ht]

/-! ## What a run of the event path writes -/

/-- The record a body makes at a place of the ring. -/
def State.recordAt (s : State) (q seq : Nat) (b : RecBody) : Rec :=
  ⟨q, seq, b.type, sevOf b.type, b.ctx, b.queue, s.bearing, s.dat.tracker.code, b.tag, s.dat.pass.toNat % 2 ^ 32, b.payload % 2 ^ 96⟩

/-- The record that carries a lost count. -/
def State.lostAt (s : State) (q seq n : Nat) : Rec := s.recordAt q seq ⟨0x30, 0xFFFF, 0xFFFF, 0, n⟩

/-- The transfer that takes a record to its slot. -/
def slotOf (q : Nat) (e : EvQueue) (r : Rec) : FpReq := ⟨.record q r.seq, false, e.base + 32 * (r.seq % 2 ^ e.log2), r.bytes, 32⟩

/-- From s to t the event path has written these records to queue q, which is left as e. -/
structure Wrote (q : Nat) (s t : State) (rs : List Rec) (e : EvQueue) : Prop where
  path : EventPath s t
  wf : Tab.wf EvQueue.init t.evqs = true
  log : t.log = s.log ++ rs
  fp : t.fp = s.fp ++ rs.map (slotOf q (s.evq q))
  evq : t.evq q = e
  base : e.base = (s.evq q).base
  log2 : e.log2 = (s.evq q).log2

/-- Records depend on the Datum alone, which the event path leaves as it is. -/
theorem EventPath.recordAt_eq (h : EventPath s t) (q seq : Nat) (b : RecBody) : t.recordAt q seq b = s.recordAt q seq b := by
  unfold EventPath at h
  rw [h]
  rfl

/-- Nothing done writes nothing. -/
theorem Wrote.refl (q : Nat) (hw : Tab.wf EvQueue.init s.evqs = true) : Wrote q s s [] (s.evq q) :=
  ⟨.refl s, hw, by simp, by simp, rfl, rfl, rfl⟩

/-- One run after another. -/
theorem Wrote.trans {rs rs' : List Rec} {e e' : EvQueue} (h : Wrote q s t rs e) (h' : Wrote q t u rs' e') : Wrote q s u (rs ++ rs') e' := by
  have he : slotOf q (t.evq q) = slotOf q (s.evq q) := by
    unfold slotOf
    rw [h.evq, h.base, h.log2]
  exact ⟨h.path.trans h'.path, h'.wf, by rw [h'.log, h.log, List.append_assoc], by rw [h'.fp, h.fp, he, List.map_append, List.append_assoc],
    h'.evq, by rw [h'.base, h.evq, h.base], by rw [h'.log2, h.evq, h.log2]⟩

/-- A change of the queue's counts writes nothing. -/
theorem wrote_updEvq (hw : Tab.wf EvQueue.init s.evqs = true) (f : EvQueue → EvQueue) (hb : (f (s.evq q)).base = (s.evq q).base)
    (hl : (f (s.evq q)).log2 = (s.evq q).log2) : Wrote q s { s with evqs := s.evqs.upd EvQueue.init q f } [] (f (s.evq q)) :=
  ⟨rfl, Tab.wf_upd _ hw q f, by simp, by simp, (evq_updEvq s hw q q f).trans (if_pos rfl), hb, hl⟩

/-- A record is written at TAIL. -/
theorem wrote_writeRec (hw : Tab.wf EvQueue.init s.evqs = true) (b : RecBody) :
    Wrote q s (s.writeRec q b false) [s.recordAt q (s.evq q).tail b] (s.evq q).advance := by
  have hu := wrote_updEvq (q := q) hw EvQueue.advance rfl rfl
  refine ⟨writeRec_path s q b false, ?_, ?_, ?_, ?_, rfl, rfl⟩
  all_goals
    unfold State.writeRec
    dsimp only
    rw [fpAdd_frame]
  · exact hu.wf
  · rfl
  · rfl
  · exact hu.evq

/-- A pending lost count is written where one slot is left. -/
theorem wrote_flushLost (hw : Tab.wf EvQueue.init s.evqs = true) (ho : (s.evq q).open_ = true) (hp : (s.evq q).pend ≠ 0)
    (hr : 1 ≤ (s.evq q).room) :
    Wrote q s (s.flushLost q) [s.lostAt q (s.evq q).tail (s.evq q).pend] (s.evq q).flush := by
  have h0 := wrote_updEvq (q := q) hw (fun e => { e with pend := 0 }) rfl rfl
  have h1 := wrote_writeRec (q := q) h0.wf ⟨0x30, 0xFFFF, 0xFFFF, 0, (s.evq q).pend⟩
  rw [h0.evq, h0.path.recordAt_eq] at h1
  have hf : s.flushLost q = State.writeRec { s with evqs := s.evqs.upd EvQueue.init q fun e => { e with pend := 0 } } q
      ⟨0x30, 0xFFFF, 0xFFFF, 0, (s.evq q).pend⟩ false := by
    simp [State.flushLost, ho, hp, hr]
  rw [hf]
  exact h0.trans h1

/-- Else it waits. -/
theorem flushLost_waits (h : ¬((s.evq q).open_ = true ∧ (s.evq q).pend ≠ 0 ∧ 1 ≤ (s.evq q).room)) : s.flushLost q = s := by
  have hc : ((s.evq q).open_ && decide ((s.evq q).pend ≠ 0) && decide (1 ≤ (s.evq q).room)) = false := by
    rw [← Bool.not_eq_true]
    simpa [and_assoc] using h
  simp only [State.flushLost, hc]
  rfl

/-- With two slots left after the lost count, a record is written. -/
theorem emit_written (ha : s.alive = true) (ht : s.flushLost q = t) (ho : (t.evq q).open_ = true) (hr : 2 ≤ (t.evq q).room) :
    s.emit q b = t.writeRec q b false := by
  simp [State.emit, ha, State.emitF, ht, ho, hr]

/-- The state in which a record of a queue was dropped: it is counted in EVQ_LOST and pends. -/
def State.dropRec (s : State) (q : Nat) : State :=
  { s with evqs := s.evqs.upd EvQueue.init q fun e => { e with lost := ((s.evq q).lost.inc s.pins.now).1, pend := e.pend + 1 } }

/-- A dropped record writes nothing. -/
theorem wrote_dropRec (hw : Tab.wf EvQueue.init s.evqs = true) : Wrote q s (s.dropRec q) [] ((s.evq q).drop s.pins.now) :=
  wrote_updEvq hw (fun e => { e with lost := ((s.evq q).lost.inc s.pins.now).1, pend := e.pend + 1 }) rfl rfl

/-- Else it is dropped, and the lost count is written where a slot is left for it. -/
theorem emit_dropped (ha : s.alive = true) (ht : s.flushLost q = t) (h : ¬((t.evq q).open_ = true ∧ 2 ≤ (t.evq q).room)) (hc : (t.evq q).Calm) :
    s.emit q b = (t.dropRec q).flushLost q := by
  have hd : ((t.evq q).open_ && decide (2 ≤ (t.evq q).room)) = false := by
    rw [← Bool.not_eq_true]
    simpa using h
  simp [State.emit, ha, State.emitF, ht, hd, (hc.inc t.pins.now).2, State.dropRec]

/-- The lost count takes one slot of the room. -/
theorem EvQueue.room_flush {e : EvQueue} (h : e.InRange) (hr : 1 ≤ e.room) : e.flush.room = e.room - 1 :=
  EvQueue.room_advance (e := { e with pend := 0 }) h hr

/-- Two records move TAIL on by two. -/
theorem EvQueue.tail_advance_twice (n : Nat) : ((n + 1) % 4294967296 + 1) % 4294967296 = (n + 2) % 2 ^ 32 := by omega

/-- A record that finds no room once the lost count has gone, or waited: it is dropped and counted, and where one slot is left its own
lost count is written at once. -/
theorem wrote_emit_dropped (ha : s.alive = true) {rs : List Rec} {e : EvQueue} (h0 : Wrote q s (s.flushLost q) rs e)
    (hroom : ¬(e.open_ = true ∧ 2 ≤ e.room)) (hc : e.Calm) :
    (e.open_ = true → 1 ≤ e.room → Wrote q s (s.emit q b) (rs ++ [s.lostAt q e.tail (e.pend + 1)]) (e.drop s.pins.now).flush) ∧
    (¬(e.open_ = true ∧ 1 ≤ e.room) → Wrote q s (s.emit q b) rs (e.drop s.pins.now)) := by
  have hnow : (s.flushLost q).pins.now = s.pins.now := by rw [h0.path]
  have h1 : Wrote q s ((s.flushLost q).dropRec q) rs (e.drop s.pins.now) := by
    have h := h0.trans (wrote_dropRec h0.wf)
    rwa [h0.evq, hnow, List.append_nil] at h
  rw [emit_dropped ha rfl (by rwa [h0.evq]) (by rwa [h0.evq])]
  refine ⟨fun ho hr => ?_, fun noSlot => ?_⟩
  · have h2 := wrote_flushLost (q := q) h1.wf (by rw [h1.evq]; exact ho) (by rw [h1.evq]; exact Nat.succ_ne_zero _) (by rw [h1.evq]; exact hr)
    rw [h1.evq, State.lostAt, h1.path.recordAt_eq] at h2
    exact h1.trans h2
  · rw [flushLost_waits]
    · exact h1
    · rw [h1.evq]
      rintro ⟨ho, -, hr⟩
      exact noSlot ⟨ho, hr⟩

/-- The two fields that a record's bytes carry in one word. -/
theorem recBytes_eq (r : Rec) : r.bytes = leBytes 4 r.seq ++ leBytes 1 r.type ++ leBytes 1 r.sev ++ leBytes 2 r.ctx ++ leBytes 2 r.queue ++
    leBytes 2 (r.bearing + r.tracker * 2 ^ 13) ++ leBytes 4 r.tag ++ leBytes 4 r.pass ++ leBytes 12 r.payload := by
  simp only [Rec.bytes, Nat.reducePow]

end Sys2Proof.Machine

open Sys2Proof Sys2Proof.Machine

/-- Settles O36: by the room that is left, a record is written, or its lost count is, or it waits to be. -/
theorem recordsAreWrittenOrCounted : Obligations.RecordsAreWrittenOrCounted := by
  intro s q b hs e t is lost slot ring calm counts
  have hw : Tab.wf EvQueue.init s.evqs = true := by
    simp only [State.tablesOk, Bool.and_eq_true] at hs
    exact hs.1.2
  have waits : ¬(e.open_ = true ∧ e.pend ≠ 0 ∧ 1 ≤ e.room) → Wrote q s (s.flushLost q) [] e := fun h => by
    rw [flushLost_waits h]
    exact .refl q hw
  have flushed : e.open_ = true → e.pend ≠ 0 → 1 ≤ e.room → Wrote q s (s.flushLost q) [s.lostAt q e.tail e.pend] e.flush := wrote_flushLost hw
  have same : ∀ seq, is (s.recordAt q seq b) seq := fun _ => ⟨rfl, rfl, rfl, rfl, rfl, rfl, rfl, rfl, rfl, rfl⟩
  have lostIs : ∀ seq n, lost (s.lostAt q seq n) seq n := fun _ _ => ⟨rfl, rfl, rfl, rfl, rfl⟩
  have counted : ∀ {rs e'}, calm → Wrote q s t rs e' → e'.lost = (e.lost.inc s.pins.now).1 → counts := fun hc h he => by
    show (t.evq q).lost.value = _
    rw [h.evq, he]
    exact (EvQueue.Calm.inc hc _).1
  refine ⟨fun r => ⟨length_recBytes r, recBytes_eq r⟩, ?takes, ?last, ?pending, ?full, emit_closed s q b⟩
  case takes =>
    intro h
    have h1 : Wrote q s t _ _ := (emit_takes s q b h).symm ▸ wrote_writeRec hw b
    exact ⟨_, h1.log, same _, congrArg EvQueue.tail h1.evq, h1.fp⟩
  case last =>
    rintro ⟨ha, ho, hr⟩ hp h1 hc
    have h := (wrote_emit_dropped (b := b) ha (waits fun h => h.2.1 hp) (fun h => by omega) hc).1 ho (by omega)
    rw [hp] at h
    exact ⟨_, h.log, lostIs _ _, congrArg EvQueue.pend h.evq, counted hc h rfl, congrArg EvQueue.tail h.evq, h.fp⟩
  case pending =>
    rintro ⟨ha, ho, hr⟩ hp
    have room : 1 ≤ e.room → e.flush.room = e.room - 1 := EvQueue.room_flush hr
    refine ⟨fun h3 => ?_, fun h2 hc => ?_, fun h1 hc => ?_⟩
    · have hroom := room (by omega)
      have h0 := flushed ho hp (by omega)
      have h := h0.trans (wrote_writeRec (q := q) h0.wf b)
      rw [h0.evq, h0.path.recordAt_eq, ← emit_written ha rfl (by rw [h0.evq]; exact ho) (by rw [h0.evq]; omega)] at h
      exact ⟨_, _, h.log, lostIs _ _, same _, congrArg EvQueue.pend h.evq,
        (congrArg EvQueue.tail h.evq).trans (EvQueue.tail_advance_twice _), h.fp⟩
    · have hroom := room (by omega)
      have h := (wrote_emit_dropped (b := b) ha (flushed ho hp (by omega)) (fun h => by omega) hc).1 ho (by omega)
      exact ⟨_, _, h.log, lostIs _ _, lostIs _ _, congrArg EvQueue.pend h.evq, counted hc h rfl,
        (congrArg EvQueue.tail h.evq).trans (EvQueue.tail_advance_twice _), h.fp⟩
    · have hroom := room (by omega)
      have h := (wrote_emit_dropped (b := b) ha (flushed ho hp (by omega)) (fun h => by omega) hc).2 (fun h => by omega)
      exact ⟨_, h.log, lostIs _ _, congrArg EvQueue.pend h.evq, counted hc h rfl, congrArg EvQueue.tail h.evq, h.fp⟩
  case full =>
    intro ha hno hc
    have noSlot : ¬(e.open_ = true ∧ 1 ≤ e.room) := by
      rintro ⟨ho, hr⟩
      rcases hno with h | h
      · exact absurd (h.symm.trans ho) (by decide)
      · omega
    have h := (wrote_emit_dropped (b := b) ha (waits fun h => noSlot ⟨h.1, h.2.2⟩) (fun h => noSlot ⟨h.1, by omega⟩) hc).2 noSlot
    exact ⟨h.log.trans (List.append_nil _), h.fp.trans (List.append_nil _), counted hc h rfl, congrArg EvQueue.pend h.evq,
      by rw [h.evq]; rfl⟩
end

section
/-! PROOFS. What a detection leads to: the frame of an abort, what it leaves of its command and of the caches, what leaving service
and starting an isolation leave, and the rows of the monitors and the scrubber. -/

namespace Sys2Proof.Machine

open Sys2Proof

variable {s t : State} {id : CmdId} {x : Cmd}

/-! ## The event path -/

/-- The event path leaves the service state as it is. -/
theorem EventPath.flt (h : EventPath s t) : t.flt = s.flt := Eq.trans (congrArg State.flt h) rfl

/-- It leaves the Almanac as it is. -/
theorem EventPath.alm (h : EventPath s t) : t.alm = s.alm := Eq.trans (congrArg State.alm h) rfl

/-- It leaves memory as it is. -/
theorem EventPath.mem (h : EventPath s t) : t.mem = s.mem := Eq.trans (congrArg State.mem h) rfl

/-- It leaves the commands as they are. -/
theorem EventPath.cmds (h : EventPath s t) : t.cmds = s.cmds := Eq.trans (congrArg State.cmds h) rfl

/-! ## Aborts -/

/-- Commands are found by their names in the list of commands alone. -/
theorem cmd_congr (h : t.cmds = s.cmds) (id : CmdId) : t.cmd id = s.cmd id := by simp only [State.cmd, h]

/-- A later state of an abort: it differs in the commands and their units, the transfers and writes they have asked for, the queues, the
streams, and on the event path. -/
def AbortPath (s t : State) : Prop :=
  t = { s with cmds := t.cmds, rts := t.rts, cmqs := t.cmqs, evqs := t.evqs, log := t.log, fp := t.fp, fpOut := t.fpOut, fpRun := t.fpRun
               memq := t.memq, mos := t.mos, arrs := t.arrs, tiles := t.tiles, feed := t.feed }

/-- Nothing done. -/
theorem AbortPath.refl (s : State) : AbortPath s s := rfl

/-- One change after another. -/
theorem AbortPath.trans {u : State} (h : AbortPath s t) (h' : AbortPath t u) : AbortPath s u := by
  unfold AbortPath at h h' ⊢
  rw [h', h]

/-- What the event path changes, an abort may. -/
theorem EventPath.abortPath (h : EventPath s t) : AbortPath s t := by
  unfold EventPath at h
  unfold AbortPath
  rw [h]

/-- An abort leaves the service state as it was. -/
theorem AbortPath.flt (h : AbortPath s t) : t.flt = s.flt := Eq.trans (congrArg State.flt h) rfl

/-- The record of a command is on the event path. -/
theorem cmdRec_path (s : State) (c : Cmd) (type payload : Nat) : EventPath s (s.cmdRec c type payload) := by
  unfold State.cmdRec
  exact (EventPath.trans (setEvqs_path s _) (writeRec_path _ _ _ _)).trans (setEvqs_path _ _)

/-- A queue that ends draining changes the queues only. -/
theorem drainQueue_abortPath (s : State) (q : Nat) : AbortPath s (s.drainQueue q) := by
  unfold State.drainQueue
  split <;> rfl

/-- A deadline that is armed changes the commands only. -/
theorem arm_abortPath (s : State) (q : Nat) : AbortPath s (s.arm q) := by
  unfold State.arm
  split
  · rfl
  · split <;> rfl

/-- A command that leaves the engine. -/
theorem closeCmd_abortPath (s : State) (id : CmdId) (type payload : Nat) : AbortPath s (s.closeCmd id type payload) := by
  unfold State.closeCmd
  split
  case h_1 => rfl
  case h_2 c _ =>
    extract_lets s1 s2 s3
    have h1 : AbortPath s s1 := AbortPath.trans (t := s.fpStop id) rfl (cmdRec_path (s.fpStop id) c type payload).abortPath
    clear_value s1
    have h3 : AbortPath s2 s3 := by
      unfold s3
      split <;> rfl
    exact ((h1.trans (rfl : AbortPath s1 s2)).trans h3).trans ((drainQueue_abortPath _ _).trans (arm_abortPath _ _))

/-- A command whose units stop. -/
theorem stopUnits_abortPath (s : State) (id : CmdId) : AbortPath s (s.stopUnits id) := by
  have h1 : AbortPath s (s.fpStop id) := rfl
  have h2 : ∀ u : State, AbortPath u (u.wrStop id) := fun _ => rfl
  have h3 : ∀ u : State, AbortPath u (u.lookStop fun x => x.cmd == some id) := fun _ => rfl
  have h4 : ∀ u : State, AbortPath u (u.freeUnits id) := fun _ => rfl
  exact ((h1.trans (h2 _)).trans (h3 _)).trans (h4 _)

/-- A command that leaves its stream. -/
theorem leaveStream_abortPath (s : State) (id : CmdId) (ctx : Nat) : AbortPath s (s.leaveStream id ctx) := rfl

/-- The abort of a command that has begun, and has no cause yet. -/
theorem abort_begun (hx : s.cmd id = some x) (hb : x.phase = .begun) (hc : x.cause = none) (c : Cause) :
    s.abort id c = State.leaveStream ((s.updCmd id fun x => { x with phase := .aborting, cause := some c, since := s.pins.now }).stopUnits id)
      id x.ctx := by
  simp [State.abort, hx, hb, hc, Cmd.waiting]

/-- An abort changes what its path allows, whatever phase the command is in. -/
theorem abort_path (s : State) (id : CmdId) (c : Cause) : AbortPath s (s.abort id c) := by
  unfold State.abort
  split
  · rfl
  · split
    · rfl
    · split
      · exact closeCmd_abortPath _ _ _ _
      · exact (AbortPath.trans (rfl : AbortPath s (s.updCmd id _)) (stopUnits_abortPath _ id)).trans (leaveStream_abortPath _ _ _)

/-- Aborts of a list of commands change what an abort may. -/
theorem aborts_path (c : Cause) (ids : List CmdId) (s : State) : AbortPath s (ids.foldl (fun s id => s.abort id c) s) := by
  induction ids generalizing s with
  | nil => rfl
  | cons id ids ih => exact (abort_path s id c).trans (ih _)

/-- An aborted command leaves its lines in the caches. -/
theorem abort_begun_caches (hx : s.cmd id = some x) (hb : x.phase = .begun) (hc : x.cause = none) (c : Cause) :
    (s.abort id c).feed.atlas = s.feed.atlas ∧ (s.abort id c).feed.cch = s.feed.cch := by
  rw [abort_begun hx hb hc]
  exact ⟨rfl, rfl⟩

/-- Stopping a command's units keeps its phase and its cause. -/
theorem cmd_stopUnits (hx : s.cmd id = some x) : ∃ y, (s.stopUnits id).cmd id = some y ∧ y.phase = x.phase ∧ y.cause = x.cause := by
  let fpOwed := ((fpKeepSent (fun u => fpOwner u == some id) s.fp s.fpOut).filter fun r => fpOwner r.use == some id && !fpIsRead r.use).length
  have hf : (s.fpStop id).cmd id = some { x with fpOwed := fpOwed } :=
    (cmd_updCmd (s := s) id id (fun c => { c with fpOwed := fpOwed }) fun _ => rfl).trans (by simp [hx])
  let owed := ((s.fpStop id).memStop (.cmd id) ((((s.fpStop id).cmd id).map (·.owed)).getD [])).1
  have hw : ((s.fpStop id).wrStop id).cmd id = some { x with fpOwed := fpOwed, owed := owed } :=
    (cmd_updCmd (s := s.fpStop id) id id (fun c => { c with owed := owed }) fun _ => rfl).trans (by simp [hf])
  exact ⟨_, hw, rfl, rfl⟩

/-- An aborted command is ABORTING with the cause given. -/
theorem cmd_abort_begun (hx : s.cmd id = some x) (hb : x.phase = .begun) (hc : x.cause = none) (c : Cause) :
    ∃ y, (s.abort id c).cmd id = some y ∧ y.phase = .aborting ∧ y.cause = some c := by
  let f := fun x : Cmd => { x with phase := .aborting, cause := some c, since := s.pins.now }
  have hf : (s.updCmd id f).cmd id = some (f x) := (cmd_updCmd (s := s) id id f fun _ => rfl).trans (by simp [hx])
  obtain ⟨y, hy, hp, hcs⟩ := cmd_stopUnits hf
  rw [abort_begun hx hb hc]
  exact ⟨y, hy, hp, hcs⟩

/-! ## Leaving service, and isolations -/

/-- An engine that is alive is in service. -/
theorem out_of_alive (h : s.alive = true) : s.flt.out = false := by
  simp only [State.alive, Bool.and_eq_true, Bool.not_eq_true'] at h
  obtain ⟨⟨⟨⟨_, hout⟩, _⟩, _⟩, _⟩ := h
  exact hout

/-- An engine in service that leaves it: ALERT_N, the cause and its detail latched, no checkpoint, memory and commands as they were. -/
theorem leaveService_leaves (h : s.flt.out = false) {detail : Nat} (hd : detail < 2 ^ 64) (code : Nat) (ch tile : Option Nat) :
    let v := s.leaveService code ch tile detail
    v.flt.out = true ∧ v.flt.alert = true ∧ v.flt.cause = code ∧ v.flt.detail = detail ∧ v.alm.ckptOn = false ∧ v.mem = s.mem ∧
      v.cmds = s.cmds := by
  have hd' := Nat.mod_eq_of_lt hd
  refine ⟨?_, ?_, ?_, ?_, ?_, by rw [leaveService_frame], by rw [leaveService_frame]⟩ <;>
    simp only [State.leaveService, h, hd'] <;> rfl

/-- Leaving service stops no isolation in progress. -/
theorem leaveService_isoBusy (s : State) (code : Nat) (ch tile : Option Nat) (detail : Nat) :
    (s.leaveService code ch tile detail).flt.isoBusy = s.flt.isoBusy := by
  unfold State.leaveService
  split
  · rfl
  · dsimp only
    rw [addLife_frame, safety_path]

/-- Nor does the count of escalations, which may lead to it. -/
theorem countEsc_isoBusy (s : State) (code detail : Nat) : (s.countEsc code detail).flt.isoBusy = s.flt.isoBusy := by
  have either : ∀ (p : Prop) [Decidable p] (u : State),
      (if p then u.leaveService code none none detail else u).flt.isoBusy = u.flt.isoBusy := by
    intro p _ u
    split
    · exact leaveService_isoBusy u code none none detail
    · rfl
  exact either _ _

/-- A channel in service can be isolated. -/
theorem chThere_of_chOn {ch : Nat} (h : s.chOn ch = true) : s.chThere ch = true := by
  simp only [State.chOn, State.chThere, Bool.and_eq_true] at h ⊢
  obtain ⟨⟨⟨hbuilt, _⟩, hisolated⟩, hbusy⟩ := h
  exact ⟨⟨hbuilt, hisolated⟩, hbusy⟩

/-- The isolation of a channel beside which another one serves is BUSY. -/
theorem isolate_isoBusy {ch k : Nat} (ho : s.flt.out = false) (hc : s.chOn ch = true) (hk : k < 4) (hne : k ≠ ch) (hon : s.chOn k = true)
    (cause : Cause) (code detail : Nat) (tile : Option Nat) :
    (s.isolate ch cause code detail tile).flt.isoBusy = putBits s.flt.isoBusy ch 1 1 := by
  have hlast : ¬((List.range 4).all fun c => c = ch || !s.chOn c) = true := by
    intro h
    have := List.all_eq_true.mp h k (List.mem_range.mpr hk)
    simp [hne, hon] at this
  have hgo : ¬(!s.chThere ch || s.flt.out) = true := by simp [chThere_of_chOn hc, ho]
  unfold State.isolate
  rw [if_neg hgo, if_neg hlast]
  extract_lets victims _ s1 s2 s3
  have h2 : s2.flt = s1.flt := by
    unfold s2
    rw [safety_path, addLife_frame]
  have h3 : s3.flt = s2.flt := (aborts_path cause victims s2).flt
  rw [countEsc_isoBusy, h3, h2]

/-! ## The rows -/

/-- A row that stores nothing leaves memory as it was. -/
theorem exec_quiet_mem {c : Instr} (hq : c.quiet = true) (h : exec c s = .next t) : t.mem = s.mem := (quietCommandsKeepMemory c s t hq h).1

/-- No build has more than 256 tiles. -/
theorem tile_lt_of_tileOn {k : Nat} (h : s.tileOn k = true) : k < 256 := by
  have hn : s.build.size.tiles ≤ 256 := by cases s.build.size <;> decide
  simp only [State.tileOn, Bool.and_eq_true, decide_eq_true_eq] at h
  omega

/-- SEQUENCER_MISMATCH of a sequencer that is no channel's: the engine leaves service, the sequencer's number the detail. -/
theorem sequencerMismatch_other (ha : s.alive = true) {u : SeqUnit} {n : Nat}
    (hu : (u, n) ∈ [(SeqUnit.command, 4), (.context, 5), (.traverse, 6), (.mosaic, 7), (.safety, 8)]) :
    exec (.sequencerMismatch u) s = .next (s.leaveService 0x0602 none none n) ∧ n < 2 ^ 64 := by
  simp only [List.mem_cons, List.not_mem_nil, or_false] at hu
  rcases hu with ⟨rfl, rfl⟩ | ⟨rfl, rfl⟩ | ⟨rfl, rfl⟩ | ⟨rfl, rfl⟩ | ⟨rfl, rfl⟩ <;>
    exact ⟨by simp [exec, execSequencerMismatch, ha], by decide⟩

/-- CLOCK_MONITOR of a tile in service. -/
theorem clockMonitor_eq (ha : s.alive = true) {k : Nat} (hk : s.tileOn k = true) (mhz : Nat) :
    exec (.clockMonitor k mhz) s = .next ((s.tileFault k 0x0603 (k + mhz % 65536 * 65536)).queueTile k) := by
  simp [exec, execClockMonitor, ha, hk]

/-- A fault of a tile whose array runs a command: the command's abort, and a record. -/
theorem tileFault_running {k : Nat} (h : s.opOfTile k = some id) (code detail : Nat) :
    EventPath (s.abort id (Cause.own code detail)) (s.tileFault k code detail) := by
  simp only [State.tileFault, h]
  exact safety_path _ _ _ _ _ _

/-- A fault of a tile whose array runs none: a record. -/
theorem tileFault_idle {k : Nat} (h : s.opOfTile k = none) (code detail : Nat) : EventPath s (s.tileFault k code detail) := by
  simp only [State.tileFault, h]
  exact safety_path _ _ _ _ _ _

/-- A tile that is queued for self-test. -/
theorem queued_queueTile {k : Nat} (h : k < s.tiles.length) : ((s.queueTile k).tile k).queued = true := by
  rw [State.tile, State.queueTile, getD_updAt, if_pos ⟨rfl, h⟩]

/-- The state in which a rail is known to be out of range: of VDD_CORE this stays (R360). -/
def State.markRail (s : State) (rail : Nat) : State := { s with pins := { s.pins with coreOut := s.pins.coreOut || rail == 0 } }

/-- The mark is for VDD_CORE alone. -/
theorem markRail_eq (s : State) (rail : Nat) : (if rail = 0 then { s with pins := { s.pins with coreOut := true } } else s) = s.markRail rail := by
  unfold State.markRail
  by_cases h : rail = 0
  · rw [if_pos h, beq_iff_eq.mpr h, Bool.or_true]
  · rw [if_neg h, beq_false_of_ne h, Bool.or_false]

/-- SUPPLY of a rail that its monitor acts on, out of range: the engine leaves service. -/
theorem supply_leaves {rail mv : Nat} (hr : rail % 4 ≠ 3) (hp : s.pins.poreset = false) (hm : railOk (rail % 4) mv = false) :
    exec (.supply rail mv) s = .next ((s.markRail (rail % 4)).leaveService 0x0608 none none (rail % 4 + mv % 65536 * 65536)) := by
  have hgo : ¬(s.pins.poreset || railOk (rail % 4) mv) = true := by simp [hp, hm]
  simp only [exec, execSupply, if_neg hr, if_neg hgo, markRail_eq]

/-- Of the rails 0 to 2, one whose level lies below or above its limits is out of range (R27, R403). -/
theorem railOk_outside {rail mv : Nat}
    (h : (rail = 0 ∧ (mv < 650 ∨ 850 < mv)) ∨ (rail = 1 ∧ (mv < 710 ∨ 790 < mv)) ∨ (rail = 2 ∧ mv < 700)) : railOk rail mv = false := by
  rcases h with ⟨rfl, h⟩ | ⟨rfl, h⟩ | ⟨rfl, h⟩ <;> simp only [railOk, Bool.and_eq_false_iff, decide_eq_false_iff_not] <;> omega

/-- VDD_AON_B that falls out of range: BACKUP_OK falls, with a record where it had stood. -/
theorem backupLow_leaves (s : State) : ∃ v, execBackupLow s = .next v ∧ v.alm.backupOk = false ∧ v.flt.out = s.flt.out ∧ v.mem = s.mem := by
  by_cases h : s.alm.backupOk = true
  · have hp := emitEngine_path { s with alm := { s.alm with backupOk := false } } 0x48 (4 + s.alm.life.getD 0 0 * 4294967296)
    exact ⟨_, by rw [execBackupLow, if_pos h, State.almRec], congrArg Alm.backupOk hp.alm, congrArg Flt.out hp.flt, hp.mem⟩
  · exact ⟨s, by simp [execBackupLow, h], by simpa using h, rfl, rfl⟩

/-- A performance counter below its last value counts. -/
theorem addPerf_counts {i : PerfId} {n : Nat} (h : (s.perf i).value + n < 2 ^ 48) :
    s.addPerf i n = s.countPerf i ⟨(s.perf i).value + n, (s.perf i).wrap, (s.perf i).wrapAt,
      (s.pins.now, recentOf (s.perf i).recent s.pins.now + n)⟩ := if_pos h

/-- DROOP of a tile in service whose mode set rides it: the clock is lowered, and the droop counts. -/
theorem droop_lowers (ha : s.alive = true) {k : Nat} (hk : s.tileOn k = true) (hm : bits (s.tileMode k) 5 1 = 0)
    (hd : (s.tiles.getD k Tile.init).drooping = false) (hc : s.pwrDroops.value + 1 < 2 ^ 48) (mhz : Nat) :
    exec (.droop k mhz) s = .next { s with
      tiles := updAt s.tiles k fun u => { u with drooping := true, freq := max 2600 mhz }
      pwrDroops := { s.pwrDroops with value := s.pwrDroops.value + 1, recent := (s.pins.now, recentOf s.pwrDroops.recent s.pins.now + 1) } } := by
  have hgo : (s.alive && s.tileOn k && bits (s.tileMode k) 5 1 == 0 && !(s.tiles.getD k Tile.init).drooping) = true := by
    rw [ha, hk, hm, hd]; rfl
  simp only [exec, execDroop, if_pos hgo]
  refine congrArg Host.Outcome.next (Eq.trans (addPerf_counts ?_) rfl)
  exact hc

/-- DROOP where the mode set does not ride it, or the tile rides one already. -/
theorem droop_ignored {k : Nat} (h : bits (s.tileMode k) 5 1 ≠ 0 ∨ (s.tiles.getD k Tile.init).drooping = true) (mhz : Nat) :
    exec (.droop k mhz) s = .next s := by
  rcases h with h | h <;> simp [exec, execDroop, h, -List.getD_eq_getElem?_getD]

/-- DROOP_CLEAR of a tile that rides a droop. -/
theorem droopClear_clears (ha : s.alive = true) {k : Nat} (hk : s.tileOn k = true) (hd : (s.tiles.getD k Tile.init).drooping = true) :
    exec (.droopClear k) s = .next { s with tiles := updAt s.tiles k fun u => { u with drooping := false } } := by
  simp [exec, execDroopClear, ha, hk, hd, -List.getD_eq_getElem?_getD]

/-- An uncorrectable error changes the Almanac and the event path only. -/
theorem sramError_frame (s : State) (code store word action : Nat) (ch : Option Nat) :
    let v := s.sramError code store word action ch
    v = { s with alm := v.alm, evqs := v.evqs, log := v.log, fp := v.fp, fpOut := v.fpOut, fpRun := v.fpRun } := by
  dsimp only
  unfold State.sramError
  rw [safety_path, addLife_frame]

/-- It counts itself where its life counter has room. -/
theorem sramError_counts (h : s.alm.life.getD 25 0 < 2 ^ 64 - 2) (code store word action : Nat) (ch : Option Nat) :
    EventPath { s with alm := { s.alm with life := setAt s.alm.life 25 (s.alm.life.getD 25 0 + 1) } } (s.sramError code store word action ch) := by
  unfold State.sramError
  rw [addLife_counts _ _ _ (by omega)]
  exact safety_path _ _ _ _ _ _

/-- A line that is dropped is in no channel cache, and not in the Atlas. -/
theorem dropLine_gone (f : Feed) (l : Nat) :
    (∀ c ∈ (f.dropLine l).cch, l ∉ c) ∧ (Tab.wf none f.atlas = true → Tab.get none (f.dropLine l).atlas l = none) := by
  constructor
  · intro c hc hl
    obtain ⟨d, _, rfl⟩ := List.mem_map.mp hc
    simp at hl
  · intro h
    simp [Feed.dropLine, Tab.get_set _ h]

/-- The state in which a line is gone from every cache. -/
def State.withoutLine (s : State) (l : Nat) : State := { s with feed := s.feed.dropLine l }

/-- The guard of SCRUB: the engine is in service, and PORESET_N is released. -/
theorem scrub_open (hp : s.pins.poreset = false) (ho : s.flt.out = false) : ¬(s.pins.poreset || s.flt.out) = true := by simp [hp, ho]

/-- SCRUB of a corrected error: it counts in its store's life counter. -/
theorem scrub_corrected (hp : s.pins.poreset = false) (ho : s.flt.out = false) {k : Nat} (hk : k < 9)
    (hl : s.alm.life.getD (16 + k) 0 < 2 ^ 64 - 2) :
    exec (.scrub (.corrected k)) s = .next { s with
      alm := { s.alm with life := setAt s.alm.life (16 + k) (s.alm.life.getD (16 + k) 0 + 1) } } := by
  simp only [exec, execScrub, if_neg (scrub_open hp ho), if_pos hk]
  rw [addLife_counts _ _ _ (by omega)]

/-- SCRUB of an error in a cache line: the line is dropped. -/
theorem scrub_cacheLine (hp : s.pins.poreset = false) (ho : s.flt.out = false) (store word l : Nat) :
    exec (.scrub (.cacheLine store word l)) s = .next ((s.withoutLine l).sramError 0x0605 store word 4 none) := by
  simp only [exec, execScrub, if_neg (scrub_open hp ho)]
  rfl

/-- SCRUB of an error in a word that a command has consumed: the line is dropped, and the command aborted. -/
theorem scrub_consumed (ha : s.alive = true) (hp : s.pins.poreset = false) (ho : s.flt.out = false) (store word l : Nat) (id : CmdId) :
    exec (.scrub (.consumed store word l id)) s = .next
      (((s.withoutLine l).sramError 0x0605 store word 0 none).abort id (sramCause store word)) := by
  have hv : ((s.withoutLine l).sramError 0x0605 store word 0 none).alive = true := by
    rw [sramError_frame]; exact ha
  simp only [exec, execScrub, if_neg (scrub_open hp ho)]
  exact congrArg Host.Outcome.next (if_pos hv)

/-- SCRUB of an error in control state: it counts, and the engine leaves service. -/
theorem scrub_control (hp : s.pins.poreset = false) (ho : s.flt.out = false) {store word : Nat} (hs : store < 256) (hw : word < 2 ^ 56) :
    exec (.scrub (.control store word)) s = .next ((s.addLife 25 1).leaveService 0x0607 none none (store + word * 256)) := by
  simp only [exec, execScrub, if_neg (scrub_open hp ho), Nat.mod_eq_of_lt hs, Nat.mod_eq_of_lt hw]

end Sys2Proof.Machine

open Sys2Proof Sys2Proof.Machine

/-- Settles O58: row by row, a detection isolates, aborts, counts or takes the engine out of service. -/
theorem detectionsAct : Obligations.DetectionsAct := by
  intro s hsize left
  obtain ⟨_, _, _, htiles, _⟩ := hsize
  refine ⟨?channel, ?sequencer, ?clock, ?clockIdle, ?supplyOk, ?backup, ?supplyOut, ?droop, ?scrub⟩
  case channel =>
    intro ch k ha hch hk hne hon
    have hv : exec (.sequencerMismatch (.channel ch)) s = .next (s.isolate ch (Cause.own 0x0602 ch) 0x0602 ch none) := by
      simp [exec, execSequencerMismatch, ha]
    refine ⟨_, hv, ?_, exec_quiet_mem rfl hv⟩
    rw [isolate_isoBusy (out_of_alive ha) hch hk hne hon, testBit_putBits_one]
    simp
  case sequencer =>
    intro u n hu ha
    obtain ⟨hv, hn⟩ := sequencerMismatch_other ha hu
    exact ⟨_, hv, leaveService_leaves (out_of_alive ha) hn _ _ _⟩
  case clock =>
    intro t mhz x ha ht ho hx hb hc
    have hv := clockMonitor_eq ha ht mhz
    have hp := tileFault_running ho 0x0603 (t + mhz % 65536 * 65536)
    obtain ⟨y, hy, hyp, hyc⟩ := cmd_abort_begun hx hb hc (Cause.own 0x0603 (t + mhz % 65536 * 65536))
    have hlen : (s.tileFault t 0x0603 (t + mhz % 65536 * 65536)).tiles.length = 256 :=
      (keeps_tileFault (Keeps.refl true s) t 0x0603 _).kTiles htiles
    refine ⟨_, y, hv, (cmd_congr hp.cmds x.id).trans hy, hyp, by simp [hyc, Cause.own], ?_, exec_quiet_mem rfl hv⟩
    exact queued_queueTile (by rw [hlen]; exact tile_lt_of_tileOn ht)
  case clockIdle =>
    intro t mhz ha ht ho
    refine ⟨_, clockMonitor_eq ha ht mhz, ?_⟩
    rw [tileFault_idle ho]
    rfl
  case supplyOk =>
    intro rail mv hr h
    rcases h with h | h <;> simp [exec, execSupply, hr, h]
  case backup =>
    intro rail mv hr
    constructor
    · intro hm
      simp [exec, execSupply, hr, railOk, hm, execVddAonBReturn]
    · intro hm
      simpa [exec, execSupply, hr, railOk, Nat.not_le.mpr hm] using backupLow_leaves s
  case supplyOut =>
    intro rail mv hr hp ho hm
    have hd : rail % 4 + mv % 65536 * 65536 < 2 ^ 64 := by omega
    refine ⟨_, supply_leaves hr hp (railOk_outside hm), leaveService_leaves (s := s.markRail (rail % 4)) ho hd _ _ _, ?_⟩
    rw [leaveService_frame]
    rfl
  case droop =>
    intro t mhz ha ht
    exact ⟨fun hm hd hc => droop_lowers ha ht hm hd hc mhz, fun h => droop_ignored h mhz, droopClear_clears ha ht⟩
  case scrub =>
    intro hp ho
    refine ⟨fun k hk hl => scrub_corrected hp ho hk hl, ?cacheLine, ?consumed, ?control⟩
    case cacheLine =>
      intro k w l hl
      exact ⟨_, scrub_cacheLine hp ho k w l, sramError_counts (s := s.withoutLine l) hl _ _ _ _ _⟩
    case consumed =>
      intro k w l x ha hx hb hc
      have hv := scrub_consumed ha hp ho k w l x.id
      generalize hu : (s.withoutLine l).sramError 0x0605 k w 0 none = u at hv
      have hcmds : u.cmds = s.cmds := by rw [← hu, sramError_frame]; rfl
      have hfeed : u.feed = s.feed.dropLine l := by rw [← hu, sramError_frame]; rfl
      have hx' : u.cmd x.id = some x := (cmd_congr hcmds x.id).trans hx
      obtain ⟨y, hy, hyp, hyc⟩ := cmd_abort_begun hx' hb hc (sramCause k w)
      obtain ⟨hatlas, hcch⟩ := abort_begun_caches hx' hb hc (sramCause k w)
      obtain ⟨hgone, hnone⟩ := dropLine_gone s.feed l
      refine ⟨_, y, hv, hy, hyp, by simp [hyc, sramCause, Cause.own], ?_, fun h => ?_, exec_quiet_mem rfl hv⟩
      · rw [hcch, hfeed]; exact hgone
      · rw [State.aline, hatlas, hfeed]; exact hnone h
    case control =>
      intro k w hk hw
      have ho' : (s.addLife 25 1).flt.out = false := by rw [addLife_frame]; exact ho
      obtain ⟨hout, halert, hcause, hdetail, hckpt, -, hcmds⟩ :=
        leaveService_leaves ho' (detail := k + w * 256) (by omega) 0x0607 none none
      have hv := scrub_control hp ho hk hw
      exact ⟨_, hv, hout, halert, hcause, hdetail, hckpt, exec_quiet_mem rfl hv, hcmds.trans (by rw [addLife_frame])⟩
end

section
/-! PROOFS. A channel's Spur buffer with one place left and two threads that have a line for it: the statement on feeding fails there. -/

namespace Sys2Proof.Machine

open Sys2Proof

/-- A MATVEC in execution on the Spur, whose operands the feeders fetch. -/
def spurCmd : Cmd := { (default : Cmd) with id := ⟨2, 0⟩, ctx := 1, raw := 8, phase := .begun, run := { RunInfo.none with spur := true } }

/-- A thread that feeds an operand of it. -/
def spurThread (slot : Nat) (st : TState) (todo : List SeqLine) (outst : List (Nat × Bool)) : Thread :=
  { Thread.init with st := st, cmd := some spurCmd.id, stream := .spur slot, todo := todo, outst := outst, slot := slot }

/-- The engine in service with 511 of the 512 lines of channel 3's Spur buffer taken (R89). Thread 0 waits for room with the last line of
its sequence, 300, which has come; thread 1 is READY to request the last line of its own, 301. The channel cache holds both. -/
def crowdedSpur : State :=
  { State.reset with
    lgd := { State.reset.lgd with inForce := some { (default : Legend) with channels := 15, ctxLog2 := 12 }, standalone := false }
    cmds := [spurCmd]
    feed := { State.reset.feed with
      cch := [[], [], [], [300, 301]]
      threads := setAt State.reset.feed.threads 3
        (spurThread 0 .waitSpace [] [(300, true)] :: spurThread 1 .ready [⟨301, 0⟩] [] :: List.replicate 30 Thread.init)
      spur := [[], [], [], (List.range 511).map fun n => (spurCmd.id, n, List.replicate 256 0)] } }

/-- The state in which LINE_REQUEST chooses the ACTIVE thread: the sequencer of channel 3 has had its chance to assign (R221). -/
def crowdedTurn : State := State.giveThreads 3 32 (crowdedSpur.countSpurWait 3)

/-- Channel 3 serves, and thread 1 has the turn: it can issue its one request, for a line that the channel cache holds. -/
theorem crowdedTurn_requests :
    (crowdedSpur.alive = true ∧ crowdedSpur.chOn 3 = true ∧ 3 < crowdedSpur.feed.cch.length ∧ 3 < crowdedSpur.feed.spur.length) ∧
      crowdedTurn.activeThread 3 = some 1 ∧ crowdedTurn.thread 3 1 = spurThread 1 .ready [⟨301, 0⟩] [] ∧
      crowdedTurn.canIssue 3 (crowdedTurn.thread 3 1) = true ∧ crowdedTurn.cached 3 301 = true := by
  decide +kernel

/-- The line of thread 0 takes the last place of the buffer, and thread 1 keeps its own, which has come, to deliver it once there is room (R221). -/
theorem lineRequest_crowdedSpur {v : State} (h : exec (.lineRequest 3) crowdedSpur = .next v) :
    v.thread 3 0 = Thread.init ∧ (v.thread 3 1).outst = [(301, true)] ∧ (v.feed.spur.getD 3 []).length = 512 := by
  injection h with h
  subst h
  decide +kernel

end Sys2Proof.Machine

open Sys2Proof Sys2Proof.Machine

/-- Refutes O51: the line a request finds in the channel cache is delivered in its turn only while its consumer has room (R89, R221). In
crowdedSpur a thread before it, whose line has come earlier, takes the last place of the Spur's buffer with the same event, so that the
thread which requested is not FREE afterwards, as the statement says of every state. -/
theorem not_feedersFetch : ¬ Obligations.FeedersFetch := by
  intro h
  obtain ⟨⟨halive, hon, hcch, hspur⟩, hactive, hthread, hissue, hcached⟩ := crowdedTurn_requests
  obtain ⟨⟨_, _, request⟩, _⟩ := h crowdedSpur 3 1 halive hon hcch hspur
  obtain ⟨_, hit⟩ := request 1 ⟨301, 0⟩ [] hactive (congrArg Thread.todo hthread) hissue
  have hturn : State.giveThreads 3 32 (crowdedSpur.countSpurWait 3) = crowdedTurn := rfl
  obtain ⟨v, hv, hfree, _⟩ := hit 1 spurCmd.id hcached (by rw [hturn, hthread]; rfl)
  obtain ⟨_, hwaits, _⟩ := lineRequest_crowdedSpur hv
  rw [hfree] at hwaits
  exact absurd hwaits (by decide)
end

section
/-! PROOFS. A completion: what a command's regions, workspace and updates may do before its record, the entries its pops remove, the
record with which it leaves, and the fields of that record's payload (R122, R165, R170, R219, R251, R281, R328, R365). -/

namespace Sys2Proof.Machine

open Sys2Proof

variable {s t u : State} {c x : Cmd} {id : CmdId}

/-! ## Records that name no command -/

/-- A record of the engine's own: its CONTEXT and its QUEUE say that it names no command. -/
def Rec.OfEngine (r : Rec) : Prop := r.ctx = 0xFFFF ∧ r.queue = 0xFFFF

/-- From s to t the log has grown by records of the engine's own, and by no others. -/
def EngineRecords (s t : State) : Prop := ∃ rs, t.log = s.log ++ rs ∧ ∀ r ∈ rs, r.OfEngine

/-- No record at all. -/
theorem EngineRecords.of_log (h : t.log = s.log) : EngineRecords s t := ⟨[], by simpa using h, by simp⟩

/-- One run of records after another. -/
theorem EngineRecords.trans (h : EngineRecords s t) (h' : EngineRecords t u) : EngineRecords s u := by
  obtain ⟨rs, hl, hr⟩ := h
  obtain ⟨rs', hl', hr'⟩ := h'
  exact ⟨rs ++ rs', by rw [hl', hl, List.append_assoc], fun r hm => (List.mem_append.mp hm).elim (hr r) (hr' r)⟩

/-- A record written stands at the end of the log. -/
theorem writeRec_log (s : State) (q : Nat) (b : RecBody) (now : Bool) :
    (s.writeRec q b now).log = s.log ++ [s.recordAt q (s.evq q).tail b] := by
  unfold State.writeRec
  dsimp only
  rw [fpAdd_frame]
  rfl

/-- A record of the engine's own that is written. -/
theorem engineRecords_writeRec (s : State) (q : Nat) {b : RecBody} (hb : b.ctx = 0xFFFF ∧ b.queue = 0xFFFF) (now : Bool) :
    EngineRecords s (s.writeRec q b now) :=
  ⟨_, writeRec_log s q b now, List.forall_mem_singleton.mpr hb⟩

/-- A lost count is reported by a record of the engine's own. -/
theorem engineRecords_flushLost (s : State) (q : Nat) : EngineRecords s (s.flushLost q) := by
  unfold State.flushLost
  dsimp only
  split
  · exact EngineRecords.trans (.of_log rfl) (engineRecords_writeRec _ q ⟨rfl, rfl⟩ _)
  · exact .of_log rfl

/-- What one record of the engine's own leads to, by lost counts and their thresholds, are records of its own. -/
theorem engineRecords_emitF (n : Nat) (s : State) (q : Nat) {b : RecBody} (hb : b.ctx = 0xFFFF ∧ b.queue = 0xFFFF) :
    EngineRecords s (State.emitF n s q b) := by
  induction n generalizing s q b with
  | zero => exact .of_log rfl
  | succ n ih =>
    unfold State.emitF
    have hf := engineRecords_flushLost s q
    generalize s.flushLost q = t at hf ⊢
    dsimp only
    split
    · exact hf.trans (engineRecords_writeRec t q hb _)
    · refine EngineRecords.trans ?_ (engineRecords_flushLost _ q)
      split
      · exact (hf.trans (.of_log rfl)).trans (ih _ _ ⟨rfl, rfl⟩)
      · exact hf.trans (.of_log rfl)

/-- A record of the engine queue names no command. -/
theorem engineRecords_emitEngine (s : State) (type payload : Nat) : EngineRecords s (s.emitEngine type payload) := by
  unfold State.emitEngine State.emit
  split
  · exact engineRecords_emitF 3 s _ ⟨rfl, rfl⟩
  · exact .of_log rfl

/-! ## Performance counters -/

/-- A performance counter counts modulo 2⁴⁸; where it passes its end a record follows. -/
theorem addPerf_path (s : State) (i : PerfId) (n : Nat) :
    ∃ k : PerfCtr, k.value = ((s.perf i).value + n) % 2 ^ 48 ∧ EventPath (s.countPerf i k) (s.addPerf i n) := by
  unfold State.addPerf
  dsimp only
  split
  case isTrue h => exact ⟨_, (Nat.mod_eq_of_lt h).symm, .refl _⟩
  case isFalse => exact ⟨_, rfl, emitEngine_path _ _ _⟩

/-- Counting writes nothing. -/
theorem countPerf_log (s : State) (i : PerfId) (k : PerfCtr) : (s.countPerf i k).log = s.log := by
  cases i
  case stall =>
    simp only [State.countPerf]
    split <;> rfl
  all_goals rfl

/-- What a performance counter records names no command. -/
theorem engineRecords_addPerf (s : State) (i : PerfId) (n : Nat) : EngineRecords s (s.addPerf i n) := by
  unfold State.addPerf
  dsimp only
  split
  · exact .of_log (countPerf_log _ _ _)
  · exact EngineRecords.trans (.of_log (countPerf_log _ _ _)) (engineRecords_emitEngine _ _ _)

/-- The event path leaves the run-time states as they are. -/
theorem EventPath.rts (h : EventPath s t) : t.rts = s.rts := Eq.trans (congrArg State.rts h) rfl

/-- It leaves the Traverse as it is. -/
theorem EventPath.trv (h : EventPath s t) : t.trv = s.trv := Eq.trans (congrArg State.trv h) rfl

/-- So does an abort, or a command that leaves. -/
theorem AbortPath.trv (h : AbortPath s t) : t.trv = s.trv := Eq.trans (congrArg State.trv h) rfl

/-! ## What precedes the record -/

/-- From s to t no command has left, and none has changed but in its phase; every stack and the Traverse stand as they stood, and what has
been recorded names no command. -/
structure Unrecorded (s t : State) : Prop where
  records : EngineRecords s t
  cmd : ∀ id x, s.cmd id = some x → ∃ p, t.cmd id = some { x with phase := p }
  stack : Tab.wf CtxRt.init s.rts = true → Tab.wf CtxRt.init t.rts = true ∧ ∀ k, (t.rt k).stack = (s.rt k).stack
  trv : t.trv = s.trv

/-- A run that records no command's end, and changes neither commands nor run-time states. -/
theorem Unrecorded.of_same (hr : EngineRecords s t) (hc : t.cmds = s.cmds) (hk : t.rts = s.rts) (ht : t.trv = s.trv) : Unrecorded s t where
  records := hr
  cmd := fun _ x hx => ⟨x.phase, (cmd_congr hc _).trans hx⟩
  stack := fun hw => ⟨by rwa [hk], fun k => by simp only [State.rt, hk]⟩
  trv := ht

/-- Nothing done. -/
theorem Unrecorded.refl (s : State) : Unrecorded s s := .of_same (.of_log rfl) rfl rfl rfl

/-- One run after another. -/
theorem Unrecorded.trans (h : Unrecorded s t) (h' : Unrecorded t u) : Unrecorded s u where
  records := h.records.trans h'.records
  cmd := fun id x hx => by
    obtain ⟨p, hp⟩ := h.cmd id x hx
    obtain ⟨p', hp'⟩ := h'.cmd id _ hp
    exact ⟨p', hp'⟩
  stack := fun hw => by
    obtain ⟨hw', hs⟩ := h.stack hw
    obtain ⟨hw'', hs'⟩ := h'.stack hw'
    exact ⟨hw'', fun k => (hs' k).trans (hs k)⟩
  trv := h'.trv.trans h.trv

/-- A choice between two such runs. -/
theorem Unrecorded.ite {p : Prop} [Decidable p] (h : Unrecorded s t) (h' : Unrecorded s u) : Unrecorded s (if p then t else u) := by
  split
  · exact h
  · exact h'

/-- Such runs over a list. -/
theorem Unrecorded.foldl {α : Type} {f : State → α → State} (hf : ∀ s a, Unrecorded s (f s a)) (l : List α) (s : State) :
    Unrecorded s (l.foldl f s) := by
  induction l generalizing s with
  | nil => exact .refl s
  | cons a l ih => exact (hf s a).trans (ih _)

/-- The Mosaic stream of a context. -/
theorem unrecorded_updStream (s : State) (k : Nat) (f : Stream → Stream) : Unrecorded s (s.updStream k f) where
  records := .of_log rfl
  cmd := fun _ x hx => ⟨x.phase, hx⟩
  stack := fun hw => ⟨Tab.wf_upd _ hw k fun r => { r with stream := f r.stream }, fun j => by
    rw [State.updStream, rt_updRt s hw]
    split
    case isTrue h => rw [h]
    case isFalse => rfl⟩
  trv := rfl

/-- The phase of a command. -/
theorem unrecorded_phase (s : State) (id : CmdId) (f : Cmd → Phase) : Unrecorded s (s.updCmd id fun x => { x with phase := f x }) where
  records := .of_log rfl
  cmd := fun k x hx => by
    rw [cmd_updCmd (s := s) id k (fun x => { x with phase := f x }) fun _ => rfl]
    by_cases hk : k = id
    · subst hk
      exact ⟨f x, by simp [hx]⟩
    · exact ⟨x.phase, by simp [hk, hx]⟩
  stack := fun hw => ⟨hw, fun _ => rfl⟩
  trv := rfl

/-- A write of the engine's own to a region record or an update record. -/
theorem unrecorded_ownWrite (s : State) (k a : Nat) (bs : List Byte) : Unrecorded s (s.ownWrite k a bs) := by
  have poke : ∀ (s : State) (w : Nat × Byte), Unrecorded s (s.pokeMem w.1 w.2) := fun s w => .of_same (.of_log rfl) rfl rfl rfl
  have hw : Unrecorded s (s.fpWrite a bs) := (Unrecorded.foldl poke _ s).trans (.of_same (.of_log rfl) rfl rfl rfl)
  have hadd : ∀ (s : State) rs, Unrecorded s (s.fpAdd rs) := fun s rs => by
    rw [fpAdd_frame]
    exact .of_same (.of_log rfl) rfl rfl rfl
  exact hw.trans (hadd _ _)

/-- The regions a completion settles. -/
theorem unrecorded_completeRegions (s : State) (c : Cmd) : Unrecorded s (s.completeRegions c) := by
  have state : ∀ (s : State) k r, Unrecorded s (s.setRState c.ctx k r) := fun s k r => unrecorded_ownWrite s _ _ _
  have flip : ∀ (s : State) k, Unrecorded s (s.flipSel c.ctx k) := fun s k => unrecorded_ownWrite s _ _ _
  unfold State.completeRegions
  extract_lets touched covered done stepped
  have htouched : Unrecorded s touched := .foldl (fun s k => ((flip s k).ite (.refl s)).trans ((state _ k 1).ite (.refl _))) _ s
  have hcovered : Unrecorded touched covered := (Unrecorded.foldl (fun s k => state s k 0) _ _).ite (.refl _)
  have hstepped : Unrecorded covered stepped := unrecorded_updStream _ _ _
  refine (htouched.trans hcovered).trans (.ite (hstepped.trans ?_) (.refl _))
  split
  · exact state _ _ 0
  · exact .refl _

/-- The workspace left undefined. -/
theorem unrecorded_spillWorkspace (s : State) (c : Cmd) : Unrecorded s (s.spillWorkspace c) := by
  unfold State.spillWorkspace
  have undefine : ∀ (s : State) a n, Unrecorded s (s.undefine a n) := fun s a n => .of_same (.of_log rfl) rfl rfl rfl
  exact (Unrecorded.refl s).ite (.foldl (fun s _ => (undefine s _ _).ite (.refl s)) _ s)

/-- A commit writes the update record and counts. -/
theorem unrecorded_commitRec (s : State) (k : Nat) (v : UpdRec) : Unrecorded s (s.commitRec k v) := by
  have count : ∀ (s : State) i, i = .skips ∨ i = .commits → Unrecorded s (s.addPerf i 1) := fun s i hi => by
    obtain ⟨n, -, hp⟩ := addPerf_path s i 1
    rcases hi with rfl | rfl <;> exact .of_same (engineRecords_addPerf s _ 1) hp.cmds hp.rts hp.trv
  exact (unrecorded_ownWrite s _ _ _).trans (count _ _ (by cases v.skipped <;> simp))

/-- The commits of a sealed round. -/
theorem unrecorded_commitUpdates (s : State) (k : Nat) : Unrecorded s (s.commitUpdates k) := by
  unfold State.commitUpdates
  exact (Unrecorded.foldl (fun s v => unrecorded_commitRec s k v) _ s).trans (unrecorded_updStream _ k _)

/-- The gathers that follow a commit. -/
theorem unrecorded_settleGathers (s : State) (k : Nat) : Unrecorded s (s.settleGathers k) := by
  unfold State.settleGathers
  refine .foldl (fun s g => ?_) _ s
  have flip : Unrecorded s (if s.recBit g.state 4 = 1 then s.flipWork k g.state else s) := (unrecorded_ownWrite s _ _ _).ite (.refl s)
  exact (flip.trans (unrecorded_phase _ g.cmd _)).trans (unrecorded_updStream _ k _)

/-- The completion of a SHARD_UPDATE. -/
theorem unrecorded_completeUpdate (s : State) (c : Cmd) : Unrecorded s (s.completeUpdate c) := by
  unfold State.completeUpdate
  refine (Unrecorded.refl s).ite ?_
  split
  · exact .refl s
  · exact ((unrecorded_ownWrite s _ _ _).trans (unrecorded_updStream _ _ _)).trans
      ((unrecorded_commitUpdates _ _).trans (unrecorded_settleGathers _ _))

/-- What a completing command leaves before its pops and its record. -/
def State.settled (s : State) (c : Cmd) : State := ((s.completeRegions c).spillWorkspace c).completeUpdate c

/-- No command leaves with it. -/
theorem unrecorded_settled (s : State) (c : Cmd) : Unrecorded s (s.settled c) :=
  ((unrecorded_completeRegions s c).trans (unrecorded_spillWorkspace _ c)).trans (unrecorded_completeUpdate _ c)

/-! ## Pops -/

/-- The entries that a command named with READ_POP. -/
def Cmd.popsEntry (c : Cmd) (e : TrvEntry) : Bool := c.frames.any fun f => f.pop && f.entry == e.id

/-- The names of the lowest entry of a stack that is to be popped, and of every entry above it (R165). -/
def poppedIds (p : TrvEntry → Bool) (l : List TrvEntry) : List Nat := (l.dropWhile fun e => !p e).map (·.id)

/-- The frames among the entries of a stack that have one of these names. -/
def framesNamed (ids : List Nat) (l : List TrvEntry) : List TrvEntry := l.filter fun e => ids.contains e.id && !e.mark

/-- An entry that leaves the stack for resolution where it has one of these names. -/
def TrvEntry.leave (ids : List Nat) (e : TrvEntry) : TrvEntry := if ids.contains e.id then { e with removed := true } else e

/-- Dropping up to the first element of a kind is dropping as many as lie before it. -/
theorem dropWhile_eq_drop_of_find_range {α : Type} {l : List α} {d : α} {p : α → Bool} {i : Nat}
    (h : ((List.range l.length).find? fun i => p (l.getD i d)) = some i) : (l.dropWhile fun a => !p a) = l.drop i := by
  obtain ⟨hp, hi, hbefore⟩ := List.find?_range_eq_some.mp h
  have hlt : i < l.length := List.mem_range.mp hi
  rw [List.dropWhile_eq_drop_findIdx_not]
  congr 1
  simp only [Bool.not_not]
  refine (List.findIdx_eq hlt).mpr ⟨by simpa [hlt] using hp, fun j hj => ?_⟩
  simpa [Nat.lt_trans hj hlt] using hbefore j hj

/-- Where no element is of a kind, dropping those of no such kind drops all. -/
theorem dropWhile_eq_nil_of_forall {α : Type} {l : List α} {p : α → Bool} (h : ∀ a ∈ l, p a = false) : (l.dropWhile fun a => !p a) = [] := by
  induction l with
  | nil => rfl
  | cons a l ih =>
    obtain ⟨ha, hl⟩ := List.forall_mem_cons.mp h
    rw [List.dropWhile_cons_of_pos (by rw [ha]; rfl), ih hl]

/-- A search that finds no place of the kind. -/
theorem dropWhile_eq_nil_of_find_range {α : Type} {l : List α} {d : α} {p : α → Bool}
    (h : ((List.range l.length).find? fun i => p (l.getD i d)) = none) : (l.dropWhile fun a => !p a) = [] := by
  refine dropWhile_eq_nil_of_forall fun a ha => ?_
  obtain ⟨i, hi, rfl⟩ := List.getElem_of_mem ha
  simpa [hi] using List.find?_range_eq_none.mp h i hi

/-- A name is among those popped. -/
theorem contains_names (c : Cmd) (e : TrvEntry) : ((c.frames.filter (·.pop)).map (·.entry)).contains e.id = c.popsEntry e := by
  rw [Bool.eq_iff_iff]
  simp [Cmd.popsEntry, and_assoc]

/-- The pops of a command: nothing where it names no entry of the stack, else the removal of the lowest one named and all above it. -/
theorem popFrames_eq (s : State) (c : Cmd) :
    s.popFrames c = if poppedIds c.popsEntry (s.rt c.ctx).live = [] then s else
      s.trvRemove c.ctx (poppedIds c.popsEntry (s.rt c.ctx).live) ((c.frames.filter (·.pop)).map (·.entry)) := by
  unfold State.popFrames
  dsimp only
  simp only [contains_names]
  split
  case h_1 h => simp [poppedIds, dropWhile_eq_nil_of_find_range h]
  case h_2 i h =>
    have hi : i < (s.rt c.ctx).live.length := List.mem_range.mp (List.mem_of_find?_eq_some h)
    have hne : (s.rt c.ctx).live.drop i ≠ [] := by simpa using hi
    rw [poppedIds, dropWhile_eq_drop_of_find_range h, if_neg (by simpa using hne)]

/-- Entries that have left for resolution are no longer live. -/
theorem live_leave (r : CtxRt) (ids : List Nat) :
    CtxRt.live { r with stack := r.stack.map (TrvEntry.leave ids) } = r.live.filter fun e => !ids.contains e.id := by
  have entry : ∀ e : TrvEntry, ((TrvEntry.leave ids e).removed = false ↔ e.removed = false ∧ ids.contains e.id = false) ∧
      (ids.contains e.id = false → TrvEntry.leave ids e = e) := fun e => by
    by_cases h : e.id ∈ ids <;> simp [TrvEntry.leave, h]
  simp only [CtxRt.live]
  induction r.stack with
  | nil => rfl
  | cons e l ih =>
    rw [List.map_cons, List.filter_cons, List.filter_cons, ih]
    obtain ⟨hremoved, hsame⟩ := entry e
    cases hi : ids.contains e.id <;> cases hr : e.removed <;> simp_all

/-- From s to t the entries of context k that p names, and all above them, have left for resolution: the frames that p names count as pops
and the others as discards, and nothing is recorded of a command (R165, R170). -/
structure Popped (k : Nat) (p : TrvEntry → Bool) (s t : State) : Prop where
  records : EngineRecords s t
  cmds : t.cmds = s.cmds
  wf : Tab.wf CtxRt.init s.rts = true → Tab.wf CtxRt.init t.rts = true
  live : Tab.wf CtxRt.init s.rts = true →
    (t.rt k).live = (s.rt k).live.filter fun e => !(poppedIds p (s.rt k).live).contains e.id
  others : Tab.wf CtxRt.init s.rts = true → ∀ j, j ≠ k → (t.rt j).stack = (s.rt j).stack
  idle : poppedIds p (s.rt k).live = [] → t.trv = s.trv
  counts : poppedIds p (s.rt k).live ≠ [] →
    let gone := framesNamed (poppedIds p (s.rt k).live) (s.rt k).live
    t.trv.pops.value = (s.trv.pops.value + (gone.filter p).length) % 2 ^ 48 ∧
      t.trv.discards.value = (s.trv.discards.value + (gone.length - (gone.filter p).length)) % 2 ^ 48

/-- Where p names no entry, nothing leaves. -/
theorem Popped.none {k : Nat} {p : TrvEntry → Bool} (h : poppedIds p (s.rt k).live = []) : Popped k p s s where
  records := .of_log rfl
  cmds := rfl
  wf := id
  live := fun _ => by
    rw [h]
    exact (List.filter_eq_self.mpr fun _ _ => rfl).symm
  others := fun _ _ _ => rfl
  idle := fun _ => rfl
  counts := fun hne => absurd h hne

/-- What a removal leaves: the entries named have left, and its frames are counted, as pops or as discards. -/
theorem trvRemove_leaves (s : State) (k : Nat) (ids popped : List Nat) :
    let gone := framesNamed ids (s.rt k).live
    let pops := (gone.filter fun e => popped.contains e.id).length
    let t := s.trvRemove k ids popped
    EngineRecords s t ∧ t.cmds = s.cmds ∧ t.rts = s.rts.upd CtxRt.init k (fun r => { r with stack := r.stack.map (TrvEntry.leave ids) }) ∧
      t.trv.pops.value = (s.trv.pops.value + pops) % 2 ^ 48 ∧
      t.trv.discards.value = (s.trv.discards.value + (gone.length - pops)) % 2 ^ 48 := by
  intro gone pops
  let left := s.updRt k fun r => { r with stack := r.stack.map (TrvEntry.leave ids) }
  have hgone : ((s.rt k).live.filter fun e => ids.contains e.id).filter (fun e => !e.mark) = gone := by
    simp only [gone, framesNamed, List.filter_filter, Bool.and_comm]
  have heq : s.trvRemove k ids popped = (left.addPerf .pops pops).addPerf .discards (gone.length - pops) := by
    simp only [State.trvRemove, hgone]
    rfl
  rw [heq]
  obtain ⟨n, hn, hpops⟩ := addPerf_path left .pops pops
  obtain ⟨m, hm, hdiscards⟩ := addPerf_path (left.addPerf .pops pops) .discards (gone.length - pops)
  refine ⟨?_, hdiscards.cmds.trans hpops.cmds, hdiscards.rts.trans hpops.rts, ?_, ?_⟩
  · exact (EngineRecords.of_log rfl).trans ((engineRecords_addPerf left _ _).trans (engineRecords_addPerf _ _ _))
  · rw [hdiscards.trv]
    show (left.addPerf .pops pops).trv.pops.value = _
    rw [hpops.trv]
    exact hn
  · rw [hdiscards.trv]
    refine hm.trans ?_
    show ((left.addPerf .pops pops).trv.discards.value + _) % _ = _
    rw [hpops.trv]
    rfl

/-- A removal of the entries that p names and all above them, those popped being the ones that p names. -/
theorem popped_trvRemove (s : State) (k : Nat) {p : TrvEntry → Bool} {popped : List Nat} (hp : ∀ e : TrvEntry, popped.contains e.id = p e)
    (hne : poppedIds p (s.rt k).live ≠ []) : Popped k p s (s.trvRemove k (poppedIds p (s.rt k).live) popped) := by
  obtain ⟨hrecords, hcmds, hrts, hpops, hdiscards⟩ := trvRemove_leaves s k (poppedIds p (s.rt k).live) popped
  simp only [hp] at hpops hdiscards
  have hrt := fun hw j => (congrArg (Tab.get CtxRt.init · j) hrts).trans (Tab.get_upd CtxRt.init hw k j _)
  exact {
    records := hrecords
    cmds := hcmds
    wf := fun hw => by
      rw [hrts]
      exact Tab.wf_upd _ hw k _
    live := fun hw => (congrArg CtxRt.live ((hrt hw k).trans (if_pos rfl))).trans (live_leave _ _)
    others := fun hw j hj => congrArg CtxRt.stack ((hrt hw j).trans (if_neg hj))
    idle := fun h => absurd h hne
    counts := fun _ => ⟨hpops, hdiscards⟩ }

/-- The pops of a command that completes. -/
theorem popped_popFrames (s : State) (c : Cmd) : Popped c.ctx c.popsEntry s (s.popFrames c) := by
  rw [popFrames_eq]
  split
  case isTrue h => exact .none h
  case isFalse h => exact popped_trvRemove s c.ctx (contains_names c) h

/-! ## The record -/

/-- A command's record goes to its context's event queue, with its context, its queue and its TAG. -/
def State.recordOf (s : State) (c : Cmd) (seq type payload : Nat) : Rec := s.recordAt c.evq seq ⟨type, c.ctx, c.id.q, c.tag, payload⟩

/-- It stands at the end of the log. -/
theorem cmdRec_log (s : State) (c : Cmd) (type payload : Nat) :
    ∃ seq, (s.cmdRec c type payload).log = s.log ++ [s.recordOf c seq type payload] := ⟨_, writeRec_log _ _ _ _⟩

/-- The state in which a command has got its record and has left, before its queue goes on. -/
def State.dismiss (s : State) (c : Cmd) (type payload : Nat) : State :=
  let s1 := (s.fpStop c.id).cmdRec c type payload
  let s2 := { s1 with cmds := s1.cmds.filter fun x => x.id != c.id, arrs := s1.arrs.map (Arr.leave c.id) }
  if type = 0x02 then s2.updRt c.ctx CtxRt.countRec else s2

/-- A command is found under its own name. -/
theorem id_of_cmd (h : s.cmd id = some x) : x.id = id := by simpa using List.find?_some h

/-- A command leaves, and then its queue goes on. -/
theorem closeCmd_eq (h : s.cmd id = some x) (type payload : Nat) :
    s.closeCmd id type payload = State.arm ((s.dismiss x type payload).drainQueue id.q) id.q := by
  obtain rfl := id_of_cmd h
  simp only [State.closeCmd, h]
  rfl

/-- A queue that ends draining changes the queues only. -/
theorem drainQueue_frame (s : State) (q : Nat) : s.drainQueue q = { s with cmqs := (s.drainQueue q).cmqs } := by
  unfold State.drainQueue
  split <;> rfl

/-- A deadline that is armed changes the commands only. -/
theorem arm_frame (s : State) (q : Nat) : s.arm q = { s with cmds := (s.arm q).cmds } := by
  unfold State.arm
  split
  · rfl
  · split <;> rfl

/-- Arming a deadline brings no command back. -/
theorem cmd_arm_none (h : s.cmd id = none) (q : Nat) : (s.arm q).cmd id = none := by
  have upd : ∀ (y : CmdId) (a : Option (Nat × Nat)), (s.updCmd y fun x => { x with armed := a }).cmd id = none := fun y a => by
    rw [cmd_updCmd (s := s) y id (fun x => { x with armed := a }) fun _ => rfl]
    split
    case isTrue hid => rw [← hid, h, Option.map_none]
    case isFalse => exact h
  unfold State.arm
  split
  · exact h
  · split
    · exact h
    · exact upd _ _

/-- A queue that goes on writes no record. -/
theorem goesOn_log (s : State) (q : Nat) : (State.arm (s.drainQueue q) q).log = s.log := by
  rw [arm_frame, drainQueue_frame]

/-- It leaves the run-time states as they are. -/
theorem goesOn_rts (s : State) (q : Nat) : (State.arm (s.drainQueue q) q).rts = s.rts := by
  rw [arm_frame, drainQueue_frame]

/-- A command that leaves has one record, which names it. -/
theorem closeCmd_log (h : s.cmd id = some x) (type payload : Nat) :
    ∃ seq, (s.closeCmd id type payload).log = s.log ++ [s.recordOf x seq type payload] := by
  rw [closeCmd_eq h, goesOn_log, State.dismiss]
  split <;> exact cmdRec_log (s.fpStop x.id) x type payload

/-- It is found no more. -/
theorem cmd_closeCmd (s : State) (id : CmdId) (type payload : Nat) : (s.closeCmd id type payload).cmd id = none := by
  cases h : s.cmd id with
  | none => simp [State.closeCmd, h]
  | some x =>
    rw [closeCmd_eq h]
    refine cmd_arm_none ((cmd_congr (congrArg State.cmds (drainQueue_frame _ _)) id).trans ?_) _
    have hcmds : (s.dismiss x type payload).cmds = ((s.fpStop x.id).cmdRec x type payload).cmds.filter fun y => y.id != x.id := by
      unfold State.dismiss
      split <;> rfl
    rw [State.cmd, hcmds, List.find?_eq_none]
    intro y hy
    have hne := (List.mem_filter.mp hy).2
    rw [id_of_cmd h] at hne
    simpa using hne

/-- It leaves every stack as it was. -/
theorem closeCmd_stack (hw : Tab.wf CtxRt.init s.rts = true) (id : CmdId) (type payload k : Nat) :
    ((s.closeCmd id type payload).rt k).stack = (s.rt k).stack := by
  cases h : s.cmd id with
  | none => simp only [State.closeCmd, h]
  | some x =>
    have hrec : ((s.fpStop x.id).cmdRec x type payload).rts = s.rts := (cmdRec_path _ _ _ _).rts
    have hcount : (Tab.get CtxRt.init (s.rts.upd CtxRt.init x.ctx CtxRt.countRec) k).stack = (s.rt k).stack := by
      rw [Tab.get_upd _ hw]
      split
      case isTrue hk => rw [hk]; rfl
      case isFalse => rfl
    rw [closeCmd_eq h, State.rt, goesOn_rts, State.dismiss]
    split
    · rwa [← hrec] at hcount
    · exact congrArg (fun t => (Tab.get CtxRt.init t k).stack) hrec

/-! ## The payload -/

/-- What fields beside one another add up to. -/
def fieldSum : List (Nat × Nat × Nat) → Nat
  | [] => 0
  | (lo, _, x) :: fs => x * 2 ^ lo + fieldSum fs

/-- Fields laid out above what is there add to it. -/
theorem foldl_putBits_eq_sum {fs : List (Nat × Nat × Nat)} (ha : Ascending fs) (hx : ∀ f ∈ fs, f.2.2 < 2 ^ f.2.1) {v lo : Nat} (hv : v < 2 ^ lo)
    (hlo : ∀ f ∈ fs, lo ≤ f.1) :
    fs.foldl (fun n f => putBits n f.1 f.2.1 f.2.2) v = v + fieldSum fs := by
  induction fs generalizing v lo with
  | nil => rfl
  | cons f fs ih =>
    obtain ⟨habove, ha'⟩ := List.pairwise_cons.mp ha
    obtain ⟨hf, hx'⟩ := List.forall_mem_cons.mp hx
    have hvf : v < 2 ^ f.1 := Nat.lt_of_lt_of_le hv (Nat.pow_le_pow_right (by decide) (hlo f List.mem_cons_self))
    have hnext : v + f.2.2 * 2 ^ f.1 < 2 ^ (f.1 + f.2.1) := by
      have : (f.2.2 + 1) * 2 ^ f.1 ≤ 2 ^ f.2.1 * 2 ^ f.1 := Nat.mul_le_mul_right _ hf
      rw [Nat.add_mul, Nat.one_mul] at this
      rw [Nat.pow_add, Nat.mul_comm (2 ^ f.1)]
      omega
    rw [List.foldl_cons, putBits_above hvf hf, ih ha' hx' hnext habove, fieldSum, Nat.add_assoc]

/-- Fields that fit and do not overlap are packed by adding them up. -/
theorem pack_eq_sum {fs : List (Nat × Nat × Nat)} (ha : Ascending fs) (hx : ∀ f ∈ fs, f.2.2 < 2 ^ f.2.1) :
    pack fs = fieldSum fs :=
  (foldl_putBits_eq_sum ha hx (lo := 0) (by decide) fun _ _ => Nat.zero_le _).trans (Nat.zero_add _)

/-- What the last field of a completion record counts: for a SHARD_UPDATE elements that are not finite, else products cut off (R279, R328). -/
def Cmd.counted (c : Cmd) : Nat := if c.op = 0x12 then c.counts.nonfinite else c.counts.trunc

/-- The fields of a completion record's payload (R328). -/
def Cmd.payloadFields (c : Cmd) : List (Nat × Nat × Nat) :=
  [(0, 1, if c.counts.longsum then 1 else 0), (1, 1, if c.counts.skipped then 1 else 0), (2, 1, if c.counts.watch then 1 else 0),
    (8, 2, c.dataflowCode % 4), (10, 3, c.run.bucket % 8), (16, 24, min c.counts.ovf (2 ^ 24 - 1)), (40, 16, min c.counts.nanLost (2 ^ 16 - 1)),
    (56, 40, min c.counted (2 ^ 40 - 1))]

/-- They are laid out in rising order. -/
theorem ascending_payloadFields (c : Cmd) : Ascending c.payloadFields := by simp [Ascending, Cmd.payloadFields]

/-- Each fits its width. -/
theorem payloadFields_fit (c : Cmd) : ∀ f ∈ c.payloadFields, f.2.2 < 2 ^ f.2.1 := by
  have bit : ∀ b : Bool, (if b then 1 else 0) < 2 ^ 1 := by decide
  simp only [Cmd.payloadFields, List.forall_mem_cons]
  refine ⟨bit _, bit _, bit _, ?_, ?_, ?_, ?_, ?_, by simp⟩ <;> omega

/-- The payload packs them. -/
theorem payload_eq_pack (c : Cmd) : c.payload = pack c.payloadFields := by
  rw [pack_eq_sum (ascending_payloadFields c) (payloadFields_fit c)]
  have bit : ∀ (b : Bool) (n : Nat), (if b then n else 0) = (if b then 1 else 0) * n := by
    intro b n
    cases b <;> simp
  have last : min c.counted (2 ^ 40 - 1) = if c.op = 0x12 then min c.counts.nonfinite (2 ^ 40 - 1) else min c.counts.trunc (2 ^ 40 - 1) :=
    apply_ite (min · (2 ^ 40 - 1)) _ _ _
  simp only [Cmd.payload, ← last, bit _ 2, bit _ 4, Cmd.payloadFields, fieldSum]
  omega

/-- Each is read back from the record, whose payload has 96 bits. -/
theorem payload_reads (c : Cmd) : ∀ f ∈ c.payloadFields, bits (c.payload % 2 ^ 96) f.1 f.2.1 = f.2.2 := by
  have hlast : ∀ f ∈ c.payloadFields, f.1 + f.2.1 ≤ 96 := by simp [Cmd.payloadFields]
  intro f hf
  rw [bits_mod (hlast f hf), payload_eq_pack]
  exact bits_pack (ascending_payloadFields c) hf (payloadFields_fit c f hf)

/-- Between the fields the payload is 0. -/
theorem bits_payload_gap {lo w : Nat} (h : ∀ f ∈ c.payloadFields, f.1 + f.2.1 ≤ lo ∨ lo + w ≤ f.1) (hw : lo + w ≤ 96) :
    bits (c.payload % 2 ^ 96) lo w = 0 := by
  rw [bits_mod hw, payload_eq_pack]
  exact bits_pack_gap h

/-- The dataflow's code: none beside array operations, 3 on the Spur, 0 for GP_PAIR (R328). -/
theorem dataflowCode_mod (c : Cmd) : c.dataflowCode % 4 =
    if c.isArrayOp = false then 0 else if c.run.spur = true then 3 else if c.op = 1 then 0 else c.run.dataflow % 4 := by
  unfold Cmd.dataflowCode
  cases c.isArrayOp <;> cases c.run.spur <;> simp [apply_ite (· % 4)]

/-- A fault record's payload begins with its code (R329). -/
theorem payload_code (f : Cause) : f.payload % 2 ^ 96 % 2 ^ 16 = f.code % 2 ^ 16 := by
  unfold Cause.payload
  omega

/-! ## Completion -/

/-- The entries that a completion pops: those named with READ_POP, but none where the sum was longer than its guarantee (R122, R165). -/
def Cmd.popsAtEnd (c : Cmd) (e : TrvEntry) : Bool := !c.longsumFault && c.popsEntry e

/-- What a completion reports: its type and its payload (R122, R328). -/
def Cmd.report (c : Cmd) : Nat × Nat := if c.longsumFault then (0x02, (Cause.own 0x0303 c.longsumDetail).payload) else (0x01, c.payload)

/-- A change of a context's entry pops nothing. -/
theorem Popped.updCtx {k : Nat} {p : TrvEntry → Bool} (h : Popped k p s t) (j : Nat) (f : CtxEntry → CtxEntry) : Popped k p s (t.updCtx j f) :=
  { h with }

/-- A command completes: once its regions, workspace and updates are settled its pops are made, and it leaves with its record. -/
theorem complete_eq (s : State) (c : Cmd) :
    ∃ t, Popped c.ctx c.popsAtEnd (s.settled c) t ∧ s.complete c = t.closeCmd c.id c.report.1 c.report.2 := by
  have heq : s.complete c = if c.longsumFault then (s.settled c).closeCmd c.id 0x02 (Cause.own 0x0303 c.longsumDetail).payload
      else State.closeCmd (if c.op = 0x0B && c.markOp ≠ 0 then ((s.settled c).popFrames c).updCtx c.ctx fun e => { e with broken := false }
        else (s.settled c).popFrames c) c.id 0x01 c.payload := rfl
  rw [heq]
  cases hl : c.longsumFault
  case true =>
    have hnone : poppedIds c.popsAtEnd ((s.settled c).rt c.ctx).live = [] := by
      have hno : ∀ e ∈ ((s.settled c).rt c.ctx).live, c.popsAtEnd e = false := fun e _ => by rw [Cmd.popsAtEnd, hl]; rfl
      rw [poppedIds, dropWhile_eq_nil_of_forall hno, List.map_nil]
    exact ⟨_, .none hnone, by simp [Cmd.report, hl]⟩
  case false =>
    have hnames : c.popsAtEnd = c.popsEntry := by
      funext e
      simp [Cmd.popsAtEnd, hl]
    have hpops := popped_popFrames (s.settled c) c
    rw [hnames]
    refine ⟨_, ?_, by simp only [Cmd.report, hl]; rfl⟩
    split
    · exact hpops.updCtx _ _
    · exact hpops

/-- COMMAND_COMPLETE of a command whose work is done and answered completes it. -/
theorem exec_commandComplete (hc : s.cmd c.id = some c) (ha : s.alive = true) (hd : c.phase = .done) (ho : c.owed = []) (hf : c.fpOwed = 0) :
    exec (.commandComplete c.id) s = .next (s.complete c) := by
  have hexec : exec (.commandComplete c.id) s = execCommandComplete c.id s := rfl
  simp [hexec, execCommandComplete, hc, ha, hd, ho, hf]

end Sys2Proof.Machine

open Sys2Proof Sys2Proof.Machine

/-- Settles O39: what is settled before the record names no command, the record is the last, and the pops lie between. -/
theorem commandsComplete : Obligations.CommandsComplete := by
  intro s c hc ha hd ho hf
  obtain ⟨t, hp, heq⟩ := complete_eq s c
  have hv := unrecorded_settled s c
  obtain ⟨phase, hcv⟩ := hv.cmd c.id c hc
  obtain ⟨seq, hlog⟩ := closeCmd_log ((cmd_congr hp.cmds c.id).trans hcv) c.report.1 c.report.2
  obtain ⟨rs, hrs, hengine⟩ := hv.records.trans hp.records
  refine ⟨_, rs, _, (exec_commandComplete hc ha hd ho hf).trans (congrArg _ heq), cmd_closeCmd _ _ _ _, hlog.trans (by rw [hrs]), hengine,
    rfl, rfl, rfl, rfl, ?type, ?longsum, ?payload, ?pops⟩
  case type => exact apply_ite Prod.fst _ _ _
  case longsum =>
    intro hl
    show c.report.2 % 2 ^ 96 % 2 ^ 16 = 0x0303
    rw [Cmd.report, if_pos hl]
    exact payload_code (Cause.own 0x0303 c.longsumDetail)
  case payload =>
    intro hl
    have hr : c.report.2 = c.payload := by rw [Cmd.report, if_neg (by simp [hl])]
    have reads := payload_reads c
    have gap : ∀ lo w, (∀ f ∈ c.payloadFields, f.1 + f.2.1 ≤ lo ∨ lo + w ≤ f.1) → lo + w ≤ 96 → bits (c.payload % 2 ^ 96) lo w = 0 :=
      fun _ _ => bits_payload_gap
    rw [← hr] at reads gap
    simp only [Cmd.payloadFields, List.forall_mem_cons] at reads gap
    obtain ⟨hlongsum, hskipped, hwatch, hdataflow, hbucket, hovf, hnan, hcounted, -⟩ := reads
    exact ⟨hlongsum, hskipped, hwatch, gap 3 5 (by simp) (by decide), hdataflow.trans (dataflowCode_mod c), hbucket,
      gap 13 3 (by simp) (by decide), hovf, hnan, hcounted⟩
  case pops =>
    intro hok
    have hw : Tab.wf CtxRt.init s.rts = true := by
      simp only [State.tablesOk, Bool.and_eq_true] at hok
      exact hok.1.1.1.2
    obtain ⟨hwv, hstack⟩ := hv.stack hw
    have hlive : ((s.settled c).rt c.ctx).live = (s.rt c.ctx).live := congrArg (List.filter _) (hstack c.ctx)
    have hclose := closeCmd_stack (hp.wf hwv) c.id c.report.1 c.report.2
    have hidle := hp.idle
    have hcounts := hp.counts
    rw [hlive, hv.trv] at hidle hcounts
    rw [(closeCmd_abortPath t c.id c.report.1 c.report.2).trv]
    refine ⟨?_, fun k hk => ?_, hidle, hcounts⟩
    · exact (congrArg (List.filter _) (hclose c.ctx)).trans ((hp.live hwv).trans (by rw [hlive]; rfl))
    · exact (hclose k).trans ((hp.others hwv k hk).trans (hstack k))
end

section
/-! PROOFS. What issue leaves: the pieces a command asks the Footpath for, the copies of region records its context keeps, and the record
with which a command that fails a check leaves (R179, R236, R319, R329). -/

namespace Sys2Proof.Machine

open Sys2Proof

variable {s : State} {q : Nat} {c x : Cmd} {id : CmdId}

/-! ## Pieces asked for -/

/-- A piece joins a list that has none at its address. -/
def addPiece (l : List (Nat × Nat)) (p : Nat × Nat) : List (Nat × Nat) := if l.any fun q => q.1 == p.1 then l else l ++ [p]

/-- Pieces are joined to a list from those offered. -/
theorem mem_of_mem_foldl_addPiece {ps l : List (Nat × Nat)} {p : Nat × Nat} (h : p ∈ ps.foldl addPiece l) : p ∈ l ∨ p ∈ ps := by
  induction ps generalizing l with
  | nil => exact .inl h
  | cons a ps ih =>
    rcases ih h with hl | hps
    · unfold addPiece at hl
      split at hl
      · exact .inl hl
      · rcases List.mem_append.mp hl with hl | ha
        · exact .inl hl
        · exact .inr (List.mem_cons.mpr (.inl (List.mem_singleton.mp ha)))
    · exact .inr (List.mem_cons_of_mem _ hps)

/-- Each address offered, or there before, is in the list. -/
theorem exists_mem_foldl_addPiece {ps l : List (Nat × Nat)} {p : Nat × Nat} (h : p ∈ ps ∨ ∃ r ∈ l, r.1 = p.1) :
    ∃ r ∈ ps.foldl addPiece l, r.1 = p.1 := by
  induction ps generalizing l with
  | nil => simpa using h
  | cons a ps ih =>
    have keeps : ∀ r ∈ l, r ∈ addPiece l a := fun r hr => by
      unfold addPiece
      split
      · exact hr
      · exact List.mem_append_left _ hr
    have joins : ∃ r ∈ addPiece l a, r.1 = a.1 := by
      unfold addPiece
      split
      case isTrue ha => simpa using ha
      case isFalse => exact ⟨a, by simp, rfl⟩
    apply ih
    rcases h with h | ⟨r, hr, hp⟩
    · rcases List.mem_cons.mp h with rfl | h
      · exact .inr joins
      · exact .inl h
    · exact .inr ⟨r, keeps r hr, hp⟩

/-- Every piece that is not here is on its way once it has been asked for, and nothing is asked for that is not one of these pieces. -/
theorem askPieces_asks (s : State) (c : Cmd) (use : Nat → FpUse) (ps : List (Nat × Nat)) :
    let t := s.askPieces c use ps
    t = { s with fp := t.fp, fpOut := t.fpOut, fpRun := t.fpRun } ∧ (∀ p ∈ ps, c.hasPiece p = true ∨ ∃ r ∈ t.fp, r.use = use p.1) ∧
      ∃ rs, t.fp = s.fp ++ rs ∧ ∀ r ∈ rs, r.data = [] ∧ ∃ p ∈ ps, r.use = use p.1 ∧ r.addr = p.1 := by
  intro t
  let want := ps.filter fun p => !c.hasPiece p && !s.fp.any fun r => r.use == use p.1
  let rs : List FpReq := (want.foldl addPiece []).map fun p => ⟨use p.1, false, p.1, [], p.2⟩
  have hframe : t = { s with fp := s.fp ++ rs, fpOut := t.fpOut, fpRun := t.fpRun } := fpAdd_frame s rs
  have hfp : t.fp = s.fp ++ rs := congrArg State.fp hframe
  refine ⟨by rw [hfp]; exact hframe, fun p hp => ?_, rs, hfp, fun r hr => ?_⟩
  · rw [hfp]
    by_cases hw : p ∈ want
    · obtain ⟨a, ha, hap⟩ := exists_mem_foldl_addPiece (l := []) (.inl hw)
      exact .inr ⟨_, List.mem_append_right _ (List.mem_map_of_mem ha), congrArg use hap⟩
    · by_cases hh : c.hasPiece p = true
      · exact .inl hh
      · obtain ⟨r, hr, hu⟩ : ∃ r ∈ s.fp, r.use = use p.1 := by simpa [want, hp, hh] using hw
        exact .inr ⟨r, List.mem_append_left _ hr, hu⟩
  · obtain ⟨p, hp, rfl⟩ := List.mem_map.mp hr
    have hw : p ∈ want := (mem_of_mem_foldl_addPiece hp).resolve_left List.not_mem_nil
    exact ⟨rfl, p, (List.mem_filter.mp hw).1, rfl, rfl⟩

/-! ## Rejection -/

/-- A command that is in the list is found under its name, or another one of that name is. -/
theorem exists_cmd_of_mem (h : c ∈ s.cmds) : ∃ x, s.cmd c.id = some x :=
  Option.isSome_iff_exists.mp (List.find?_isSome.mpr ⟨c, h, beq_self_eq_true _⟩)

/-- A command that leaves, or is aborted, leaves memory as it was. -/
theorem AbortPath.mem {t : State} (h : AbortPath s t) : t.mem = s.mem := Eq.trans (congrArg State.mem h) rfl

/-- A rejected command is found no more, memory is as before, and its one record is a fault record with the code of the cause (R179, R329). -/
theorem reject_leaves (h : s.cmd id = some x) (f : Cause) :
    (s.reject id f).cmd id = none ∧ (s.reject id f).mem = s.mem ∧
      ∃ r, (s.reject id f).log = s.log ++ [r] ∧ r.type = 2 ∧ r.payload % 2 ^ 16 = f.code % 2 ^ 16 := by
  obtain ⟨seq, hlog⟩ := closeCmd_log h 0x02 f.payload
  exact ⟨cmd_closeCmd _ _ _ _, (closeCmd_abortPath _ _ _ _).mem, _, hlog, rfl, payload_code f⟩

/-! ## Issue -/

/-- The region records of the operands of a command under check. -/
def State.namedRegions (s : State) (c : Cmd) : List Nat := ((s.chkOf c).os.filterMap (s.opndRegion (s.chkOf c))).map (·.idx)

/-- The state in which a command has issued: its context keeps the region records it names, and it has its descriptors. -/
def State.issue (s : State) (c : Cmd) : State :=
  (s.keepRegions c (s.namedRegions c)).updCmd c.id fun y => { y with slots := c.slots, probs := c.probs, phase := .issued }

/-- The table of run-time states is one of the tables that are in canonical form. -/
theorem wf_rts_of_tablesOk (h : s.tablesOk = true) : Tab.wf CtxRt.init s.rts = true := by
  simp only [State.tablesOk, Bool.and_eq_true] at h
  obtain ⟨⟨⟨⟨_, hrts⟩, _⟩, _⟩, _⟩ := h
  exact hrts

/-- Keeping region records changes no other context's run-time state. -/
theorem rt_keepRegions_of_ne (hw : Tab.wf CtxRt.init s.rts = true) {k : Nat} (hk : k ≠ c.ctx) (rs : List Nat) :
    (s.keepRegions c rs).rt k = s.rt k := (rt_updRt s hw c.ctx k _).trans (if_neg hk)

section
variable (ha : s.alive = true) (hc : ((s.cmdsOf q).find? fun c => c.phase == .accepted) = some c) (hr : (s.ctx c.ctx).state ≠ .resetting)
include ha hc hr

/-- COMMAND_ISSUE of a command some of whose tables have not come asks for them. -/
theorem exec_commandIssue_asks (hp : (s.issueTables c).all c.hasPiece = false) :
    exec (.commandIssue q) s = .next (s.askTables c (s.issueTables c)) := by
  have hexec : exec (.commandIssue q) s = execCommandIssue q s := rfl
  simp only [hexec, execCommandIssue, hc, ha, hp, beq_false_of_ne hr]
  rfl

/-- COMMAND_ISSUE of a command whose tables have come and that fails a check rejects it. -/
theorem exec_commandIssue_rejects (hp : (s.issueTables c).all c.hasPiece = true) {f : Cause}
    (hf : s.issueChecks (s.loadDescs c) = some f) : exec (.commandIssue q) s = .next (s.reject c.id f) := by
  have hexec : exec (.commandIssue q) s = execCommandIssue q s := rfl
  simp only [hexec, execCommandIssue, hc, ha, hp, beq_false_of_ne hr, hf]
  rfl

/-- COMMAND_ISSUE of one that passes them all issues it. -/
theorem exec_commandIssue_issues (hp : (s.issueTables c).all c.hasPiece = true) (hf : s.issueChecks (s.loadDescs c) = none) :
    exec (.commandIssue q) s = .next (s.issue (s.loadDescs c)) := by
  have hexec : exec (.commandIssue q) s = execCommandIssue q s := rfl
  simp only [hexec, execCommandIssue, hc, ha, hp, beq_false_of_ne hr, hf]
  rfl

end

end Sys2Proof.Machine

open Sys2Proof Sys2Proof.Machine

/-- Settles O37: the tables are asked for until they have come, and then the checks decide between issue and rejection. -/
theorem issueChecksDecide : Obligations.IssueChecksDecide := by
  intro s q c ha hc hr
  refine ⟨fun hp => ⟨_, exec_commandIssue_asks ha hc hr hp, askPieces_asks s c _ _⟩, fun hp => ⟨fun hf => ?issued, fun f hf => ?rejected⟩⟩
  case issued =>
    refine ⟨_, exec_commandIssue_issues ha hc hr hp hf, rfl, fun hok k hk => ?_, rfl⟩
    exact rt_keepRegions_of_ne (c := s.loadDescs c) (wf_rts_of_tablesOk hok) hk _
  case rejected =>
    have hmem : c ∈ s.cmds := (List.mem_filter.mp (List.mem_of_find?_eq_some hc)).1
    obtain ⟨x, hx⟩ := exists_cmd_of_mem hmem
    exact ⟨_, exec_commandIssue_rejects ha hc hr hp hf, reject_leaves hx f⟩
end
